-- ==== Sys2Proof/Word.lean ====
section
/-!
DEFINITION. The machine words of Priong (R66, R79) and the sparse-map type the state is written in.
-/

namespace Sys2Proof

/-- A 64-bit register or memory word (R79). -/
abbrev Word := BitVec 64

/-- A byte (R4). -/
abbrev Byte := BitVec 8

/-- A vector register of 512 bits (R79, R142). -/
abbrev VWord := BitVec 512

/-- The value of a mask register (R79). -/
abbrev MWord := BitVec 16

/-- A finite map from numbers to values as plain data: a list of pairs, keys rising. -/
abbrev SMap (α : Type) := List (Nat × α)

end Sys2Proof
end

