-- ==== Sys2Proof/Syntax/Operand.lean ====
section
/-!
DEFINITION. The operand types of the instructions: register numbers and the closed sets of names their fields select
(R42, R69, R89, R130, R137, R146, R150, R153, R219).
-/

namespace Sys2Proof

/-- The number of an x or v register (R69). -/
abbrev Reg := BitVec 5

/-- The number of a mask register, m0 to m7 (R69, R144). -/
abbrev MaskReg := BitVec 3

/-- Half the number of an even register that names a register pair (R73, R198). -/
abbrev Pair := BitVec 4

/-- A stall count (R66). -/
abbrev Stall := BitVec 2

/-- The address modes of R89. -/
inductive AddrMode where
  | flat | own | clust | coresel
  deriving DecidableEq, Repr

/-- Integer element widths, in the order of their code in VLOAD, VSTORE, VINT and VPERM (R146, R150). -/
inductive IntW where
  | w32 | w16 | w8 | w64
  deriving DecidableEq, Repr

/-- Floating-point element formats of VFP (R153). -/
inductive FpFmt where
  | f32 | bf16 | f16
  deriving DecidableEq, Repr

/-- Rounding modes (R42). -/
inductive RoundMode where
  | rne | rtz | rdn | rup | sr
  deriving DecidableEq, Repr

/-- Orderings of atomics (R130). -/
inductive AmoOrd where
  | rlx | acq | rel | ar
  deriving DecidableEq, Repr

/-- Scopes of atomics (R130). -/
inductive AmoScope where
  | core | clu | die | pkg
  deriving DecidableEq, Repr

/-- Scopes of fences (R137). -/
inductive FenceScope where
  | ctx | core | clu | die | pkg | dom
  deriving DecidableEq, Repr

/-- The engine registers of MSET and MGET (R219). -/
inductive EngReg where
  | mgeo | mfmt | mbase | mscp | macc | mdrh | mdst
  deriving DecidableEq, Repr

end Sys2Proof
end

