-- ==== Sys2Proof/Syntax.lean ====
section
/-!
DEFINITION. The instructions of Priong and the other steps of the part, one constructor per row of the opcode table
(R75, R102 to R261 for the words; the rules of each step for the rest). Register numbers and codes are already
fields of their own: the machine never sees an encoding.
-/

namespace Sys2Proof

/-- One constructor per row of the opcode table. The first 244 are the instructions, in the order of their majors.
The constructors without operands are the rows that have no word of their own, the steps of queues, engines,
distributors, links and other units: what the outside or the interleaving supplies for such a step stands at the head
of the state's agenda. WFE_NOTICE is among them: its word is WFE's, and the issue step of a service core hands its
operands on. -/
inductive Instr where
  -- major LOAD (0x00), M format, R110, R111
  | lb (rd rs1 : Reg) (imm : BitVec 10) (mode : AddrMode) (stl : Stall)
  | lh (rd rs1 : Reg) (imm : BitVec 10) (mode : AddrMode) (stl : Stall)
  | lw (rd rs1 : Reg) (imm : BitVec 10) (mode : AddrMode) (stl : Stall)
  | ld (rd rs1 : Reg) (imm : BitVec 10) (mode : AddrMode) (stl : Stall)
  | lbu (rd rs1 : Reg) (imm : BitVec 10) (mode : AddrMode) (stl : Stall)
  | lhu (rd rs1 : Reg) (imm : BitVec 10) (mode : AddrMode) (stl : Stall)
  | lwu (rd rs1 : Reg) (imm : BitVec 10) (mode : AddrMode) (stl : Stall)
  -- major STORE (0x01), R110, R111
  | sb (src rs1 : Reg) (imm : BitVec 10) (mode : AddrMode) (stl : Stall)
  | sh (src rs1 : Reg) (imm : BitVec 10) (mode : AddrMode) (stl : Stall)
  | sw (src rs1 : Reg) (imm : BitVec 10) (mode : AddrMode) (stl : Stall)
  | sd (src rs1 : Reg) (imm : BitVec 10) (mode : AddrMode) (stl : Stall)
  -- major OPIMM (0x02), R102
  | addi (rd rs1 : Reg) (imm : BitVec 12) (stl : Stall)
  | andi (rd rs1 : Reg) (imm : BitVec 12) (stl : Stall)
  | ori (rd rs1 : Reg) (imm : BitVec 12) (stl : Stall)
  | xori (rd rs1 : Reg) (imm : BitVec 12) (stl : Stall)
  | slti (rd rs1 : Reg) (imm : BitVec 12) (stl : Stall)
  | sltiu (rd rs1 : Reg) (imm : BitVec 12) (stl : Stall)
  | slli (rd rs1 : Reg) (sh : BitVec 6) (stl : Stall)
  | srli (rd rs1 : Reg) (sh : BitVec 6) (stl : Stall)
  | srai (rd rs1 : Reg) (sh : BitVec 6) (stl : Stall)
  | rori (rd rs1 : Reg) (sh : BitVec 6) (stl : Stall)
  | clz (rd rs1 : Reg) (stl : Stall)
  | ctz (rd rs1 : Reg) (stl : Stall)
  | popc (rd rs1 : Reg) (stl : Stall)
  -- major OP (0x03), R103
  | add (rd rs1 rs2 : Reg) (stl : Stall)
  | sub (rd rs1 rs2 : Reg) (stl : Stall)
  | and (rd rs1 rs2 : Reg) (stl : Stall)
  | or (rd rs1 rs2 : Reg) (stl : Stall)
  | xor (rd rs1 rs2 : Reg) (stl : Stall)
  | slt (rd rs1 rs2 : Reg) (stl : Stall)
  | sltu (rd rs1 rs2 : Reg) (stl : Stall)
  | sll (rd rs1 rs2 : Reg) (stl : Stall)
  | srl (rd rs1 rs2 : Reg) (stl : Stall)
  | sra (rd rs1 rs2 : Reg) (stl : Stall)
  | ror (rd rs1 rs2 : Reg) (stl : Stall)
  | min (rd rs1 rs2 : Reg) (stl : Stall)
  | max (rd rs1 rs2 : Reg) (stl : Stall)
  | minu (rd rs1 rs2 : Reg) (stl : Stall)
  | maxu (rd rs1 rs2 : Reg) (stl : Stall)
  | addS (rd rs1 rs2 : Reg) (stl : Stall)
  | subS (rd rs1 rs2 : Reg) (stl : Stall)
  | adduS (rd rs1 rs2 : Reg) (stl : Stall)
  | subuS (rd rs1 rs2 : Reg) (stl : Stall)
  | mul (rd rs1 rs2 : Reg) (stl : Stall)
  | mulh (rd rs1 rs2 : Reg) (stl : Stall)
  | mulhu (rd rs1 rs2 : Reg) (stl : Stall)
  | mulhsu (rd rs1 rs2 : Reg) (stl : Stall)
  | div (rd rs1 rs2 : Reg) (stl : Stall)
  | divu (rd rs1 rs2 : Reg) (stl : Stall)
  | rem (rd rs1 rs2 : Reg) (stl : Stall)
  | remu (rd rs1 rs2 : Reg) (stl : Stall)
  -- major OPIMM32 (0x04), R104
  | addiw (rd rs1 : Reg) (imm : BitVec 12) (stl : Stall)
  | slliw (rd rs1 : Reg) (sh : BitVec 5) (stl : Stall)
  | srliw (rd rs1 : Reg) (sh : BitVec 5) (stl : Stall)
  | sraiw (rd rs1 : Reg) (sh : BitVec 5) (stl : Stall)
  | clzw (rd rs1 : Reg) (stl : Stall)
  | ctzw (rd rs1 : Reg) (stl : Stall)
  | popcw (rd rs1 : Reg) (stl : Stall)
  -- major OP32 (0x05), R104
  | addw (rd rs1 rs2 : Reg) (stl : Stall)
  | subw (rd rs1 rs2 : Reg) (stl : Stall)
  | sllw (rd rs1 rs2 : Reg) (stl : Stall)
  | srlw (rd rs1 rs2 : Reg) (stl : Stall)
  | sraw (rd rs1 rs2 : Reg) (stl : Stall)
  | addwS (rd rs1 rs2 : Reg) (stl : Stall)
  | subwS (rd rs1 rs2 : Reg) (stl : Stall)
  | mulw (rd rs1 rs2 : Reg) (stl : Stall)
  | divw (rd rs1 rs2 : Reg) (stl : Stall)
  | divuw (rd rs1 rs2 : Reg) (stl : Stall)
  | remw (rd rs1 rs2 : Reg) (stl : Stall)
  | remuw (rd rs1 rs2 : Reg) (stl : Stall)
  -- major LUI (0x06), R105
  | lui (rd : Reg) (imm : BitVec 20) (stl : Stall)
  -- major AUIPC (0x07), R105
  | auipc (rd : Reg) (imm : BitVec 20) (stl : Stall)
  -- major BRANCH (0x08), R106
  | beq (rs1 rs2 : Reg) (off : BitVec 12) (stl : Stall)
  | bne (rs1 rs2 : Reg) (off : BitVec 12) (stl : Stall)
  | blt (rs1 rs2 : Reg) (off : BitVec 12) (stl : Stall)
  | bge (rs1 rs2 : Reg) (off : BitVec 12) (stl : Stall)
  | bltu (rs1 rs2 : Reg) (off : BitVec 12) (stl : Stall)
  | bgeu (rs1 rs2 : Reg) (off : BitVec 12) (stl : Stall)
  -- major JAL (0x09), R107
  | jal (rd : Reg) (off : BitVec 20) (stl : Stall)
  -- major JALR (0x0A), R108
  | jalr (rd rs1 : Reg) (imm : BitVec 12) (stl : Stall)
  -- major SYSTEM (0x0B), R115, R121
  | csrrw (rd rs1 : Reg) (csr : BitVec 12) (stl : Stall)
  | csrrs (rd rs1 : Reg) (csr : BitVec 12) (stl : Stall)
  | csrrc (rd rs1 : Reg) (csr : BitVec 12) (stl : Stall)
  | csrrwi (rd : Reg) (csr : BitVec 12) (uimm : BitVec 5) (stl : Stall)
  | csrrsi (rd : Reg) (csr : BitVec 12) (uimm : BitVec 5) (stl : Stall)
  | csrrci (rd : Reg) (csr : BitVec 12) (uimm : BitVec 5) (stl : Stall)
  | ecall (stl : Stall)
  | ebreak (stl : Stall)
  | wfe (rd rs1 : Reg) (stl : Stall)
  | fenceI (stl : Stall)
  | tlbw (rs1 rs2 : Reg) (stl : Stall)
  | tlbinv (rs1 rs2 : Reg) (stl : Stall)
  | resume (rd rs1 : Reg) (stl : Stall)
  | kill (rd rs1 : Reg) (stl : Stall)
  | prio (rs1 : Reg) (stl : Stall)
  -- major AMO (0x0C), R130, R131
  | amoswap (rd rs1 rs2 : Reg) (ord : AmoOrd) (wide : Bool) (scope : AmoScope) (stl : Stall)
  | amoadd (rd rs1 rs2 : Reg) (ord : AmoOrd) (wide : Bool) (scope : AmoScope) (stl : Stall)
  | amoand (rd rs1 rs2 : Reg) (ord : AmoOrd) (wide : Bool) (scope : AmoScope) (stl : Stall)
  | amoor (rd rs1 rs2 : Reg) (ord : AmoOrd) (wide : Bool) (scope : AmoScope) (stl : Stall)
  | amoxor (rd rs1 rs2 : Reg) (ord : AmoOrd) (wide : Bool) (scope : AmoScope) (stl : Stall)
  | amomin (rd rs1 rs2 : Reg) (ord : AmoOrd) (wide : Bool) (scope : AmoScope) (stl : Stall)
  | amomax (rd rs1 rs2 : Reg) (ord : AmoOrd) (wide : Bool) (scope : AmoScope) (stl : Stall)
  | amominu (rd rs1 rs2 : Reg) (ord : AmoOrd) (wide : Bool) (scope : AmoScope) (stl : Stall)
  | amomaxu (rd rs1 rs2 : Reg) (ord : AmoOrd) (wide : Bool) (scope : AmoScope) (stl : Stall)
  | lr (rd rs1 : Reg) (ord : AmoOrd) (wide : Bool) (scope : AmoScope) (stl : Stall)
  | sc (rd rs1 rs2 : Reg) (ord : AmoOrd) (wide : Bool) (scope : AmoScope) (stl : Stall)
  -- major FENCE (0x0D), R137
  | fence (scope : FenceScope) (stl : Stall)
  | fenceSc (stl : Stall)
  | xfence (dst src : BitVec 6) (scope : FenceScope) (stl : Stall)
  -- major VLOAD (0x0E), R146
  | vld (vd rs1 : Reg) (mode : AddrMode) (w : IntW) (m : MaskReg) (stl : Stall)
  | vlds (vd rs1 rs2 : Reg) (mode : AddrMode) (w : IntW) (m : MaskReg) (stl : Stall)
  | vldx (vd rs1 vs2 : Reg) (mode : AddrMode) (w : IntW) (m : MaskReg) (stl : Stall)
  -- major VSTORE (0x0F), R146
  | vst (vs3 rs1 : Reg) (mode : AddrMode) (w : IntW) (m : MaskReg) (stl : Stall)
  | vsts (vs3 rs1 rs2 : Reg) (mode : AddrMode) (w : IntW) (m : MaskReg) (stl : Stall)
  | vstx (vs3 rs1 vs2 : Reg) (mode : AddrMode) (w : IntW) (m : MaskReg) (stl : Stall)
  -- major VINT (0x10), R150
  | vadd (vd vs1 vs2 : Reg) (w : IntW) (m : MaskReg) (stl : Stall)
  | vsub (vd vs1 vs2 : Reg) (w : IntW) (m : MaskReg) (stl : Stall)
  | vmul (vd vs1 vs2 : Reg) (w : IntW) (m : MaskReg) (stl : Stall)
  | vmulh (vd vs1 vs2 : Reg) (w : IntW) (m : MaskReg) (stl : Stall)
  | vmulhu (vd vs1 vs2 : Reg) (w : IntW) (m : MaskReg) (stl : Stall)
  | vmin (vd vs1 vs2 : Reg) (w : IntW) (m : MaskReg) (stl : Stall)
  | vmax (vd vs1 vs2 : Reg) (w : IntW) (m : MaskReg) (stl : Stall)
  | vminu (vd vs1 vs2 : Reg) (w : IntW) (m : MaskReg) (stl : Stall)
  | vmaxu (vd vs1 vs2 : Reg) (w : IntW) (m : MaskReg) (stl : Stall)
  | vand (vd vs1 vs2 : Reg) (w : IntW) (m : MaskReg) (stl : Stall)
  | vor (vd vs1 vs2 : Reg) (w : IntW) (m : MaskReg) (stl : Stall)
  | vxor (vd vs1 vs2 : Reg) (w : IntW) (m : MaskReg) (stl : Stall)
  | vsll (vd vs1 vs2 : Reg) (w : IntW) (m : MaskReg) (stl : Stall)
  | vsrl (vd vs1 vs2 : Reg) (w : IntW) (m : MaskReg) (stl : Stall)
  | vsra (vd vs1 vs2 : Reg) (w : IntW) (m : MaskReg) (stl : Stall)
  | vaddS (vd vs1 vs2 : Reg) (w : IntW) (m : MaskReg) (stl : Stall)
  | vsubS (vd vs1 vs2 : Reg) (w : IntW) (m : MaskReg) (stl : Stall)
  | vadduS (vd vs1 vs2 : Reg) (w : IntW) (m : MaskReg) (stl : Stall)
  | vsubuS (vd vs1 vs2 : Reg) (w : IntW) (m : MaskReg) (stl : Stall)
  | vmacc (vd vs1 vs2 : Reg) (w : IntW) (m : MaskReg) (stl : Stall)
  | vsel (vd vs1 vs2 : Reg) (w : IntW) (m : MaskReg) (stl : Stall)
  | vbcast (vd rs1 : Reg) (w : IntW) (m : MaskReg) (stl : Stall)
  | vcmpeq (md : MaskReg) (vs1 vs2 : Reg) (w : IntW) (m : MaskReg) (stl : Stall)
  | vcmpne (md : MaskReg) (vs1 vs2 : Reg) (w : IntW) (m : MaskReg) (stl : Stall)
  | vcmplt (md : MaskReg) (vs1 vs2 : Reg) (w : IntW) (m : MaskReg) (stl : Stall)
  | vcmple (md : MaskReg) (vs1 vs2 : Reg) (w : IntW) (m : MaskReg) (stl : Stall)
  | vcmpltu (md : MaskReg) (vs1 vs2 : Reg) (w : IntW) (m : MaskReg) (stl : Stall)
  | vcmpleu (md : MaskReg) (vs1 vs2 : Reg) (w : IntW) (m : MaskReg) (stl : Stall)
  -- major VFP (0x11), R153
  | vfadd (vd vs1 vs2 : Reg) (fmt : FpFmt) (m : MaskReg) (stl : Stall)
  | vfsub (vd vs1 vs2 : Reg) (fmt : FpFmt) (m : MaskReg) (stl : Stall)
  | vfmul (vd vs1 vs2 : Reg) (fmt : FpFmt) (m : MaskReg) (stl : Stall)
  | vfdiv (vd vs1 vs2 : Reg) (fmt : FpFmt) (m : MaskReg) (stl : Stall)
  | vfmin (vd vs1 vs2 : Reg) (fmt : FpFmt) (m : MaskReg) (stl : Stall)
  | vfmax (vd vs1 vs2 : Reg) (fmt : FpFmt) (m : MaskReg) (stl : Stall)
  | vfma (vd vs1 vs2 : Reg) (fmt : FpFmt) (m : MaskReg) (stl : Stall)
  | vfsqrt (vd vs1 : Reg) (fmt : FpFmt) (m : MaskReg) (stl : Stall)
  | vfexp2 (vd vs1 : Reg) (fmt : FpFmt) (m : MaskReg) (stl : Stall)
  | vfabs (vd vs1 : Reg) (fmt : FpFmt) (m : MaskReg) (stl : Stall)
  | vfneg (vd vs1 : Reg) (fmt : FpFmt) (m : MaskReg) (stl : Stall)
  | vfsgnj (vd vs1 vs2 : Reg) (fmt : FpFmt) (m : MaskReg) (stl : Stall)
  | vfcmpeq (md : MaskReg) (vs1 vs2 : Reg) (m : MaskReg) (stl : Stall)
  | vfcmplt (md : MaskReg) (vs1 vs2 : Reg) (m : MaskReg) (stl : Stall)
  | vfcmple (md : MaskReg) (vs1 vs2 : Reg) (m : MaskReg) (stl : Stall)
  | vfcmpun (md : MaskReg) (vs1 vs2 : Reg) (m : MaskReg) (stl : Stall)
  -- major VCVT (0x12), R156, R157
  | vcvtF32Bf16 (vd vs1 : Reg) (part : BitVec 1) (m : MaskReg) (stl : Stall)
  | vcvtF32F16 (vd vs1 : Reg) (part : BitVec 1) (m : MaskReg) (stl : Stall)
  | vcvtBf16F32 (vd vs1 : Reg) (part : BitVec 1) (rm : RoundMode) (m : MaskReg) (stl : Stall)
  | vcvtF16F32 (vd vs1 : Reg) (part : BitVec 1) (rm : RoundMode) (m : MaskReg) (stl : Stall)
  | vcvtF32E4m3 (vd vs1 : Reg) (part : BitVec 2) (m : MaskReg) (stl : Stall)
  | vcvtF32E5m2 (vd vs1 : Reg) (part : BitVec 2) (m : MaskReg) (stl : Stall)
  | vcvtE4m3F32 (vd vs1 : Reg) (part : BitVec 2) (rm : RoundMode) (m : MaskReg) (stl : Stall)
  | vcvtE5m2F32 (vd vs1 : Reg) (part : BitVec 2) (rm : RoundMode) (m : MaskReg) (stl : Stall)
  | vcvtBf16F16 (vd vs1 : Reg) (rm : RoundMode) (m : MaskReg) (stl : Stall)
  | vcvtF16Bf16 (vd vs1 : Reg) (rm : RoundMode) (m : MaskReg) (stl : Stall)
  | vcvtF32I32 (vd vs1 : Reg) (rm : RoundMode) (m : MaskReg) (stl : Stall)
  | vcvtF32U32 (vd vs1 : Reg) (rm : RoundMode) (m : MaskReg) (stl : Stall)
  | vcvtI32F32 (vd vs1 : Reg) (rm : RoundMode) (m : MaskReg) (stl : Stall)
  | vcvtU32F32 (vd vs1 : Reg) (rm : RoundMode) (m : MaskReg) (stl : Stall)
  | vcvtF32I16 (vd vs1 : Reg) (part : BitVec 1) (m : MaskReg) (stl : Stall)
  | vcvtF32I8 (vd vs1 : Reg) (part : BitVec 2) (m : MaskReg) (stl : Stall)
  | vcvtI16F32 (vd vs1 : Reg) (part : BitVec 1) (rm : RoundMode) (m : MaskReg) (stl : Stall)
  | vcvtI8F32 (vd vs1 : Reg) (part : BitVec 2) (rm : RoundMode) (m : MaskReg) (stl : Stall)
  | vcvtI32I16 (vd vs1 : Reg) (part : BitVec 1) (m : MaskReg) (stl : Stall)
  | vcvtI32I8 (vd vs1 : Reg) (part : BitVec 2) (m : MaskReg) (stl : Stall)
  | vcvtI16I32 (vd vs1 : Reg) (part : BitVec 1) (m : MaskReg) (stl : Stall)
  | vcvtI8I32 (vd vs1 : Reg) (part : BitVec 2) (m : MaskReg) (stl : Stall)
  -- major VPERM (0x13), R159
  | vredsum (vd vs1 : Reg) (w : IntW) (m : MaskReg) (stl : Stall)
  | vredmin (vd vs1 : Reg) (w : IntW) (m : MaskReg) (stl : Stall)
  | vredmax (vd vs1 : Reg) (w : IntW) (m : MaskReg) (stl : Stall)
  | vredminu (vd vs1 : Reg) (w : IntW) (m : MaskReg) (stl : Stall)
  | vredmaxu (vd vs1 : Reg) (w : IntW) (m : MaskReg) (stl : Stall)
  | vfredsum (vd vs1 : Reg) (fmt : FpFmt) (m : MaskReg) (stl : Stall)
  | vfredmin (vd vs1 : Reg) (fmt : FpFmt) (m : MaskReg) (stl : Stall)
  | vfredmax (vd vs1 : Reg) (fmt : FpFmt) (m : MaskReg) (stl : Stall)
  | vscan (vd vs1 rc : Reg) (half : Bool) (m : MaskReg) (stl : Stall)
  | vfscan (vd vs1 rc : Reg) (fmt : FpFmt) (m : MaskReg) (stl : Stall)
  | vcompress (vd vs1 rc : Reg) (w : IntW) (m : MaskReg) (stl : Stall)
  | vpermx (vd vs1 vs2 : Reg) (w : IntW) (m : MaskReg) (stl : Stall)
  | vslide (vd vs1 rs2 : Reg) (w : IntW) (m : MaskReg) (stl : Stall)
  | vmand (md ms1 ms2 : MaskReg) (stl : Stall)
  | vmor (md ms1 ms2 : MaskReg) (stl : Stall)
  | vmxor (md ms1 ms2 : MaskReg) (stl : Stall)
  | vmandn (md ms1 ms2 : MaskReg) (stl : Stall)
  | vmnot (md ms1 : MaskReg) (stl : Stall)
  | vmpopc (rd : Reg) (ms1 : MaskReg) (stl : Stall)
  | vmfirst (rd : Reg) (ms1 : MaskReg) (stl : Stall)
  | vmtox (rd : Reg) (ms1 : MaskReg) (stl : Stall)
  | vxtom (md : MaskReg) (rs1 : Reg) (stl : Stall)
  | vextr (rd vs1 rs2 : Reg) (w : IntW) (stl : Stall)
  | vins (vd rs1 rs2 : Reg) (w : IntW) (stl : Stall)
  -- major STREAM (0x14), R167
  | sbind (n : BitVec 3) (stl : Stall)
  | sclose (n : BitVec 3) (stl : Stall)
  -- major EVENT (0x15), R195
  | evsend (rs1 rs2 : Reg) (stl : Stall)
  | evsendnb (rd rs1 rs2 : Reg) (stl : Stall)
  | evpop (rd : Pair) (rs1 : Reg) (stl : Stall)
  | evmc (rs1 rs2 : Reg) (stl : Stall)
  | sdq (rd vs rs1 : Reg) (m : MaskReg) (stl : Stall)
  -- major TASK (0x16), R201
  | exit (stl : Stall)
  | spawn (rs1 rs2 : Reg) (stl : Stall)
  | migr (rs1 rs2 : Reg) (stl : Stall)
  | yield (stl : Stall)
  | jobcard (rd : Reg) (rs1 rs2 : Pair) (stl : Stall)
  -- major SYNC (0x17), R210, R251
  | barinit (rd rs1 rs2 : Reg) (stl : Stall)
  | bararv (rd rs1 : Reg) (stl : Stall)
  | barwait (rs1 rs2 : Reg) (stl : Stall)
  | barsync (rs1 : Reg) (stl : Stall)
  | tarm (rs1 : Reg) (stl : Stall)
  | tclr (rs1 : Reg) (stl : Stall)
  | twany (rd rs1 : Reg) (stl : Stall)
  | twall (rs1 : Reg) (stl : Stall)
  | tffr (rd rs1 : Reg) (stl : Stall)
  | cntwaitge (rs1 rs2 : Reg) (stl : Stall)
  -- major MATRIX (0x18), R219
  | mset (er : EngReg) (rs1 : Reg) (stl : Stall)
  | mget (rd : Reg) (er : EngReg) (stl : Stall)
  | mloadw (rd rs1 rs2 : Reg) (stl : Stall)
  | mmul (rd rs1 rs2 : Reg) (stl : Stall)
  | evmac (rd rs1 : Reg) (stl : Stall)
  | mdrain (rd rs1 : Reg) (stl : Stall)
  | mzero (rd rs1 : Reg) (stl : Stall)
  | mchk (rd rs1 : Reg) (stl : Stall)
  -- major COPY (0x19), R246
  | cpush (rs1 rs2 : Pair) (stl : Stall)
  | cpushnb (rd : Reg) (rs1 rs2 : Pair) (stl : Stall)
  -- major SLICE (0x1A), R256
  | gather (rd : Reg) (rs1 rs2 : Pair) (stl : Stall)
  | scatadd (rd : Reg) (rs1 rs2 : Pair) (stl : Stall)
  | bin (rd : Reg) (rs1 rs2 : Pair) (stl : Stall)
  -- major NET (0x1B), R259
  | get (rd : Reg) (rs1 rs2 : Pair) (stl : Stall)
  | put (rd : Reg) (rs1 rs2 : Pair) (stl : Stall)
  | redcopy (rd : Reg) (rs1 rs2 : Pair) (stl : Stall)
  | ramo (rd : Reg) (rs1 rs2 : Pair) (stl : Stall)
  -- the steps of the table that have no word of their own
  | wfeNotice
  | streamPrefetch
  | jobCardDeal
  | cardTaskStart
  | matrixOpStart
  | mmulGroupCommit
  | drainRow
  | drainDispatch
  | rowDeparture
  | engineRequestStart
  | tagPost
  | copyBytesWritten
  | counterAdd
  | requestHalt
  | requestResume
  | requestAccessFault
  | gatherSnapshot
  | scataddUpdate
  | netRemoteWrite
  | netRemoteRead
  | netAck
  | netRefusal
  | redcopyBlock
  | ramoAtTarget
  | ramoResponse
  | remoteFlatAccess
  | remoteLoadResponse
  | remoteStoreAck
  | eventArrival
  | clockGate
  | flitHopResend
  | eventParityError
  | eventDispatch
  | repartition
  | chtabWrite
  | genWrite
  | stlchkWrite
  | fflagsAccess
  | asidWrite
  | trappairWrite
  | ctxwinWrite
  | regnWrite
  | csrWrite
  | trapNotice
  | serviceContextRestart
  | tlbMissNotice
  | parkResume
  | coachSwap
  | coachSave
  | coachReadmission
  | recordArrival
  | ringReturn
  | bankRecordWithdrawn
  | recordStart
  | coachAdmission
  | placementStep
  | predlExpiry
  | gangReadyPost
  | gangReadyMessage
  | gangDecision
  | sliceStart
  | sliceEnd
  | stageWeightUpdate
  | contextAged
  | activeMessage
  | logForward
  | hostSend
  | hostRdmaWrite
  | hostRdmaRead
  | registerLaunch
  | retireLaunch
  | reqRead
  | reqWrite
  | tokens
  | transientTimeout
  | persistReq
  | persistOn
  | persistOff
  | persistDone
  | lineEviction
  | tierPromote
  | tierEvict
  | tierQuery
  | tileHeld
  | tileAbsent
  | freeze
  | freezeAtTick
  | release
  | releaseAtTick
  | scanRead
  | linkUnitReplay
  | linkRetrain
  | dieOutOfService
  | timeMessage
  | domainJoin
  | budgetPeriod
  | governorPeriod
  | thermalThrottle
  | thermalTrip
  | uncorrectableError
  | powerOn
  | getVersion
  | getCapabilities
  | negotiateAlgorithms
  | getDigests
  | getCertificate
  | challenge
  | getMeasurements
  | illegalInstruction
  | fetchFault
  | transientAttempt
  | constrainedSequenceLimit
  | vdnRemap
  | spareColumnSubstitution
  | budgetSetting
  deriving DecidableEq, Repr

end Sys2Proof
end

