-- ==== Sys2Proof/WellFormed.lean ====
section
/-!
DEFINITION. Which terms of `Instr` are instructions of the machine: what the fields alone do not exclude
(R68, R137, R151, R198).
-/

namespace Sys2Proof

/-- A compare accepts only 32- and 64-bit elements (R151). -/
def IntW.comparable : IntW → Bool
  | .w32 => true | .w64 => true | .w16 => false | .w8 => false

/-- The well-formed instructions. The word of LB with every field 0 is 0x0000_0000, which is no instruction (R68); an
integer compare takes int32 or int64 (R151); XFENCE names a source and a destination class (R137); EVPOP names a pair
other than x0 (R198). Every other combination of fields is an instruction. -/
def Instr.wellFormed : Instr → Bool
  | .lb rd rs1 imm mode stl => !(rd == 0 && rs1 == 0 && imm == 0 && mode == .flat && stl == 0)
  | .xfence dst src _ _ => dst != 0 && src != 0
  | .evpop rd _ _ => rd != 0
  | .vcmpeq _ _ _ w _ _ => w.comparable
  | .vcmpne _ _ _ w _ _ => w.comparable
  | .vcmplt _ _ _ w _ _ => w.comparable
  | .vcmple _ _ _ w _ _ => w.comparable
  | .vcmpltu _ _ _ w _ _ => w.comparable
  | .vcmpleu _ _ _ w _ _ => w.comparable
  | _ => true

end Sys2Proof
end

