-- ==== Sys2Proof/Decode.lean ====
section
/-!
DEFINITION. From a word to an instruction and back (R66 to R76): the fields of the nine formats, one decoding
function per major, `decode`, total on all words and rejecting what R76 lists, and `encode`, from the same tables.
-/

namespace Sys2Proof

/-- Bits [lo+len-1 : lo] of a word. -/
def fld (lo len : Nat) (w : BitVec 32) : BitVec len := BitVec.extractLsb' lo len w

/-- An instruction word cut into every field that some format names (R69); fields overlap. -/
structure Fields where
  stl : BitVec 2
  rd : BitVec 5
  f3 : BitVec 3
  rs1 : BitVec 5
  rs2 : BitVec 5
  f7 : BitVec 7

namespace Fields

/-- The fields of a word. -/
def ofWord (w : BitVec 32) : Fields where
  stl := fld 0 2 w
  rd := fld 7 5 w
  f3 := fld 12 3 w
  rs1 := fld 15 5 w
  rs2 := fld 20 5 w
  f7 := fld 25 7 w

/-- The immediate of the I format, bits [31:20] (R69). -/
def imm12 (f : Fields) : BitVec 12 := f.f7 ++ f.rs2
/-- The offset of the B format, bits [31:25] and [11:7] (R69). -/
def imm12s (f : Fields) : BitVec 12 := f.f7 ++ f.rd
/-- Bits [31:26]. -/
def f6 (f : Fields) : BitVec 6 := f.f7.extractLsb' 1 6
/-- Bits [25:20]. -/
def sh6 (f : Fields) : BitVec 6 := f.imm12.extractLsb' 0 6
/-- The displacement of the M format, bits [31:22] (R69). -/
def imm10 (f : Fields) : BitVec 10 := f.imm12.extractLsb' 2 10
/-- The mode of the M format, bits [21:20] (R69). -/
def mode (f : Fields) : BitVec 2 := f.rs2.extractLsb' 0 2
/-- Bits [31:27], vfunc of the V format (R69). -/
def vfunc (f : Fields) : BitVec 5 := f.f7.extractLsb' 2 5
/-- Bits [31:29], the kind of a vector access (R146). -/
def kind (f : Fields) : BitVec 3 := f.f7.extractLsb' 4 3
/-- Bits [28:27], the mode of a vector access (R146). -/
def vmode (f : Fields) : BitVec 2 := f.f7.extractLsb' 2 2
/-- Bits [26:25], etype of the V format (R69). -/
def etype (f : Fields) : BitVec 2 := f.f7.extractLsb' 0 2
/-- Bit [26]. -/
def etypeHi (f : Fields) : BitVec 1 := f.f7.extractLsb' 1 1
/-- Bit [25], as a truth value. -/
def etypeLo (f : Fields) : Bool := f.f7.getLsbD 0
/-- Bit [25], a part number of one bit (R156). -/
def part1 (f : Fields) : BitVec 1 := f.f7.extractLsb' 0 1
/-- Bits [24:23]. -/
def rs2Hi (f : Fields) : BitVec 2 := f.rs2.extractLsb' 3 2
/-- Bits [22:20]. -/
def rs2Lo (f : Fields) : BitVec 3 := f.rs2.extractLsb' 0 3
/-- Bits [19:18]. -/
def rs1Hi (f : Fields) : BitVec 2 := f.rs1.extractLsb' 3 2
/-- Bits [17:15]. -/
def rs1Lo (f : Fields) : BitVec 3 := f.rs1.extractLsb' 0 3
/-- Bits [11:10]. -/
def rdHi (f : Fields) : BitVec 2 := f.rd.extractLsb' 3 2
/-- Bits [9:7]. -/
def rdLo (f : Fields) : BitVec 3 := f.rd.extractLsb' 0 3
/-- Bit [14], the width of an atomic (R130). -/
def wide (f : Fields) : Bool := f.f3.getLsbD 2
/-- Bits [13:12], the scope of an atomic (R130). -/
def scope2 (f : Fields) : BitVec 2 := f.f3.extractLsb' 0 2
/-- The low bit of rs2: 1 names no register pair (R73). -/
def rs2Odd (f : Fields) : BitVec 1 := f.rs2.extractLsb' 0 1
/-- The low bit of rs1. -/
def rs1Odd (f : Fields) : BitVec 1 := f.rs1.extractLsb' 0 1
/-- The low bit of rd. -/
def rdOdd (f : Fields) : BitVec 1 := f.rd.extractLsb' 0 1
/-- The register pair of rs2 (R73). -/
def rs2Pair (f : Fields) : BitVec 4 := f.rs2.extractLsb' 1 4
/-- The register pair of rs1 (R73). -/
def rs1Pair (f : Fields) : BitVec 4 := f.rs1.extractLsb' 1 4
/-- The register pair of rd (R198). -/
def rdPair (f : Fields) : BitVec 4 := f.rd.extractLsb' 1 4

end Fields

/-- A truth value as a bit. -/
def boolBit (b : Bool) : BitVec 1 := if b then 1 else 0

/-- Code of an address mode (R89). -/
def AddrMode.bits : AddrMode → BitVec 2
  | .flat => 0 | .own => 1 | .clust => 2 | .coresel => 3
/-- Address mode of a code (R89). -/
def AddrMode.ofBits (b : BitVec 2) : AddrMode :=
  if b = 0 then .flat else if b = 1 then .own else if b = 2 then .clust else .coresel
/-- Code of an integer width (R146, R150). -/
def IntW.bits : IntW → BitVec 2
  | .w32 => 0 | .w16 => 1 | .w8 => 2 | .w64 => 3
/-- Integer width of a code (R146, R150). -/
def IntW.ofBits (b : BitVec 2) : IntW :=
  if b = 0 then .w32 else if b = 1 then .w16 else if b = 2 then .w8 else .w64
/-- Code of a floating-point format (R153). -/
def FpFmt.bits : FpFmt → BitVec 2
  | .f32 => 0 | .bf16 => 1 | .f16 => 2
/-- Floating-point format of a code; 0b11 is reserved (R72). -/
def FpFmt.ofBits? (b : BitVec 2) : Option FpFmt :=
  if b = 0 then some .f32 else if b = 1 then some .bf16 else if b = 2 then some .f16 else none
/-- Code of a rounding mode (R42). -/
def RoundMode.bits : RoundMode → BitVec 3
  | .rne => 0 | .rtz => 1 | .rdn => 2 | .rup => 3 | .sr => 4
/-- Rounding mode of a code; 0b101 to 0b111 are reserved (R42). -/
def RoundMode.ofBits? (b : BitVec 3) : Option RoundMode :=
  if b = 0 then some .rne else if b = 1 then some .rtz else if b = 2 then some .rdn
  else if b = 3 then some .rup else if b = 4 then some .sr else none
/-- Code of an ordering (R130). -/
def AmoOrd.bits : AmoOrd → BitVec 2
  | .rlx => 0 | .acq => 1 | .rel => 2 | .ar => 3
/-- Ordering of a code (R130). -/
def AmoOrd.ofBits (b : BitVec 2) : AmoOrd :=
  if b = 0 then .rlx else if b = 1 then .acq else if b = 2 then .rel else .ar
/-- Code of the scope of an atomic (R130). -/
def AmoScope.bits : AmoScope → BitVec 2
  | .core => 0 | .clu => 1 | .die => 2 | .pkg => 3
/-- Scope of a code (R130). -/
def AmoScope.ofBits (b : BitVec 2) : AmoScope :=
  if b = 0 then .core else if b = 1 then .clu else if b = 2 then .die else .pkg
/-- Code of the scope of a fence (R137). -/
def FenceScope.bits : FenceScope → BitVec 3
  | .ctx => 0 | .core => 1 | .clu => 2 | .die => 3 | .pkg => 4 | .dom => 5
/-- Scope of a code; 6 and 7 are reserved (R137). -/
def FenceScope.ofBits? (b : BitVec 3) : Option FenceScope :=
  if b = 0 then some .ctx else if b = 1 then some .core else if b = 2 then some .clu
  else if b = 3 then some .die else if b = 4 then some .pkg else if b = 5 then some .dom else none
/-- Number of an engine register (R219). -/
def EngReg.bits : EngReg → BitVec 3
  | .mgeo => 0 | .mfmt => 1 | .mbase => 2 | .mscp => 3 | .macc => 4 | .mdrh => 5 | .mdst => 6
/-- Engine register of a number; 7 is none (R219). -/
def EngReg.ofBits? (b : BitVec 3) : Option EngReg :=
  if b = 0 then some .mgeo else if b = 1 then some .mfmt else if b = 2 then some .mbase
  else if b = 3 then some .mscp else if b = 4 then some .macc else if b = 5 then some .mdrh
  else if b = 6 then some .mdst else none

/-- Major Load (0x00). -/
def decLoad (f : Fields) : Option Instr :=
  if f.f3 = 0x0#3 then some (.lb f.rd f.rs1 f.imm10 (AddrMode.ofBits f.mode) f.stl)
  else if f.f3 = 0x1#3 then some (.lh f.rd f.rs1 f.imm10 (AddrMode.ofBits f.mode) f.stl)
  else if f.f3 = 0x2#3 then some (.lw f.rd f.rs1 f.imm10 (AddrMode.ofBits f.mode) f.stl)
  else if f.f3 = 0x3#3 then some (.ld f.rd f.rs1 f.imm10 (AddrMode.ofBits f.mode) f.stl)
  else if f.f3 = 0x4#3 then some (.lbu f.rd f.rs1 f.imm10 (AddrMode.ofBits f.mode) f.stl)
  else if f.f3 = 0x5#3 then some (.lhu f.rd f.rs1 f.imm10 (AddrMode.ofBits f.mode) f.stl)
  else if f.f3 = 0x6#3 then some (.lwu f.rd f.rs1 f.imm10 (AddrMode.ofBits f.mode) f.stl)
  else none

/-- Major Store (0x01). -/
def decStore (f : Fields) : Option Instr :=
  if f.f3 = 0x0#3 then some (.sb f.rd f.rs1 f.imm10 (AddrMode.ofBits f.mode) f.stl)
  else if f.f3 = 0x1#3 then some (.sh f.rd f.rs1 f.imm10 (AddrMode.ofBits f.mode) f.stl)
  else if f.f3 = 0x2#3 then some (.sw f.rd f.rs1 f.imm10 (AddrMode.ofBits f.mode) f.stl)
  else if f.f3 = 0x3#3 then some (.sd f.rd f.rs1 f.imm10 (AddrMode.ofBits f.mode) f.stl)
  else none

/-- Major OpImm (0x02). -/
def decOpImm (f : Fields) : Option Instr :=
  if f.f3 = 0x0#3 then some (.addi f.rd f.rs1 f.imm12 f.stl)
  else if f.f3 = 0x1#3 then some (.andi f.rd f.rs1 f.imm12 f.stl)
  else if f.f3 = 0x2#3 then some (.ori f.rd f.rs1 f.imm12 f.stl)
  else if f.f3 = 0x3#3 then some (.xori f.rd f.rs1 f.imm12 f.stl)
  else if f.f3 = 0x4#3 then some (.slti f.rd f.rs1 f.imm12 f.stl)
  else if f.f3 = 0x5#3 then some (.sltiu f.rd f.rs1 f.imm12 f.stl)
  else if f.f3 = 0x6#3 ∧ f.f6 = 0x0#6 then some (.slli f.rd f.rs1 f.sh6 f.stl)
  else if f.f3 = 0x6#3 ∧ f.f6 = 0x1#6 then some (.srli f.rd f.rs1 f.sh6 f.stl)
  else if f.f3 = 0x6#3 ∧ f.f6 = 0x2#6 then some (.srai f.rd f.rs1 f.sh6 f.stl)
  else if f.f3 = 0x6#3 ∧ f.f6 = 0x3#6 then some (.rori f.rd f.rs1 f.sh6 f.stl)
  else if f.f3 = 0x7#3 ∧ f.imm12 = 0x0#12 then some (.clz f.rd f.rs1 f.stl)
  else if f.f3 = 0x7#3 ∧ f.imm12 = 0x1#12 then some (.ctz f.rd f.rs1 f.stl)
  else if f.f3 = 0x7#3 ∧ f.imm12 = 0x2#12 then some (.popc f.rd f.rs1 f.stl)
  else none

/-- Major Op (0x03). -/
def decOp (f : Fields) : Option Instr :=
  if f.f7 = 0x0#7 ∧ f.f3 = 0x0#3 then some (.add f.rd f.rs1 f.rs2 f.stl)
  else if f.f7 = 0x0#7 ∧ f.f3 = 0x1#3 then some (.sub f.rd f.rs1 f.rs2 f.stl)
  else if f.f7 = 0x0#7 ∧ f.f3 = 0x2#3 then some (.and f.rd f.rs1 f.rs2 f.stl)
  else if f.f7 = 0x0#7 ∧ f.f3 = 0x3#3 then some (.or f.rd f.rs1 f.rs2 f.stl)
  else if f.f7 = 0x0#7 ∧ f.f3 = 0x4#3 then some (.xor f.rd f.rs1 f.rs2 f.stl)
  else if f.f7 = 0x0#7 ∧ f.f3 = 0x5#3 then some (.slt f.rd f.rs1 f.rs2 f.stl)
  else if f.f7 = 0x0#7 ∧ f.f3 = 0x6#3 then some (.sltu f.rd f.rs1 f.rs2 f.stl)
  else if f.f7 = 0x1#7 ∧ f.f3 = 0x0#3 then some (.sll f.rd f.rs1 f.rs2 f.stl)
  else if f.f7 = 0x1#7 ∧ f.f3 = 0x1#3 then some (.srl f.rd f.rs1 f.rs2 f.stl)
  else if f.f7 = 0x1#7 ∧ f.f3 = 0x2#3 then some (.sra f.rd f.rs1 f.rs2 f.stl)
  else if f.f7 = 0x1#7 ∧ f.f3 = 0x3#3 then some (.ror f.rd f.rs1 f.rs2 f.stl)
  else if f.f7 = 0x2#7 ∧ f.f3 = 0x0#3 then some (.min f.rd f.rs1 f.rs2 f.stl)
  else if f.f7 = 0x2#7 ∧ f.f3 = 0x1#3 then some (.max f.rd f.rs1 f.rs2 f.stl)
  else if f.f7 = 0x2#7 ∧ f.f3 = 0x2#3 then some (.minu f.rd f.rs1 f.rs2 f.stl)
  else if f.f7 = 0x2#7 ∧ f.f3 = 0x3#3 then some (.maxu f.rd f.rs1 f.rs2 f.stl)
  else if f.f7 = 0x3#7 ∧ f.f3 = 0x0#3 then some (.addS f.rd f.rs1 f.rs2 f.stl)
  else if f.f7 = 0x3#7 ∧ f.f3 = 0x1#3 then some (.subS f.rd f.rs1 f.rs2 f.stl)
  else if f.f7 = 0x3#7 ∧ f.f3 = 0x2#3 then some (.adduS f.rd f.rs1 f.rs2 f.stl)
  else if f.f7 = 0x3#7 ∧ f.f3 = 0x3#3 then some (.subuS f.rd f.rs1 f.rs2 f.stl)
  else if f.f7 = 0x4#7 ∧ f.f3 = 0x0#3 then some (.mul f.rd f.rs1 f.rs2 f.stl)
  else if f.f7 = 0x4#7 ∧ f.f3 = 0x1#3 then some (.mulh f.rd f.rs1 f.rs2 f.stl)
  else if f.f7 = 0x4#7 ∧ f.f3 = 0x2#3 then some (.mulhu f.rd f.rs1 f.rs2 f.stl)
  else if f.f7 = 0x4#7 ∧ f.f3 = 0x3#3 then some (.mulhsu f.rd f.rs1 f.rs2 f.stl)
  else if f.f7 = 0x5#7 ∧ f.f3 = 0x0#3 then some (.div f.rd f.rs1 f.rs2 f.stl)
  else if f.f7 = 0x5#7 ∧ f.f3 = 0x1#3 then some (.divu f.rd f.rs1 f.rs2 f.stl)
  else if f.f7 = 0x5#7 ∧ f.f3 = 0x2#3 then some (.rem f.rd f.rs1 f.rs2 f.stl)
  else if f.f7 = 0x5#7 ∧ f.f3 = 0x3#3 then some (.remu f.rd f.rs1 f.rs2 f.stl)
  else none

/-- Major OpImm32 (0x04). -/
def decOpImm32 (f : Fields) : Option Instr :=
  if f.f3 = 0x0#3 then some (.addiw f.rd f.rs1 f.imm12 f.stl)
  else if f.f3 = 0x6#3 ∧ f.f7 = 0x0#7 then some (.slliw f.rd f.rs1 f.rs2 f.stl)
  else if f.f3 = 0x6#3 ∧ f.f7 = 0x1#7 then some (.srliw f.rd f.rs1 f.rs2 f.stl)
  else if f.f3 = 0x6#3 ∧ f.f7 = 0x2#7 then some (.sraiw f.rd f.rs1 f.rs2 f.stl)
  else if f.f3 = 0x7#3 ∧ f.imm12 = 0x0#12 then some (.clzw f.rd f.rs1 f.stl)
  else if f.f3 = 0x7#3 ∧ f.imm12 = 0x1#12 then some (.ctzw f.rd f.rs1 f.stl)
  else if f.f3 = 0x7#3 ∧ f.imm12 = 0x2#12 then some (.popcw f.rd f.rs1 f.stl)
  else none

/-- Major Op32 (0x05). -/
def decOp32 (f : Fields) : Option Instr :=
  if f.f7 = 0x0#7 ∧ f.f3 = 0x0#3 then some (.addw f.rd f.rs1 f.rs2 f.stl)
  else if f.f7 = 0x0#7 ∧ f.f3 = 0x1#3 then some (.subw f.rd f.rs1 f.rs2 f.stl)
  else if f.f7 = 0x1#7 ∧ f.f3 = 0x0#3 then some (.sllw f.rd f.rs1 f.rs2 f.stl)
  else if f.f7 = 0x1#7 ∧ f.f3 = 0x1#3 then some (.srlw f.rd f.rs1 f.rs2 f.stl)
  else if f.f7 = 0x1#7 ∧ f.f3 = 0x2#3 then some (.sraw f.rd f.rs1 f.rs2 f.stl)
  else if f.f7 = 0x3#7 ∧ f.f3 = 0x0#3 then some (.addwS f.rd f.rs1 f.rs2 f.stl)
  else if f.f7 = 0x3#7 ∧ f.f3 = 0x1#3 then some (.subwS f.rd f.rs1 f.rs2 f.stl)
  else if f.f7 = 0x4#7 ∧ f.f3 = 0x0#3 then some (.mulw f.rd f.rs1 f.rs2 f.stl)
  else if f.f7 = 0x5#7 ∧ f.f3 = 0x0#3 then some (.divw f.rd f.rs1 f.rs2 f.stl)
  else if f.f7 = 0x5#7 ∧ f.f3 = 0x1#3 then some (.divuw f.rd f.rs1 f.rs2 f.stl)
  else if f.f7 = 0x5#7 ∧ f.f3 = 0x2#3 then some (.remw f.rd f.rs1 f.rs2 f.stl)
  else if f.f7 = 0x5#7 ∧ f.f3 = 0x3#3 then some (.remuw f.rd f.rs1 f.rs2 f.stl)
  else none

/-- Major Branch (0x08). -/
def decBranch (f : Fields) : Option Instr :=
  if f.f3 = 0x0#3 then some (.beq f.rs1 f.rs2 f.imm12s f.stl)
  else if f.f3 = 0x1#3 then some (.bne f.rs1 f.rs2 f.imm12s f.stl)
  else if f.f3 = 0x2#3 then some (.blt f.rs1 f.rs2 f.imm12s f.stl)
  else if f.f3 = 0x3#3 then some (.bge f.rs1 f.rs2 f.imm12s f.stl)
  else if f.f3 = 0x4#3 then some (.bltu f.rs1 f.rs2 f.imm12s f.stl)
  else if f.f3 = 0x5#3 then some (.bgeu f.rs1 f.rs2 f.imm12s f.stl)
  else none

/-- Major System (0x0B). -/
def decSystem (f : Fields) : Option Instr :=
  if f.f3 = 0x1#3 then some (.csrrw f.rd f.rs1 f.imm12 f.stl)
  else if f.f3 = 0x2#3 then some (.csrrs f.rd f.rs1 f.imm12 f.stl)
  else if f.f3 = 0x3#3 then some (.csrrc f.rd f.rs1 f.imm12 f.stl)
  else if f.f3 = 0x5#3 then some (.csrrwi f.rd f.imm12 f.rs1 f.stl)
  else if f.f3 = 0x6#3 then some (.csrrsi f.rd f.imm12 f.rs1 f.stl)
  else if f.f3 = 0x7#3 then some (.csrrci f.rd f.imm12 f.rs1 f.stl)
  else if f.f3 = 0x0#3 ∧ f.f7 = 0x0#7 ∧ f.rs2 = 0 ∧ f.rs1 = 0 ∧ f.rd = 0 then some (.ecall f.stl)
  else if f.f3 = 0x0#3 ∧ f.f7 = 0x1#7 ∧ f.rs2 = 0 ∧ f.rs1 = 0 ∧ f.rd = 0 then some (.ebreak f.stl)
  else if f.f3 = 0x0#3 ∧ f.f7 = 0x2#7 ∧ f.rs2 = 0 then some (.wfe f.rd f.rs1 f.stl)
  else if f.f3 = 0x0#3 ∧ f.f7 = 0x3#7 ∧ f.rs2 = 0 ∧ f.rs1 = 0 ∧ f.rd = 0 then some (.fenceI f.stl)
  else if f.f3 = 0x0#3 ∧ f.f7 = 0x8#7 ∧ f.rd = 0 then some (.tlbw f.rs1 f.rs2 f.stl)
  else if f.f3 = 0x0#3 ∧ f.f7 = 0x9#7 ∧ f.rd = 0 then some (.tlbinv f.rs1 f.rs2 f.stl)
  else if f.f3 = 0x0#3 ∧ f.f7 = 0x10#7 ∧ f.rs2 = 0 then some (.resume f.rd f.rs1 f.stl)
  else if f.f3 = 0x0#3 ∧ f.f7 = 0x11#7 ∧ f.rs2 = 0 then some (.kill f.rd f.rs1 f.stl)
  else if f.f3 = 0x0#3 ∧ f.f7 = 0x18#7 ∧ f.rs2 = 0 ∧ f.rd = 0 then some (.prio f.rs1 f.stl)
  else none

/-- Major Amo (0x0C). -/
def decAmo (f : Fields) : Option Instr :=
  if f.vfunc = 0x0#5 then some (.amoswap f.rd f.rs1 f.rs2 (AmoOrd.ofBits f.etype) f.wide (AmoScope.ofBits f.scope2) f.stl)
  else if f.vfunc = 0x1#5 then some (.amoadd f.rd f.rs1 f.rs2 (AmoOrd.ofBits f.etype) f.wide (AmoScope.ofBits f.scope2) f.stl)
  else if f.vfunc = 0x2#5 then some (.amoand f.rd f.rs1 f.rs2 (AmoOrd.ofBits f.etype) f.wide (AmoScope.ofBits f.scope2) f.stl)
  else if f.vfunc = 0x3#5 then some (.amoor f.rd f.rs1 f.rs2 (AmoOrd.ofBits f.etype) f.wide (AmoScope.ofBits f.scope2) f.stl)
  else if f.vfunc = 0x4#5 then some (.amoxor f.rd f.rs1 f.rs2 (AmoOrd.ofBits f.etype) f.wide (AmoScope.ofBits f.scope2) f.stl)
  else if f.vfunc = 0x5#5 then some (.amomin f.rd f.rs1 f.rs2 (AmoOrd.ofBits f.etype) f.wide (AmoScope.ofBits f.scope2) f.stl)
  else if f.vfunc = 0x6#5 then some (.amomax f.rd f.rs1 f.rs2 (AmoOrd.ofBits f.etype) f.wide (AmoScope.ofBits f.scope2) f.stl)
  else if f.vfunc = 0x7#5 then some (.amominu f.rd f.rs1 f.rs2 (AmoOrd.ofBits f.etype) f.wide (AmoScope.ofBits f.scope2) f.stl)
  else if f.vfunc = 0x8#5 then some (.amomaxu f.rd f.rs1 f.rs2 (AmoOrd.ofBits f.etype) f.wide (AmoScope.ofBits f.scope2) f.stl)
  else if f.vfunc = 0x10#5 ∧ f.rs2 = 0 then some (.lr f.rd f.rs1 (AmoOrd.ofBits f.etype) f.wide (AmoScope.ofBits f.scope2) f.stl)
  else if f.vfunc = 0x11#5 then some (.sc f.rd f.rs1 f.rs2 (AmoOrd.ofBits f.etype) f.wide (AmoScope.ofBits f.scope2) f.stl)
  else none

/-- Major Fence (0x0D). -/
def decFence (f : Fields) : Option Instr :=
  if f.f3 = 0x0#3 ∧ f.imm12 = 0 ∧ f.rs1Hi = 0 ∧ f.rd = 0 then (FenceScope.ofBits? f.rs1Lo).map fun scope => .fence scope f.stl
  else if f.f3 = 0x1#3 ∧ f.imm12 = 0 ∧ f.rs1 = 0b00100#5 ∧ f.rd = 0 then some (.fenceSc f.stl)
  else if f.f3 = 0x2#3 ∧ f.f6 ≠ 0 ∧ f.sh6 ≠ 0 ∧ f.rs1Hi = 0 ∧ f.rd = 0 then (FenceScope.ofBits? f.rs1Lo).map fun scope => .xfence f.f6 f.sh6 scope f.stl
  else none

/-- Major VLoad (0x0E). -/
def decVLoad (f : Fields) : Option Instr :=
  if f.kind = 0x0#3 ∧ f.rs2 = 0 then some (.vld f.rd f.rs1 (AddrMode.ofBits f.vmode) (IntW.ofBits f.etype) f.f3 f.stl)
  else if f.kind = 0x1#3 then some (.vlds f.rd f.rs1 f.rs2 (AddrMode.ofBits f.vmode) (IntW.ofBits f.etype) f.f3 f.stl)
  else if f.kind = 0x2#3 then some (.vldx f.rd f.rs1 f.rs2 (AddrMode.ofBits f.vmode) (IntW.ofBits f.etype) f.f3 f.stl)
  else none

/-- Major VStore (0x0F). -/
def decVStore (f : Fields) : Option Instr :=
  if f.kind = 0x0#3 ∧ f.rs2 = 0 then some (.vst f.rd f.rs1 (AddrMode.ofBits f.vmode) (IntW.ofBits f.etype) f.f3 f.stl)
  else if f.kind = 0x1#3 then some (.vsts f.rd f.rs1 f.rs2 (AddrMode.ofBits f.vmode) (IntW.ofBits f.etype) f.f3 f.stl)
  else if f.kind = 0x2#3 then some (.vstx f.rd f.rs1 f.rs2 (AddrMode.ofBits f.vmode) (IntW.ofBits f.etype) f.f3 f.stl)
  else none

/-- Major VInt (0x10). -/
def decVInt (f : Fields) : Option Instr :=
  if f.vfunc = 0x0#5 then some (.vadd f.rd f.rs1 f.rs2 (IntW.ofBits f.etype) f.f3 f.stl)
  else if f.vfunc = 0x1#5 then some (.vsub f.rd f.rs1 f.rs2 (IntW.ofBits f.etype) f.f3 f.stl)
  else if f.vfunc = 0x2#5 then some (.vmul f.rd f.rs1 f.rs2 (IntW.ofBits f.etype) f.f3 f.stl)
  else if f.vfunc = 0x3#5 then some (.vmulh f.rd f.rs1 f.rs2 (IntW.ofBits f.etype) f.f3 f.stl)
  else if f.vfunc = 0x4#5 then some (.vmulhu f.rd f.rs1 f.rs2 (IntW.ofBits f.etype) f.f3 f.stl)
  else if f.vfunc = 0x5#5 then some (.vmin f.rd f.rs1 f.rs2 (IntW.ofBits f.etype) f.f3 f.stl)
  else if f.vfunc = 0x6#5 then some (.vmax f.rd f.rs1 f.rs2 (IntW.ofBits f.etype) f.f3 f.stl)
  else if f.vfunc = 0x7#5 then some (.vminu f.rd f.rs1 f.rs2 (IntW.ofBits f.etype) f.f3 f.stl)
  else if f.vfunc = 0x8#5 then some (.vmaxu f.rd f.rs1 f.rs2 (IntW.ofBits f.etype) f.f3 f.stl)
  else if f.vfunc = 0x9#5 then some (.vand f.rd f.rs1 f.rs2 (IntW.ofBits f.etype) f.f3 f.stl)
  else if f.vfunc = 0xa#5 then some (.vor f.rd f.rs1 f.rs2 (IntW.ofBits f.etype) f.f3 f.stl)
  else if f.vfunc = 0xb#5 then some (.vxor f.rd f.rs1 f.rs2 (IntW.ofBits f.etype) f.f3 f.stl)
  else if f.vfunc = 0xc#5 then some (.vsll f.rd f.rs1 f.rs2 (IntW.ofBits f.etype) f.f3 f.stl)
  else if f.vfunc = 0xd#5 then some (.vsrl f.rd f.rs1 f.rs2 (IntW.ofBits f.etype) f.f3 f.stl)
  else if f.vfunc = 0xe#5 then some (.vsra f.rd f.rs1 f.rs2 (IntW.ofBits f.etype) f.f3 f.stl)
  else if f.vfunc = 0xf#5 then some (.vaddS f.rd f.rs1 f.rs2 (IntW.ofBits f.etype) f.f3 f.stl)
  else if f.vfunc = 0x10#5 then some (.vsubS f.rd f.rs1 f.rs2 (IntW.ofBits f.etype) f.f3 f.stl)
  else if f.vfunc = 0x11#5 then some (.vadduS f.rd f.rs1 f.rs2 (IntW.ofBits f.etype) f.f3 f.stl)
  else if f.vfunc = 0x12#5 then some (.vsubuS f.rd f.rs1 f.rs2 (IntW.ofBits f.etype) f.f3 f.stl)
  else if f.vfunc = 0x13#5 then some (.vmacc f.rd f.rs1 f.rs2 (IntW.ofBits f.etype) f.f3 f.stl)
  else if f.vfunc = 0x14#5 then some (.vsel f.rd f.rs1 f.rs2 (IntW.ofBits f.etype) f.f3 f.stl)
  else if f.vfunc = 0x15#5 ∧ f.rs2 = 0 then some (.vbcast f.rd f.rs1 (IntW.ofBits f.etype) f.f3 f.stl)
  else if f.vfunc = 0x18#5 ∧ f.rdHi = 0 ∧ (f.etype = 0 ∨ f.etype = 0b11#2) then some (.vcmpeq f.rdLo f.rs1 f.rs2 (IntW.ofBits f.etype) f.f3 f.stl)
  else if f.vfunc = 0x19#5 ∧ f.rdHi = 0 ∧ (f.etype = 0 ∨ f.etype = 0b11#2) then some (.vcmpne f.rdLo f.rs1 f.rs2 (IntW.ofBits f.etype) f.f3 f.stl)
  else if f.vfunc = 0x1a#5 ∧ f.rdHi = 0 ∧ (f.etype = 0 ∨ f.etype = 0b11#2) then some (.vcmplt f.rdLo f.rs1 f.rs2 (IntW.ofBits f.etype) f.f3 f.stl)
  else if f.vfunc = 0x1b#5 ∧ f.rdHi = 0 ∧ (f.etype = 0 ∨ f.etype = 0b11#2) then some (.vcmple f.rdLo f.rs1 f.rs2 (IntW.ofBits f.etype) f.f3 f.stl)
  else if f.vfunc = 0x1c#5 ∧ f.rdHi = 0 ∧ (f.etype = 0 ∨ f.etype = 0b11#2) then some (.vcmpltu f.rdLo f.rs1 f.rs2 (IntW.ofBits f.etype) f.f3 f.stl)
  else if f.vfunc = 0x1d#5 ∧ f.rdHi = 0 ∧ (f.etype = 0 ∨ f.etype = 0b11#2) then some (.vcmpleu f.rdLo f.rs1 f.rs2 (IntW.ofBits f.etype) f.f3 f.stl)
  else none

/-- Major Vfp (0x11). -/
def decVfp (f : Fields) : Option Instr :=
  if f.vfunc = 0x0#5 then (FpFmt.ofBits? f.etype).map fun fmt => .vfadd f.rd f.rs1 f.rs2 fmt f.f3 f.stl
  else if f.vfunc = 0x1#5 then (FpFmt.ofBits? f.etype).map fun fmt => .vfsub f.rd f.rs1 f.rs2 fmt f.f3 f.stl
  else if f.vfunc = 0x2#5 then (FpFmt.ofBits? f.etype).map fun fmt => .vfmul f.rd f.rs1 f.rs2 fmt f.f3 f.stl
  else if f.vfunc = 0x3#5 then (FpFmt.ofBits? f.etype).map fun fmt => .vfdiv f.rd f.rs1 f.rs2 fmt f.f3 f.stl
  else if f.vfunc = 0x4#5 then (FpFmt.ofBits? f.etype).map fun fmt => .vfmin f.rd f.rs1 f.rs2 fmt f.f3 f.stl
  else if f.vfunc = 0x5#5 then (FpFmt.ofBits? f.etype).map fun fmt => .vfmax f.rd f.rs1 f.rs2 fmt f.f3 f.stl
  else if f.vfunc = 0x6#5 then (FpFmt.ofBits? f.etype).map fun fmt => .vfma f.rd f.rs1 f.rs2 fmt f.f3 f.stl
  else if f.vfunc = 0x7#5 ∧ f.rs2 = 0 then (FpFmt.ofBits? f.etype).map fun fmt => .vfsqrt f.rd f.rs1 fmt f.f3 f.stl
  else if f.vfunc = 0x8#5 ∧ f.rs2 = 0 then (FpFmt.ofBits? f.etype).map fun fmt => .vfexp2 f.rd f.rs1 fmt f.f3 f.stl
  else if f.vfunc = 0x9#5 ∧ f.rs2 = 0 then (FpFmt.ofBits? f.etype).map fun fmt => .vfabs f.rd f.rs1 fmt f.f3 f.stl
  else if f.vfunc = 0xa#5 ∧ f.rs2 = 0 then (FpFmt.ofBits? f.etype).map fun fmt => .vfneg f.rd f.rs1 fmt f.f3 f.stl
  else if f.vfunc = 0xb#5 then (FpFmt.ofBits? f.etype).map fun fmt => .vfsgnj f.rd f.rs1 f.rs2 fmt f.f3 f.stl
  else if f.vfunc = 0x18#5 ∧ f.rdHi = 0 ∧ f.etype = 0 then some (.vfcmpeq f.rdLo f.rs1 f.rs2 f.f3 f.stl)
  else if f.vfunc = 0x19#5 ∧ f.rdHi = 0 ∧ f.etype = 0 then some (.vfcmplt f.rdLo f.rs1 f.rs2 f.f3 f.stl)
  else if f.vfunc = 0x1a#5 ∧ f.rdHi = 0 ∧ f.etype = 0 then some (.vfcmple f.rdLo f.rs1 f.rs2 f.f3 f.stl)
  else if f.vfunc = 0x1b#5 ∧ f.rdHi = 0 ∧ f.etype = 0 then some (.vfcmpun f.rdLo f.rs1 f.rs2 f.f3 f.stl)
  else none

/-- Major Vcvt (0x12). -/
def decVcvt (f : Fields) : Option Instr :=
  if f.vfunc = 0x0#5 ∧ f.etypeHi = 0 ∧ f.rs2 = 0 then some (.vcvtF32Bf16 f.rd f.rs1 f.part1 f.f3 f.stl)
  else if f.vfunc = 0x1#5 ∧ f.etypeHi = 0 ∧ f.rs2 = 0 then some (.vcvtF32F16 f.rd f.rs1 f.part1 f.f3 f.stl)
  else if f.vfunc = 0x2#5 ∧ f.etypeHi = 0 ∧ f.rs2Hi = 0 then (RoundMode.ofBits? f.rs2Lo).map fun rm => .vcvtBf16F32 f.rd f.rs1 f.part1 rm f.f3 f.stl
  else if f.vfunc = 0x3#5 ∧ f.etypeHi = 0 ∧ f.rs2Hi = 0 then (RoundMode.ofBits? f.rs2Lo).map fun rm => .vcvtF16F32 f.rd f.rs1 f.part1 rm f.f3 f.stl
  else if f.vfunc = 0x4#5 ∧ f.rs2 = 0 then some (.vcvtF32E4m3 f.rd f.rs1 f.etype f.f3 f.stl)
  else if f.vfunc = 0x5#5 ∧ f.rs2 = 0 then some (.vcvtF32E5m2 f.rd f.rs1 f.etype f.f3 f.stl)
  else if f.vfunc = 0x6#5 ∧ f.rs2Hi = 0 then (RoundMode.ofBits? f.rs2Lo).map fun rm => .vcvtE4m3F32 f.rd f.rs1 f.etype rm f.f3 f.stl
  else if f.vfunc = 0x7#5 ∧ f.rs2Hi = 0 then (RoundMode.ofBits? f.rs2Lo).map fun rm => .vcvtE5m2F32 f.rd f.rs1 f.etype rm f.f3 f.stl
  else if f.vfunc = 0x8#5 ∧ f.etype = 0 ∧ f.rs2Hi = 0 then (RoundMode.ofBits? f.rs2Lo).map fun rm => .vcvtBf16F16 f.rd f.rs1 rm f.f3 f.stl
  else if f.vfunc = 0x9#5 ∧ f.etype = 0 ∧ f.rs2Hi = 0 then (RoundMode.ofBits? f.rs2Lo).map fun rm => .vcvtF16Bf16 f.rd f.rs1 rm f.f3 f.stl
  else if f.vfunc = 0x10#5 ∧ f.etype = 0 ∧ f.rs2Hi = 0 then (RoundMode.ofBits? f.rs2Lo).map fun rm => .vcvtF32I32 f.rd f.rs1 rm f.f3 f.stl
  else if f.vfunc = 0x11#5 ∧ f.etype = 0 ∧ f.rs2Hi = 0 then (RoundMode.ofBits? f.rs2Lo).map fun rm => .vcvtF32U32 f.rd f.rs1 rm f.f3 f.stl
  else if f.vfunc = 0x12#5 ∧ f.etype = 0 ∧ f.rs2Hi = 0 then (RoundMode.ofBits? f.rs2Lo).map fun rm => .vcvtI32F32 f.rd f.rs1 rm f.f3 f.stl
  else if f.vfunc = 0x13#5 ∧ f.etype = 0 ∧ f.rs2Hi = 0 then (RoundMode.ofBits? f.rs2Lo).map fun rm => .vcvtU32F32 f.rd f.rs1 rm f.f3 f.stl
  else if f.vfunc = 0x14#5 ∧ f.etypeHi = 0 ∧ f.rs2 = 0 then some (.vcvtF32I16 f.rd f.rs1 f.part1 f.f3 f.stl)
  else if f.vfunc = 0x15#5 ∧ f.rs2 = 0 then some (.vcvtF32I8 f.rd f.rs1 f.etype f.f3 f.stl)
  else if f.vfunc = 0x16#5 ∧ f.etypeHi = 0 ∧ f.rs2Hi = 0 then (RoundMode.ofBits? f.rs2Lo).map fun rm => .vcvtI16F32 f.rd f.rs1 f.part1 rm f.f3 f.stl
  else if f.vfunc = 0x17#5 ∧ f.rs2Hi = 0 then (RoundMode.ofBits? f.rs2Lo).map fun rm => .vcvtI8F32 f.rd f.rs1 f.etype rm f.f3 f.stl
  else if f.vfunc = 0x18#5 ∧ f.etypeHi = 0 ∧ f.rs2 = 0 then some (.vcvtI32I16 f.rd f.rs1 f.part1 f.f3 f.stl)
  else if f.vfunc = 0x19#5 ∧ f.rs2 = 0 then some (.vcvtI32I8 f.rd f.rs1 f.etype f.f3 f.stl)
  else if f.vfunc = 0x1a#5 ∧ f.etypeHi = 0 ∧ f.rs2 = 0 then some (.vcvtI16I32 f.rd f.rs1 f.part1 f.f3 f.stl)
  else if f.vfunc = 0x1b#5 ∧ f.rs2 = 0 then some (.vcvtI8I32 f.rd f.rs1 f.etype f.f3 f.stl)
  else none

/-- Major Vperm (0x13). -/
def decVperm (f : Fields) : Option Instr :=
  if f.vfunc = 0x0#5 ∧ f.rs2 = 0 then some (.vredsum f.rd f.rs1 (IntW.ofBits f.etype) f.f3 f.stl)
  else if f.vfunc = 0x1#5 ∧ f.rs2 = 0 then some (.vredmin f.rd f.rs1 (IntW.ofBits f.etype) f.f3 f.stl)
  else if f.vfunc = 0x2#5 ∧ f.rs2 = 0 then some (.vredmax f.rd f.rs1 (IntW.ofBits f.etype) f.f3 f.stl)
  else if f.vfunc = 0x3#5 ∧ f.rs2 = 0 then some (.vredminu f.rd f.rs1 (IntW.ofBits f.etype) f.f3 f.stl)
  else if f.vfunc = 0x4#5 ∧ f.rs2 = 0 then some (.vredmaxu f.rd f.rs1 (IntW.ofBits f.etype) f.f3 f.stl)
  else if f.vfunc = 0x5#5 ∧ f.rs2 = 0 then (FpFmt.ofBits? f.etype).map fun fmt => .vfredsum f.rd f.rs1 fmt f.f3 f.stl
  else if f.vfunc = 0x6#5 ∧ f.rs2 = 0 then (FpFmt.ofBits? f.etype).map fun fmt => .vfredmin f.rd f.rs1 fmt f.f3 f.stl
  else if f.vfunc = 0x7#5 ∧ f.rs2 = 0 then (FpFmt.ofBits? f.etype).map fun fmt => .vfredmax f.rd f.rs1 fmt f.f3 f.stl
  else if f.vfunc = 0x8#5 ∧ f.etypeHi = 0 then some (.vscan f.rd f.rs1 f.rs2 f.etypeLo f.f3 f.stl)
  else if f.vfunc = 0x9#5 then (FpFmt.ofBits? f.etype).map fun fmt => .vfscan f.rd f.rs1 f.rs2 fmt f.f3 f.stl
  else if f.vfunc = 0xa#5 then some (.vcompress f.rd f.rs1 f.rs2 (IntW.ofBits f.etype) f.f3 f.stl)
  else if f.vfunc = 0xb#5 then some (.vpermx f.rd f.rs1 f.rs2 (IntW.ofBits f.etype) f.f3 f.stl)
  else if f.vfunc = 0xc#5 then some (.vslide f.rd f.rs1 f.rs2 (IntW.ofBits f.etype) f.f3 f.stl)
  else if f.vfunc = 0x10#5 ∧ f.rdHi = 0 ∧ f.etype = 0 ∧ f.rs2Hi = 0 ∧ f.rs1Hi = 0 ∧ f.f3 = 0 then some (.vmand f.rdLo f.rs1Lo f.rs2Lo f.stl)
  else if f.vfunc = 0x11#5 ∧ f.rdHi = 0 ∧ f.etype = 0 ∧ f.rs2Hi = 0 ∧ f.rs1Hi = 0 ∧ f.f3 = 0 then some (.vmor f.rdLo f.rs1Lo f.rs2Lo f.stl)
  else if f.vfunc = 0x12#5 ∧ f.rdHi = 0 ∧ f.etype = 0 ∧ f.rs2Hi = 0 ∧ f.rs1Hi = 0 ∧ f.f3 = 0 then some (.vmxor f.rdLo f.rs1Lo f.rs2Lo f.stl)
  else if f.vfunc = 0x13#5 ∧ f.rdHi = 0 ∧ f.etype = 0 ∧ f.rs2Hi = 0 ∧ f.rs1Hi = 0 ∧ f.f3 = 0 then some (.vmandn f.rdLo f.rs1Lo f.rs2Lo f.stl)
  else if f.vfunc = 0x14#5 ∧ f.rdHi = 0 ∧ f.etype = 0 ∧ f.rs2 = 0 ∧ f.rs1Hi = 0 ∧ f.f3 = 0 then some (.vmnot f.rdLo f.rs1Lo f.stl)
  else if f.vfunc = 0x15#5 ∧ f.etype = 0 ∧ f.rs2 = 0 ∧ f.rs1Hi = 0 ∧ f.f3 = 0 then some (.vmpopc f.rd f.rs1Lo f.stl)
  else if f.vfunc = 0x16#5 ∧ f.etype = 0 ∧ f.rs2 = 0 ∧ f.rs1Hi = 0 ∧ f.f3 = 0 then some (.vmfirst f.rd f.rs1Lo f.stl)
  else if f.vfunc = 0x17#5 ∧ f.etype = 0 ∧ f.rs2 = 0 ∧ f.rs1Hi = 0 ∧ f.f3 = 0 then some (.vmtox f.rd f.rs1Lo f.stl)
  else if f.vfunc = 0x18#5 ∧ f.rdHi = 0 ∧ f.etype = 0 ∧ f.rs2 = 0 ∧ f.f3 = 0 then some (.vxtom f.rdLo f.rs1 f.stl)
  else if f.vfunc = 0x19#5 ∧ f.f3 = 0 then some (.vextr f.rd f.rs1 f.rs2 (IntW.ofBits f.etype) f.stl)
  else if f.vfunc = 0x1a#5 ∧ f.f3 = 0 then some (.vins f.rd f.rs1 f.rs2 (IntW.ofBits f.etype) f.stl)
  else none

/-- Major Stream (0x14). -/
def decStream (f : Fields) : Option Instr :=
  if f.vfunc = 0x0#5 ∧ f.etype = 0 ∧ f.rs2 = 0 ∧ f.rs1 = 0 ∧ f.f3 = 0 ∧ f.rdHi = 0b11#2 then some (.sbind f.rdLo f.stl)
  else if f.vfunc = 0x1#5 ∧ f.etype = 0 ∧ f.rs2 = 0 ∧ f.rs1 = 0 ∧ f.f3 = 0 ∧ f.rdHi = 0b11#2 then some (.sclose f.rdLo f.stl)
  else none

/-- Major Event (0x15). -/
def decEvent (f : Fields) : Option Instr :=
  if f.f7 = 0x0#7 ∧ f.f3 = 0x0#3 ∧ f.rd = 0 then some (.evsend f.rs1 f.rs2 f.stl)
  else if f.f7 = 0x1#7 ∧ f.f3 = 0x0#3 then some (.evsendnb f.rd f.rs1 f.rs2 f.stl)
  else if f.f7 = 0x2#7 ∧ f.f3 = 0x0#3 ∧ f.rs2 = 0 ∧ f.rdOdd = 0 ∧ f.rd ≠ 0 then some (.evpop f.rdPair f.rs1 f.stl)
  else if f.f7 = 0x3#7 ∧ f.f3 = 0x0#3 ∧ f.rd = 0 then some (.evmc f.rs1 f.rs2 f.stl)
  else if f.f7 = 0x4#7 then some (.sdq f.rd f.rs2 f.rs1 f.f3 f.stl)
  else none

/-- Major Task (0x16). -/
def decTask (f : Fields) : Option Instr :=
  if f.f7 = 0x0#7 ∧ f.f3 = 0x0#3 ∧ f.rs2 = 0 ∧ f.rs1 = 0 ∧ f.rd = 0 then some (.exit f.stl)
  else if f.f7 = 0x1#7 ∧ f.f3 = 0x0#3 ∧ f.rd = 0 then some (.spawn f.rs1 f.rs2 f.stl)
  else if f.f7 = 0x2#7 ∧ f.f3 = 0x0#3 ∧ f.rd = 0 then some (.migr f.rs1 f.rs2 f.stl)
  else if f.f7 = 0x3#7 ∧ f.f3 = 0x0#3 ∧ f.rs2 = 0 ∧ f.rs1 = 0 ∧ f.rd = 0 then some (.yield f.stl)
  else if f.f7 = 0x4#7 ∧ f.f3 = 0x0#3 ∧ f.rs2Odd = 0 ∧ f.rs1Odd = 0 then some (.jobcard f.rd f.rs1Pair f.rs2Pair f.stl)
  else none

/-- Major Sync (0x17). -/
def decSync (f : Fields) : Option Instr :=
  if f.f7 = 0x0#7 ∧ f.f3 = 0x0#3 then some (.barinit f.rd f.rs1 f.rs2 f.stl)
  else if f.f7 = 0x1#7 ∧ f.f3 = 0x0#3 ∧ f.rs2 = 0 then some (.bararv f.rd f.rs1 f.stl)
  else if f.f7 = 0x2#7 ∧ f.f3 = 0x0#3 ∧ f.rd = 0 then some (.barwait f.rs1 f.rs2 f.stl)
  else if f.f7 = 0x3#7 ∧ f.f3 = 0x0#3 ∧ f.rs2 = 0 ∧ f.rd = 0 then some (.barsync f.rs1 f.stl)
  else if f.f7 = 0x0#7 ∧ f.f3 = 0x1#3 ∧ f.rs2 = 0 ∧ f.rd = 0 then some (.tarm f.rs1 f.stl)
  else if f.f7 = 0x1#7 ∧ f.f3 = 0x1#3 ∧ f.rs2 = 0 ∧ f.rd = 0 then some (.tclr f.rs1 f.stl)
  else if f.f7 = 0x2#7 ∧ f.f3 = 0x1#3 ∧ f.rs2 = 0 then some (.twany f.rd f.rs1 f.stl)
  else if f.f7 = 0x3#7 ∧ f.f3 = 0x1#3 ∧ f.rs2 = 0 ∧ f.rd = 0 then some (.twall f.rs1 f.stl)
  else if f.f7 = 0x4#7 ∧ f.f3 = 0x1#3 ∧ f.rs2 = 0 then some (.tffr f.rd f.rs1 f.stl)
  else if f.f7 = 0x0#7 ∧ f.f3 = 0x2#3 ∧ f.rd = 0 then some (.cntwaitge f.rs1 f.rs2 f.stl)
  else none

/-- Major Matrix (0x18). -/
def decMatrix (f : Fields) : Option Instr :=
  if f.f7 = 0x0#7 ∧ f.rs2 = 0 ∧ f.rd = 0 then (EngReg.ofBits? f.f3).map fun er => .mset er f.rs1 f.stl
  else if f.f7 = 0x1#7 ∧ f.rs2 = 0 ∧ f.rs1 = 0 then (EngReg.ofBits? f.f3).map fun er => .mget f.rd er f.stl
  else if f.f7 = 0x2#7 ∧ f.f3 = 0x0#3 then some (.mloadw f.rd f.rs1 f.rs2 f.stl)
  else if f.f7 = 0x3#7 ∧ f.f3 = 0x0#3 then some (.mmul f.rd f.rs1 f.rs2 f.stl)
  else if f.f7 = 0x4#7 ∧ f.f3 = 0x0#3 ∧ f.rs2 = 0 then some (.evmac f.rd f.rs1 f.stl)
  else if f.f7 = 0x5#7 ∧ f.f3 = 0x0#3 ∧ f.rs2 = 0 then some (.mdrain f.rd f.rs1 f.stl)
  else if f.f7 = 0x6#7 ∧ f.f3 = 0x0#3 ∧ f.rs2 = 0 then some (.mzero f.rd f.rs1 f.stl)
  else if f.f7 = 0x7#7 ∧ f.f3 = 0x0#3 ∧ f.rs2 = 0 then some (.mchk f.rd f.rs1 f.stl)
  else none

/-- Major Copy (0x19). -/
def decCopy (f : Fields) : Option Instr :=
  if f.f7 = 0x0#7 ∧ f.f3 = 0x0#3 ∧ f.rs2Odd = 0 ∧ f.rs1Odd = 0 ∧ f.rd = 0 then some (.cpush f.rs1Pair f.rs2Pair f.stl)
  else if f.f7 = 0x1#7 ∧ f.f3 = 0x0#3 ∧ f.rs2Odd = 0 ∧ f.rs1Odd = 0 then some (.cpushnb f.rd f.rs1Pair f.rs2Pair f.stl)
  else none

/-- Major Slice (0x1A). -/
def decSlice (f : Fields) : Option Instr :=
  if f.f7 = 0x0#7 ∧ f.f3 = 0x0#3 ∧ f.rs2Odd = 0 ∧ f.rs1Odd = 0 then some (.gather f.rd f.rs1Pair f.rs2Pair f.stl)
  else if f.f7 = 0x1#7 ∧ f.f3 = 0x0#3 ∧ f.rs2Odd = 0 ∧ f.rs1Odd = 0 then some (.scatadd f.rd f.rs1Pair f.rs2Pair f.stl)
  else if f.f7 = 0x2#7 ∧ f.f3 = 0x0#3 ∧ f.rs2Odd = 0 ∧ f.rs1Odd = 0 then some (.bin f.rd f.rs1Pair f.rs2Pair f.stl)
  else none

/-- Major Net (0x1B). -/
def decNet (f : Fields) : Option Instr :=
  if f.f7 = 0x0#7 ∧ f.f3 = 0x0#3 ∧ f.rs2Odd = 0 ∧ f.rs1Odd = 0 then some (.get f.rd f.rs1Pair f.rs2Pair f.stl)
  else if f.f7 = 0x1#7 ∧ f.f3 = 0x0#3 ∧ f.rs2Odd = 0 ∧ f.rs1Odd = 0 then some (.put f.rd f.rs1Pair f.rs2Pair f.stl)
  else if f.f7 = 0x2#7 ∧ f.f3 = 0x0#3 ∧ f.rs2Odd = 0 ∧ f.rs1Odd = 0 then some (.redcopy f.rd f.rs1Pair f.rs2Pair f.stl)
  else if f.f7 = 0x3#7 ∧ f.f3 = 0x0#3 ∧ f.rs2Odd = 0 ∧ f.rs1Odd = 0 then some (.ramo f.rd f.rs1Pair f.rs2Pair f.stl)
  else none

/-- Major LUI (0x06), U format (R105). -/
def decLui (imm : BitVec 20) (f : Fields) : Option Instr := some (.lui f.rd imm f.stl)
/-- Major AUIPC (0x07), U format (R105). -/
def decAuipc (imm : BitVec 20) (f : Fields) : Option Instr := some (.auipc f.rd imm f.stl)
/-- Major JAL (0x09), J format (R107). -/
def decJal (off : BitVec 20) (f : Fields) : Option Instr := some (.jal f.rd off f.stl)
/-- Major JALR (0x0A), I format, f3 = 0 (R108). -/
def decJalr (f : Fields) : Option Instr :=
  if f.f3 = 0 then some (.jalr f.rd f.rs1 f.imm12 f.stl) else none

/-- The instruction of a word whose major opcode and fields are given (R75); reserved majors answer none. -/
def decodeMajor (maj : BitVec 5) (imm20 : BitVec 20) (f : Fields) : Option Instr :=
  if maj = 0x00#5 then decLoad f else if maj = 0x01#5 then decStore f
  else if maj = 0x02#5 then decOpImm f else if maj = 0x03#5 then decOp f
  else if maj = 0x04#5 then decOpImm32 f else if maj = 0x05#5 then decOp32 f
  else if maj = 0x06#5 then decLui imm20 f else if maj = 0x07#5 then decAuipc imm20 f
  else if maj = 0x08#5 then decBranch f else if maj = 0x09#5 then decJal imm20 f
  else if maj = 0x0A#5 then decJalr f else if maj = 0x0B#5 then decSystem f
  else if maj = 0x0C#5 then decAmo f else if maj = 0x0D#5 then decFence f
  else if maj = 0x0E#5 then decVLoad f else if maj = 0x0F#5 then decVStore f
  else if maj = 0x10#5 then decVInt f else if maj = 0x11#5 then decVfp f
  else if maj = 0x12#5 then decVcvt f else if maj = 0x13#5 then decVperm f
  else if maj = 0x14#5 then decStream f else if maj = 0x15#5 then decEvent f
  else if maj = 0x16#5 then decTask f else if maj = 0x17#5 then decSync f
  else if maj = 0x18#5 then decMatrix f else if maj = 0x19#5 then decCopy f
  else if maj = 0x1A#5 then decSlice f else if maj = 0x1B#5 then decNet f
  else none

/-- The instruction of a word, or none where R76 says that the word is no instruction. WFE's word decodes to `wfe`;
a service core runs it as `wfeNotice` (R332), which the step decides. -/
def decode (w : BitVec 32) : Option Instr :=
  if w = 0 then none else decodeMajor (fld 2 5 w) (fld 12 20 w) (Fields.ofWord w)

/-- A word of the R and E formats (R69). -/
def encR (f7 : BitVec 7) (rs2 rs1 : BitVec 5) (f3 : BitVec 3) (rd : BitVec 5) (maj : BitVec 5) (stl : Stall) :
    BitVec 32 := f7 ++ rs2 ++ rs1 ++ f3 ++ rd ++ maj ++ stl
/-- A word of the I format (R69). -/
def encI (imm : BitVec 12) (rs1 : BitVec 5) (f3 : BitVec 3) (rd : BitVec 5) (maj : BitVec 5) (stl : Stall) :
    BitVec 32 := imm ++ rs1 ++ f3 ++ rd ++ maj ++ stl
/-- A word of the B format (R69): the offset is split. -/
def encS (imm : BitVec 12) (rs2 rs1 : BitVec 5) (f3 : BitVec 3) (maj : BitVec 5) (stl : Stall) : BitVec 32 :=
  encR (imm.extractLsb' 5 7) rs2 rs1 f3 (imm.extractLsb' 0 5) maj stl
/-- A word of the U and J formats (R69). -/
def encU (imm : BitVec 20) (rd : BitVec 5) (maj : BitVec 5) (stl : Stall) : BitVec 32 := imm ++ rd ++ maj ++ stl
/-- A word of the M format (R69). -/
def encM (imm : BitVec 10) (mode : BitVec 2) (rs1 : BitVec 5) (size : BitVec 3) (rd : BitVec 5) (maj : BitVec 5)
    (stl : Stall) : BitVec 32 := imm ++ mode ++ rs1 ++ size ++ rd ++ maj ++ stl
/-- A word of the V format (R69). -/
def encV (vfunc : BitVec 5) (etype : BitVec 2) (vs2 vs1 : BitVec 5) (m : BitVec 3) (vd : BitVec 5) (maj : BitVec 5)
    (stl : Stall) : BitVec 32 := vfunc ++ etype ++ vs2 ++ vs1 ++ m ++ vd ++ maj ++ stl

/-- The 32-bit word of an instruction (R69); none for a step that has no word. -/
def encode? : Instr → Option (BitVec 32)
  | .lb rd rs1 imm mode stl => some (encM imm mode.bits rs1 0x0#3 rd 0x0#5 stl)
  | .lh rd rs1 imm mode stl => some (encM imm mode.bits rs1 0x1#3 rd 0x0#5 stl)
  | .lw rd rs1 imm mode stl => some (encM imm mode.bits rs1 0x2#3 rd 0x0#5 stl)
  | .ld rd rs1 imm mode stl => some (encM imm mode.bits rs1 0x3#3 rd 0x0#5 stl)
  | .lbu rd rs1 imm mode stl => some (encM imm mode.bits rs1 0x4#3 rd 0x0#5 stl)
  | .lhu rd rs1 imm mode stl => some (encM imm mode.bits rs1 0x5#3 rd 0x0#5 stl)
  | .lwu rd rs1 imm mode stl => some (encM imm mode.bits rs1 0x6#3 rd 0x0#5 stl)
  | .sb src rs1 imm mode stl => some (encM imm mode.bits rs1 0x0#3 src 0x1#5 stl)
  | .sh src rs1 imm mode stl => some (encM imm mode.bits rs1 0x1#3 src 0x1#5 stl)
  | .sw src rs1 imm mode stl => some (encM imm mode.bits rs1 0x2#3 src 0x1#5 stl)
  | .sd src rs1 imm mode stl => some (encM imm mode.bits rs1 0x3#3 src 0x1#5 stl)
  | .addi rd rs1 imm stl => some (encI imm rs1 0x0#3 rd 0x2#5 stl)
  | .andi rd rs1 imm stl => some (encI imm rs1 0x1#3 rd 0x2#5 stl)
  | .ori rd rs1 imm stl => some (encI imm rs1 0x2#3 rd 0x2#5 stl)
  | .xori rd rs1 imm stl => some (encI imm rs1 0x3#3 rd 0x2#5 stl)
  | .slti rd rs1 imm stl => some (encI imm rs1 0x4#3 rd 0x2#5 stl)
  | .sltiu rd rs1 imm stl => some (encI imm rs1 0x5#3 rd 0x2#5 stl)
  | .slli rd rs1 sh stl => some (encI (0x0#6 ++ sh) rs1 0x6#3 rd 0x2#5 stl)
  | .srli rd rs1 sh stl => some (encI (0x1#6 ++ sh) rs1 0x6#3 rd 0x2#5 stl)
  | .srai rd rs1 sh stl => some (encI (0x2#6 ++ sh) rs1 0x6#3 rd 0x2#5 stl)
  | .rori rd rs1 sh stl => some (encI (0x3#6 ++ sh) rs1 0x6#3 rd 0x2#5 stl)
  | .clz rd rs1 stl => some (encI 0x0#12 rs1 0x7#3 rd 0x2#5 stl)
  | .ctz rd rs1 stl => some (encI 0x1#12 rs1 0x7#3 rd 0x2#5 stl)
  | .popc rd rs1 stl => some (encI 0x2#12 rs1 0x7#3 rd 0x2#5 stl)
  | .add rd rs1 rs2 stl => some (encR 0x0#7 rs2 rs1 0x0#3 rd 0x3#5 stl)
  | .sub rd rs1 rs2 stl => some (encR 0x0#7 rs2 rs1 0x1#3 rd 0x3#5 stl)
  | .and rd rs1 rs2 stl => some (encR 0x0#7 rs2 rs1 0x2#3 rd 0x3#5 stl)
  | .or rd rs1 rs2 stl => some (encR 0x0#7 rs2 rs1 0x3#3 rd 0x3#5 stl)
  | .xor rd rs1 rs2 stl => some (encR 0x0#7 rs2 rs1 0x4#3 rd 0x3#5 stl)
  | .slt rd rs1 rs2 stl => some (encR 0x0#7 rs2 rs1 0x5#3 rd 0x3#5 stl)
  | .sltu rd rs1 rs2 stl => some (encR 0x0#7 rs2 rs1 0x6#3 rd 0x3#5 stl)
  | .sll rd rs1 rs2 stl => some (encR 0x1#7 rs2 rs1 0x0#3 rd 0x3#5 stl)
  | .srl rd rs1 rs2 stl => some (encR 0x1#7 rs2 rs1 0x1#3 rd 0x3#5 stl)
  | .sra rd rs1 rs2 stl => some (encR 0x1#7 rs2 rs1 0x2#3 rd 0x3#5 stl)
  | .ror rd rs1 rs2 stl => some (encR 0x1#7 rs2 rs1 0x3#3 rd 0x3#5 stl)
  | .min rd rs1 rs2 stl => some (encR 0x2#7 rs2 rs1 0x0#3 rd 0x3#5 stl)
  | .max rd rs1 rs2 stl => some (encR 0x2#7 rs2 rs1 0x1#3 rd 0x3#5 stl)
  | .minu rd rs1 rs2 stl => some (encR 0x2#7 rs2 rs1 0x2#3 rd 0x3#5 stl)
  | .maxu rd rs1 rs2 stl => some (encR 0x2#7 rs2 rs1 0x3#3 rd 0x3#5 stl)
  | .addS rd rs1 rs2 stl => some (encR 0x3#7 rs2 rs1 0x0#3 rd 0x3#5 stl)
  | .subS rd rs1 rs2 stl => some (encR 0x3#7 rs2 rs1 0x1#3 rd 0x3#5 stl)
  | .adduS rd rs1 rs2 stl => some (encR 0x3#7 rs2 rs1 0x2#3 rd 0x3#5 stl)
  | .subuS rd rs1 rs2 stl => some (encR 0x3#7 rs2 rs1 0x3#3 rd 0x3#5 stl)
  | .mul rd rs1 rs2 stl => some (encR 0x4#7 rs2 rs1 0x0#3 rd 0x3#5 stl)
  | .mulh rd rs1 rs2 stl => some (encR 0x4#7 rs2 rs1 0x1#3 rd 0x3#5 stl)
  | .mulhu rd rs1 rs2 stl => some (encR 0x4#7 rs2 rs1 0x2#3 rd 0x3#5 stl)
  | .mulhsu rd rs1 rs2 stl => some (encR 0x4#7 rs2 rs1 0x3#3 rd 0x3#5 stl)
  | .div rd rs1 rs2 stl => some (encR 0x5#7 rs2 rs1 0x0#3 rd 0x3#5 stl)
  | .divu rd rs1 rs2 stl => some (encR 0x5#7 rs2 rs1 0x1#3 rd 0x3#5 stl)
  | .rem rd rs1 rs2 stl => some (encR 0x5#7 rs2 rs1 0x2#3 rd 0x3#5 stl)
  | .remu rd rs1 rs2 stl => some (encR 0x5#7 rs2 rs1 0x3#3 rd 0x3#5 stl)
  | .addiw rd rs1 imm stl => some (encI imm rs1 0x0#3 rd 0x4#5 stl)
  | .slliw rd rs1 sh stl => some (encI (0x0#7 ++ sh) rs1 0x6#3 rd 0x4#5 stl)
  | .srliw rd rs1 sh stl => some (encI (0x1#7 ++ sh) rs1 0x6#3 rd 0x4#5 stl)
  | .sraiw rd rs1 sh stl => some (encI (0x2#7 ++ sh) rs1 0x6#3 rd 0x4#5 stl)
  | .clzw rd rs1 stl => some (encI 0x0#12 rs1 0x7#3 rd 0x4#5 stl)
  | .ctzw rd rs1 stl => some (encI 0x1#12 rs1 0x7#3 rd 0x4#5 stl)
  | .popcw rd rs1 stl => some (encI 0x2#12 rs1 0x7#3 rd 0x4#5 stl)
  | .addw rd rs1 rs2 stl => some (encR 0x0#7 rs2 rs1 0x0#3 rd 0x5#5 stl)
  | .subw rd rs1 rs2 stl => some (encR 0x0#7 rs2 rs1 0x1#3 rd 0x5#5 stl)
  | .sllw rd rs1 rs2 stl => some (encR 0x1#7 rs2 rs1 0x0#3 rd 0x5#5 stl)
  | .srlw rd rs1 rs2 stl => some (encR 0x1#7 rs2 rs1 0x1#3 rd 0x5#5 stl)
  | .sraw rd rs1 rs2 stl => some (encR 0x1#7 rs2 rs1 0x2#3 rd 0x5#5 stl)
  | .addwS rd rs1 rs2 stl => some (encR 0x3#7 rs2 rs1 0x0#3 rd 0x5#5 stl)
  | .subwS rd rs1 rs2 stl => some (encR 0x3#7 rs2 rs1 0x1#3 rd 0x5#5 stl)
  | .mulw rd rs1 rs2 stl => some (encR 0x4#7 rs2 rs1 0x0#3 rd 0x5#5 stl)
  | .divw rd rs1 rs2 stl => some (encR 0x5#7 rs2 rs1 0x0#3 rd 0x5#5 stl)
  | .divuw rd rs1 rs2 stl => some (encR 0x5#7 rs2 rs1 0x1#3 rd 0x5#5 stl)
  | .remw rd rs1 rs2 stl => some (encR 0x5#7 rs2 rs1 0x2#3 rd 0x5#5 stl)
  | .remuw rd rs1 rs2 stl => some (encR 0x5#7 rs2 rs1 0x3#3 rd 0x5#5 stl)
  | .lui rd imm stl => some (encU imm rd 0x6#5 stl)
  | .auipc rd imm stl => some (encU imm rd 0x7#5 stl)
  | .beq rs1 rs2 off stl => some (encS off rs2 rs1 0x0#3 0x8#5 stl)
  | .bne rs1 rs2 off stl => some (encS off rs2 rs1 0x1#3 0x8#5 stl)
  | .blt rs1 rs2 off stl => some (encS off rs2 rs1 0x2#3 0x8#5 stl)
  | .bge rs1 rs2 off stl => some (encS off rs2 rs1 0x3#3 0x8#5 stl)
  | .bltu rs1 rs2 off stl => some (encS off rs2 rs1 0x4#3 0x8#5 stl)
  | .bgeu rs1 rs2 off stl => some (encS off rs2 rs1 0x5#3 0x8#5 stl)
  | .jal rd off stl => some (encU off rd 0x9#5 stl)
  | .jalr rd rs1 imm stl => some (encI imm rs1 0x0#3 rd 0xa#5 stl)
  | .csrrw rd rs1 csr stl => some (encI csr rs1 0x1#3 rd 0xb#5 stl)
  | .csrrs rd rs1 csr stl => some (encI csr rs1 0x2#3 rd 0xb#5 stl)
  | .csrrc rd rs1 csr stl => some (encI csr rs1 0x3#3 rd 0xb#5 stl)
  | .csrrwi rd csr uimm stl => some (encI csr uimm 0x5#3 rd 0xb#5 stl)
  | .csrrsi rd csr uimm stl => some (encI csr uimm 0x6#3 rd 0xb#5 stl)
  | .csrrci rd csr uimm stl => some (encI csr uimm 0x7#3 rd 0xb#5 stl)
  | .ecall stl => some (encR 0x0#7 0 0 0x0#3 0 0xb#5 stl)
  | .ebreak stl => some (encR 0x1#7 0 0 0x0#3 0 0xb#5 stl)
  | .wfe rd rs1 stl => some (encR 0x2#7 0 rs1 0x0#3 rd 0xb#5 stl)
  | .wfeNotice => none
  | .fenceI stl => some (encR 0x3#7 0 0 0x0#3 0 0xb#5 stl)
  | .tlbw rs1 rs2 stl => some (encR 0x8#7 rs2 rs1 0x0#3 0 0xb#5 stl)
  | .tlbinv rs1 rs2 stl => some (encR 0x9#7 rs2 rs1 0x0#3 0 0xb#5 stl)
  | .resume rd rs1 stl => some (encR 0x10#7 0 rs1 0x0#3 rd 0xb#5 stl)
  | .kill rd rs1 stl => some (encR 0x11#7 0 rs1 0x0#3 rd 0xb#5 stl)
  | .prio rs1 stl => some (encR 0x18#7 0 rs1 0x0#3 0 0xb#5 stl)
  | .amoswap rd rs1 rs2 ord wide scope stl => some (encV 0x0#5 ord.bits rs2 rs1 (boolBit wide ++ scope.bits) rd 0xc#5 stl)
  | .amoadd rd rs1 rs2 ord wide scope stl => some (encV 0x1#5 ord.bits rs2 rs1 (boolBit wide ++ scope.bits) rd 0xc#5 stl)
  | .amoand rd rs1 rs2 ord wide scope stl => some (encV 0x2#5 ord.bits rs2 rs1 (boolBit wide ++ scope.bits) rd 0xc#5 stl)
  | .amoor rd rs1 rs2 ord wide scope stl => some (encV 0x3#5 ord.bits rs2 rs1 (boolBit wide ++ scope.bits) rd 0xc#5 stl)
  | .amoxor rd rs1 rs2 ord wide scope stl => some (encV 0x4#5 ord.bits rs2 rs1 (boolBit wide ++ scope.bits) rd 0xc#5 stl)
  | .amomin rd rs1 rs2 ord wide scope stl => some (encV 0x5#5 ord.bits rs2 rs1 (boolBit wide ++ scope.bits) rd 0xc#5 stl)
  | .amomax rd rs1 rs2 ord wide scope stl => some (encV 0x6#5 ord.bits rs2 rs1 (boolBit wide ++ scope.bits) rd 0xc#5 stl)
  | .amominu rd rs1 rs2 ord wide scope stl => some (encV 0x7#5 ord.bits rs2 rs1 (boolBit wide ++ scope.bits) rd 0xc#5 stl)
  | .amomaxu rd rs1 rs2 ord wide scope stl => some (encV 0x8#5 ord.bits rs2 rs1 (boolBit wide ++ scope.bits) rd 0xc#5 stl)
  | .lr rd rs1 ord wide scope stl => some (encV 0x10#5 ord.bits 0 rs1 (boolBit wide ++ scope.bits) rd 0xc#5 stl)
  | .sc rd rs1 rs2 ord wide scope stl => some (encV 0x11#5 ord.bits rs2 rs1 (boolBit wide ++ scope.bits) rd 0xc#5 stl)
  | .fence scope stl => some (encI 0 (0#2 ++ scope.bits) 0x0#3 0 0xd#5 stl)
  | .fenceSc stl => some (encI 0 0b00100#5 0x1#3 0 0xd#5 stl)
  | .xfence dst src scope stl => some (encI (dst ++ src) (0#2 ++ scope.bits) 0x2#3 0 0xd#5 stl)
  | .vld vd rs1 mode w m stl => some (encV (0x0#3 ++ mode.bits) w.bits 0 rs1 m vd 0xe#5 stl)
  | .vlds vd rs1 rs2 mode w m stl => some (encV (0x1#3 ++ mode.bits) w.bits rs2 rs1 m vd 0xe#5 stl)
  | .vldx vd rs1 vs2 mode w m stl => some (encV (0x2#3 ++ mode.bits) w.bits vs2 rs1 m vd 0xe#5 stl)
  | .vst vs3 rs1 mode w m stl => some (encV (0x0#3 ++ mode.bits) w.bits 0 rs1 m vs3 0xf#5 stl)
  | .vsts vs3 rs1 rs2 mode w m stl => some (encV (0x1#3 ++ mode.bits) w.bits rs2 rs1 m vs3 0xf#5 stl)
  | .vstx vs3 rs1 vs2 mode w m stl => some (encV (0x2#3 ++ mode.bits) w.bits vs2 rs1 m vs3 0xf#5 stl)
  | .vadd vd vs1 vs2 w m stl => some (encV 0x0#5 w.bits vs2 vs1 m vd 0x10#5 stl)
  | .vsub vd vs1 vs2 w m stl => some (encV 0x1#5 w.bits vs2 vs1 m vd 0x10#5 stl)
  | .vmul vd vs1 vs2 w m stl => some (encV 0x2#5 w.bits vs2 vs1 m vd 0x10#5 stl)
  | .vmulh vd vs1 vs2 w m stl => some (encV 0x3#5 w.bits vs2 vs1 m vd 0x10#5 stl)
  | .vmulhu vd vs1 vs2 w m stl => some (encV 0x4#5 w.bits vs2 vs1 m vd 0x10#5 stl)
  | .vmin vd vs1 vs2 w m stl => some (encV 0x5#5 w.bits vs2 vs1 m vd 0x10#5 stl)
  | .vmax vd vs1 vs2 w m stl => some (encV 0x6#5 w.bits vs2 vs1 m vd 0x10#5 stl)
  | .vminu vd vs1 vs2 w m stl => some (encV 0x7#5 w.bits vs2 vs1 m vd 0x10#5 stl)
  | .vmaxu vd vs1 vs2 w m stl => some (encV 0x8#5 w.bits vs2 vs1 m vd 0x10#5 stl)
  | .vand vd vs1 vs2 w m stl => some (encV 0x9#5 w.bits vs2 vs1 m vd 0x10#5 stl)
  | .vor vd vs1 vs2 w m stl => some (encV 0xa#5 w.bits vs2 vs1 m vd 0x10#5 stl)
  | .vxor vd vs1 vs2 w m stl => some (encV 0xb#5 w.bits vs2 vs1 m vd 0x10#5 stl)
  | .vsll vd vs1 vs2 w m stl => some (encV 0xc#5 w.bits vs2 vs1 m vd 0x10#5 stl)
  | .vsrl vd vs1 vs2 w m stl => some (encV 0xd#5 w.bits vs2 vs1 m vd 0x10#5 stl)
  | .vsra vd vs1 vs2 w m stl => some (encV 0xe#5 w.bits vs2 vs1 m vd 0x10#5 stl)
  | .vaddS vd vs1 vs2 w m stl => some (encV 0xf#5 w.bits vs2 vs1 m vd 0x10#5 stl)
  | .vsubS vd vs1 vs2 w m stl => some (encV 0x10#5 w.bits vs2 vs1 m vd 0x10#5 stl)
  | .vadduS vd vs1 vs2 w m stl => some (encV 0x11#5 w.bits vs2 vs1 m vd 0x10#5 stl)
  | .vsubuS vd vs1 vs2 w m stl => some (encV 0x12#5 w.bits vs2 vs1 m vd 0x10#5 stl)
  | .vmacc vd vs1 vs2 w m stl => some (encV 0x13#5 w.bits vs2 vs1 m vd 0x10#5 stl)
  | .vsel vd vs1 vs2 w m stl => some (encV 0x14#5 w.bits vs2 vs1 m vd 0x10#5 stl)
  | .vbcast vd rs1 w m stl => some (encV 0x15#5 w.bits 0 rs1 m vd 0x10#5 stl)
  | .vcmpeq md vs1 vs2 w m stl => some (encV 0x18#5 w.bits vs2 vs1 m (0#2 ++ md) 0x10#5 stl)
  | .vcmpne md vs1 vs2 w m stl => some (encV 0x19#5 w.bits vs2 vs1 m (0#2 ++ md) 0x10#5 stl)
  | .vcmplt md vs1 vs2 w m stl => some (encV 0x1a#5 w.bits vs2 vs1 m (0#2 ++ md) 0x10#5 stl)
  | .vcmple md vs1 vs2 w m stl => some (encV 0x1b#5 w.bits vs2 vs1 m (0#2 ++ md) 0x10#5 stl)
  | .vcmpltu md vs1 vs2 w m stl => some (encV 0x1c#5 w.bits vs2 vs1 m (0#2 ++ md) 0x10#5 stl)
  | .vcmpleu md vs1 vs2 w m stl => some (encV 0x1d#5 w.bits vs2 vs1 m (0#2 ++ md) 0x10#5 stl)
  | .vfadd vd vs1 vs2 fmt m stl => some (encV 0x0#5 fmt.bits vs2 vs1 m vd 0x11#5 stl)
  | .vfsub vd vs1 vs2 fmt m stl => some (encV 0x1#5 fmt.bits vs2 vs1 m vd 0x11#5 stl)
  | .vfmul vd vs1 vs2 fmt m stl => some (encV 0x2#5 fmt.bits vs2 vs1 m vd 0x11#5 stl)
  | .vfdiv vd vs1 vs2 fmt m stl => some (encV 0x3#5 fmt.bits vs2 vs1 m vd 0x11#5 stl)
  | .vfmin vd vs1 vs2 fmt m stl => some (encV 0x4#5 fmt.bits vs2 vs1 m vd 0x11#5 stl)
  | .vfmax vd vs1 vs2 fmt m stl => some (encV 0x5#5 fmt.bits vs2 vs1 m vd 0x11#5 stl)
  | .vfma vd vs1 vs2 fmt m stl => some (encV 0x6#5 fmt.bits vs2 vs1 m vd 0x11#5 stl)
  | .vfsqrt vd vs1 fmt m stl => some (encV 0x7#5 fmt.bits 0 vs1 m vd 0x11#5 stl)
  | .vfexp2 vd vs1 fmt m stl => some (encV 0x8#5 fmt.bits 0 vs1 m vd 0x11#5 stl)
  | .vfabs vd vs1 fmt m stl => some (encV 0x9#5 fmt.bits 0 vs1 m vd 0x11#5 stl)
  | .vfneg vd vs1 fmt m stl => some (encV 0xa#5 fmt.bits 0 vs1 m vd 0x11#5 stl)
  | .vfsgnj vd vs1 vs2 fmt m stl => some (encV 0xb#5 fmt.bits vs2 vs1 m vd 0x11#5 stl)
  | .vfcmpeq md vs1 vs2 m stl => some (encV 0x18#5 0 vs2 vs1 m (0#2 ++ md) 0x11#5 stl)
  | .vfcmplt md vs1 vs2 m stl => some (encV 0x19#5 0 vs2 vs1 m (0#2 ++ md) 0x11#5 stl)
  | .vfcmple md vs1 vs2 m stl => some (encV 0x1a#5 0 vs2 vs1 m (0#2 ++ md) 0x11#5 stl)
  | .vfcmpun md vs1 vs2 m stl => some (encV 0x1b#5 0 vs2 vs1 m (0#2 ++ md) 0x11#5 stl)
  | .vcvtF32Bf16 vd vs1 part m stl => some (encV 0x0#5 (0#1 ++ part) 0 vs1 m vd 0x12#5 stl)
  | .vcvtF32F16 vd vs1 part m stl => some (encV 0x1#5 (0#1 ++ part) 0 vs1 m vd 0x12#5 stl)
  | .vcvtBf16F32 vd vs1 part rm m stl => some (encV 0x2#5 (0#1 ++ part) (0#2 ++ rm.bits) vs1 m vd 0x12#5 stl)
  | .vcvtF16F32 vd vs1 part rm m stl => some (encV 0x3#5 (0#1 ++ part) (0#2 ++ rm.bits) vs1 m vd 0x12#5 stl)
  | .vcvtF32E4m3 vd vs1 part m stl => some (encV 0x4#5 part 0 vs1 m vd 0x12#5 stl)
  | .vcvtF32E5m2 vd vs1 part m stl => some (encV 0x5#5 part 0 vs1 m vd 0x12#5 stl)
  | .vcvtE4m3F32 vd vs1 part rm m stl => some (encV 0x6#5 part (0#2 ++ rm.bits) vs1 m vd 0x12#5 stl)
  | .vcvtE5m2F32 vd vs1 part rm m stl => some (encV 0x7#5 part (0#2 ++ rm.bits) vs1 m vd 0x12#5 stl)
  | .vcvtBf16F16 vd vs1 rm m stl => some (encV 0x8#5 0 (0#2 ++ rm.bits) vs1 m vd 0x12#5 stl)
  | .vcvtF16Bf16 vd vs1 rm m stl => some (encV 0x9#5 0 (0#2 ++ rm.bits) vs1 m vd 0x12#5 stl)
  | .vcvtF32I32 vd vs1 rm m stl => some (encV 0x10#5 0 (0#2 ++ rm.bits) vs1 m vd 0x12#5 stl)
  | .vcvtF32U32 vd vs1 rm m stl => some (encV 0x11#5 0 (0#2 ++ rm.bits) vs1 m vd 0x12#5 stl)
  | .vcvtI32F32 vd vs1 rm m stl => some (encV 0x12#5 0 (0#2 ++ rm.bits) vs1 m vd 0x12#5 stl)
  | .vcvtU32F32 vd vs1 rm m stl => some (encV 0x13#5 0 (0#2 ++ rm.bits) vs1 m vd 0x12#5 stl)
  | .vcvtF32I16 vd vs1 part m stl => some (encV 0x14#5 (0#1 ++ part) 0 vs1 m vd 0x12#5 stl)
  | .vcvtF32I8 vd vs1 part m stl => some (encV 0x15#5 part 0 vs1 m vd 0x12#5 stl)
  | .vcvtI16F32 vd vs1 part rm m stl => some (encV 0x16#5 (0#1 ++ part) (0#2 ++ rm.bits) vs1 m vd 0x12#5 stl)
  | .vcvtI8F32 vd vs1 part rm m stl => some (encV 0x17#5 part (0#2 ++ rm.bits) vs1 m vd 0x12#5 stl)
  | .vcvtI32I16 vd vs1 part m stl => some (encV 0x18#5 (0#1 ++ part) 0 vs1 m vd 0x12#5 stl)
  | .vcvtI32I8 vd vs1 part m stl => some (encV 0x19#5 part 0 vs1 m vd 0x12#5 stl)
  | .vcvtI16I32 vd vs1 part m stl => some (encV 0x1a#5 (0#1 ++ part) 0 vs1 m vd 0x12#5 stl)
  | .vcvtI8I32 vd vs1 part m stl => some (encV 0x1b#5 part 0 vs1 m vd 0x12#5 stl)
  | .vredsum vd vs1 w m stl => some (encV 0x0#5 w.bits 0 vs1 m vd 0x13#5 stl)
  | .vredmin vd vs1 w m stl => some (encV 0x1#5 w.bits 0 vs1 m vd 0x13#5 stl)
  | .vredmax vd vs1 w m stl => some (encV 0x2#5 w.bits 0 vs1 m vd 0x13#5 stl)
  | .vredminu vd vs1 w m stl => some (encV 0x3#5 w.bits 0 vs1 m vd 0x13#5 stl)
  | .vredmaxu vd vs1 w m stl => some (encV 0x4#5 w.bits 0 vs1 m vd 0x13#5 stl)
  | .vfredsum vd vs1 fmt m stl => some (encV 0x5#5 fmt.bits 0 vs1 m vd 0x13#5 stl)
  | .vfredmin vd vs1 fmt m stl => some (encV 0x6#5 fmt.bits 0 vs1 m vd 0x13#5 stl)
  | .vfredmax vd vs1 fmt m stl => some (encV 0x7#5 fmt.bits 0 vs1 m vd 0x13#5 stl)
  | .vscan vd vs1 rc half m stl => some (encV 0x8#5 (0#1 ++ boolBit half) rc vs1 m vd 0x13#5 stl)
  | .vfscan vd vs1 rc fmt m stl => some (encV 0x9#5 fmt.bits rc vs1 m vd 0x13#5 stl)
  | .vcompress vd vs1 rc w m stl => some (encV 0xa#5 w.bits rc vs1 m vd 0x13#5 stl)
  | .vpermx vd vs1 vs2 w m stl => some (encV 0xb#5 w.bits vs2 vs1 m vd 0x13#5 stl)
  | .vslide vd vs1 rs2 w m stl => some (encV 0xc#5 w.bits rs2 vs1 m vd 0x13#5 stl)
  | .vmand md ms1 ms2 stl => some (encV 0x10#5 0 (0#2 ++ ms2) (0#2 ++ ms1) 0 (0#2 ++ md) 0x13#5 stl)
  | .vmor md ms1 ms2 stl => some (encV 0x11#5 0 (0#2 ++ ms2) (0#2 ++ ms1) 0 (0#2 ++ md) 0x13#5 stl)
  | .vmxor md ms1 ms2 stl => some (encV 0x12#5 0 (0#2 ++ ms2) (0#2 ++ ms1) 0 (0#2 ++ md) 0x13#5 stl)
  | .vmandn md ms1 ms2 stl => some (encV 0x13#5 0 (0#2 ++ ms2) (0#2 ++ ms1) 0 (0#2 ++ md) 0x13#5 stl)
  | .vmnot md ms1 stl => some (encV 0x14#5 0 0 (0#2 ++ ms1) 0 (0#2 ++ md) 0x13#5 stl)
  | .vmpopc rd ms1 stl => some (encV 0x15#5 0 0 (0#2 ++ ms1) 0 rd 0x13#5 stl)
  | .vmfirst rd ms1 stl => some (encV 0x16#5 0 0 (0#2 ++ ms1) 0 rd 0x13#5 stl)
  | .vmtox rd ms1 stl => some (encV 0x17#5 0 0 (0#2 ++ ms1) 0 rd 0x13#5 stl)
  | .vxtom md rs1 stl => some (encV 0x18#5 0 0 rs1 0 (0#2 ++ md) 0x13#5 stl)
  | .vextr rd vs1 rs2 w stl => some (encV 0x19#5 w.bits rs2 vs1 0 rd 0x13#5 stl)
  | .vins vd rs1 rs2 w stl => some (encV 0x1a#5 w.bits rs2 rs1 0 vd 0x13#5 stl)
  | .sbind n stl => some (encV 0x0#5 0 0 0 0 (0b11#2 ++ n) 0x14#5 stl)
  | .sclose n stl => some (encV 0x1#5 0 0 0 0 (0b11#2 ++ n) 0x14#5 stl)
  | .streamPrefetch => none
  | .evsend rs1 rs2 stl => some (encR 0x0#7 rs2 rs1 0x0#3 0 0x15#5 stl)
  | .evsendnb rd rs1 rs2 stl => some (encR 0x1#7 rs2 rs1 0x0#3 rd 0x15#5 stl)
  | .evpop rd rs1 stl => some (encR 0x2#7 0 rs1 0x0#3 (rd ++ 0#1) 0x15#5 stl)
  | .evmc rs1 rs2 stl => some (encR 0x3#7 rs2 rs1 0x0#3 0 0x15#5 stl)
  | .sdq rd vs rs1 m stl => some (encR 0x4#7 vs rs1 m rd 0x15#5 stl)
  | .exit stl => some (encR 0x0#7 0 0 0x0#3 0 0x16#5 stl)
  | .spawn rs1 rs2 stl => some (encR 0x1#7 rs2 rs1 0x0#3 0 0x16#5 stl)
  | .migr rs1 rs2 stl => some (encR 0x2#7 rs2 rs1 0x0#3 0 0x16#5 stl)
  | .yield stl => some (encR 0x3#7 0 0 0x0#3 0 0x16#5 stl)
  | .jobcard rd rs1 rs2 stl => some (encR 0x4#7 (rs2 ++ 0#1) (rs1 ++ 0#1) 0x0#3 rd 0x16#5 stl)
  | .jobCardDeal => none
  | .cardTaskStart => none
  | .barinit rd rs1 rs2 stl => some (encR 0x0#7 rs2 rs1 0x0#3 rd 0x17#5 stl)
  | .bararv rd rs1 stl => some (encR 0x1#7 0 rs1 0x0#3 rd 0x17#5 stl)
  | .barwait rs1 rs2 stl => some (encR 0x2#7 rs2 rs1 0x0#3 0 0x17#5 stl)
  | .barsync rs1 stl => some (encR 0x3#7 0 rs1 0x0#3 0 0x17#5 stl)
  | .tarm rs1 stl => some (encR 0x0#7 0 rs1 0x1#3 0 0x17#5 stl)
  | .tclr rs1 stl => some (encR 0x1#7 0 rs1 0x1#3 0 0x17#5 stl)
  | .twany rd rs1 stl => some (encR 0x2#7 0 rs1 0x1#3 rd 0x17#5 stl)
  | .twall rs1 stl => some (encR 0x3#7 0 rs1 0x1#3 0 0x17#5 stl)
  | .tffr rd rs1 stl => some (encR 0x4#7 0 rs1 0x1#3 rd 0x17#5 stl)
  | .cntwaitge rs1 rs2 stl => some (encR 0x0#7 rs2 rs1 0x2#3 0 0x17#5 stl)
  | .mset er rs1 stl => some (encR 0x0#7 0 rs1 er.bits 0 0x18#5 stl)
  | .mget rd er stl => some (encR 0x1#7 0 0 er.bits rd 0x18#5 stl)
  | .mloadw rd rs1 rs2 stl => some (encR 0x2#7 rs2 rs1 0x0#3 rd 0x18#5 stl)
  | .mmul rd rs1 rs2 stl => some (encR 0x3#7 rs2 rs1 0x0#3 rd 0x18#5 stl)
  | .evmac rd rs1 stl => some (encR 0x4#7 0 rs1 0x0#3 rd 0x18#5 stl)
  | .mdrain rd rs1 stl => some (encR 0x5#7 0 rs1 0x0#3 rd 0x18#5 stl)
  | .mzero rd rs1 stl => some (encR 0x6#7 0 rs1 0x0#3 rd 0x18#5 stl)
  | .mchk rd rs1 stl => some (encR 0x7#7 0 rs1 0x0#3 rd 0x18#5 stl)
  | .matrixOpStart => none
  | .mmulGroupCommit => none
  | .drainRow => none
  | .drainDispatch => none
  | .rowDeparture => none
  | .cpush rs1 rs2 stl => some (encR 0x0#7 (rs2 ++ 0#1) (rs1 ++ 0#1) 0x0#3 0 0x19#5 stl)
  | .cpushnb rd rs1 rs2 stl => some (encR 0x1#7 (rs2 ++ 0#1) (rs1 ++ 0#1) 0x0#3 rd 0x19#5 stl)
  | .gather rd rs1 rs2 stl => some (encR 0x0#7 (rs2 ++ 0#1) (rs1 ++ 0#1) 0x0#3 rd 0x1a#5 stl)
  | .scatadd rd rs1 rs2 stl => some (encR 0x1#7 (rs2 ++ 0#1) (rs1 ++ 0#1) 0x0#3 rd 0x1a#5 stl)
  | .bin rd rs1 rs2 stl => some (encR 0x2#7 (rs2 ++ 0#1) (rs1 ++ 0#1) 0x0#3 rd 0x1a#5 stl)
  | .get rd rs1 rs2 stl => some (encR 0x0#7 (rs2 ++ 0#1) (rs1 ++ 0#1) 0x0#3 rd 0x1b#5 stl)
  | .put rd rs1 rs2 stl => some (encR 0x1#7 (rs2 ++ 0#1) (rs1 ++ 0#1) 0x0#3 rd 0x1b#5 stl)
  | .redcopy rd rs1 rs2 stl => some (encR 0x2#7 (rs2 ++ 0#1) (rs1 ++ 0#1) 0x0#3 rd 0x1b#5 stl)
  | .ramo rd rs1 rs2 stl => some (encR 0x3#7 (rs2 ++ 0#1) (rs1 ++ 0#1) 0x0#3 rd 0x1b#5 stl)
  | .engineRequestStart => none
  | .tagPost => none
  | .copyBytesWritten => none
  | .counterAdd => none
  | .requestHalt => none
  | .requestResume => none
  | .requestAccessFault => none
  | .gatherSnapshot => none
  | .scataddUpdate => none
  | .netRemoteWrite => none
  | .netRemoteRead => none
  | .netAck => none
  | .netRefusal => none
  | .redcopyBlock => none
  | .ramoAtTarget => none
  | .ramoResponse => none
  | .remoteFlatAccess => none
  | .remoteLoadResponse => none
  | .remoteStoreAck => none
  | .eventArrival => none
  | .clockGate => none
  | .flitHopResend => none
  | .eventParityError => none
  | .eventDispatch => none
  | .repartition => none
  | .chtabWrite => none
  | .genWrite => none
  | .stlchkWrite => none
  | .fflagsAccess => none
  | .asidWrite => none
  | .trappairWrite => none
  | .ctxwinWrite => none
  | .regnWrite => none
  | .csrWrite => none
  | .trapNotice => none
  | .serviceContextRestart => none
  | .tlbMissNotice => none
  | .parkResume => none
  | .coachSwap => none
  | .coachSave => none
  | .coachReadmission => none
  | .recordArrival => none
  | .ringReturn => none
  | .bankRecordWithdrawn => none
  | .recordStart => none
  | .coachAdmission => none
  | .placementStep => none
  | .predlExpiry => none
  | .gangReadyPost => none
  | .gangReadyMessage => none
  | .gangDecision => none
  | .sliceStart => none
  | .sliceEnd => none
  | .stageWeightUpdate => none
  | .contextAged => none
  | .activeMessage => none
  | .logForward => none
  | .hostSend => none
  | .hostRdmaWrite => none
  | .hostRdmaRead => none
  | .registerLaunch => none
  | .retireLaunch => none
  | .reqRead => none
  | .reqWrite => none
  | .tokens => none
  | .transientTimeout => none
  | .persistReq => none
  | .persistOn => none
  | .persistOff => none
  | .persistDone => none
  | .lineEviction => none
  | .tierPromote => none
  | .tierEvict => none
  | .tierQuery => none
  | .tileHeld => none
  | .tileAbsent => none
  | .freeze => none
  | .freezeAtTick => none
  | .release => none
  | .releaseAtTick => none
  | .scanRead => none
  | .linkUnitReplay => none
  | .linkRetrain => none
  | .dieOutOfService => none
  | .timeMessage => none
  | .domainJoin => none
  | .budgetPeriod => none
  | .governorPeriod => none
  | .thermalThrottle => none
  | .thermalTrip => none
  | .uncorrectableError => none
  | .powerOn => none
  | .getVersion => none
  | .getCapabilities => none
  | .negotiateAlgorithms => none
  | .getDigests => none
  | .getCertificate => none
  | .challenge => none
  | .getMeasurements => none
  | .illegalInstruction => none
  | .fetchFault => none
  | .transientAttempt => none
  | .constrainedSequenceLimit => none
  | .vdnRemap => none
  | .spareColumnSubstitution => none
  | .budgetSetting => none

/-- The word of an instruction, and 0 for a step that has none. -/
def encode (i : Instr) : BitVec 32 := (encode? i).getD 0

/-- Whether the row of an instruction has a word of its own (the table's first part). -/
def Instr.hasWord (i : Instr) : Bool := (encode? i).isSome

/-- The word made of four bytes, the first at the lowest address (R4, R66). -/
def wordOfBytes (b0 b1 b2 b3 : Byte) : BitVec 32 := b3 ++ b2 ++ b1 ++ b0

/-- The bytes of a word as they lie in memory (R4, R66). -/
def bytesOfWord (w : BitVec 32) : List Byte :=
  [w.extractLsb' 0 8, w.extractLsb' 8 8, w.extractLsb' 16 8, w.extractLsb' 24 8]

/-- Reads one instruction from a list of bytes: the instruction and the rest, or none (R66, R76). -/
def decodeBytes : List Byte → Option (Instr × List Byte)
  | b0 :: b1 :: b2 :: b3 :: rest => (decode (wordOfBytes b0 b1 b2 b3)).map fun i => (i, rest)
  | _ => none

/-- The instruction whose bits are w, numbered as the opcode table numbers them: its bytes are laid out as memory
holds them and given to the decoder. -/
def decodeTableWord (_nbits w : Nat) : Option Instr :=
  (decodeBytes (bytesOfWord (BitVec.ofNat 32 w))).map Prod.fst

end Sys2Proof
end

