-- ==== Sys2Proof/Machine/Map.lean ====
section
/-!
DEFINITION. Reading and writing sparse maps, and the bit and number helpers of the model (R3, R4, R7).
-/

namespace Sys2Proof

/-- The value at k, if the map lists one. -/
def SMap.find? {α : Type} : SMap α → Nat → Option α
  | [], _ => none
  | (k', v) :: r, k => if k = k' then some v else SMap.find? r k

/-- The value at k, or d where the map lists none. -/
def SMap.get {α : Type} (m : SMap α) (k : Nat) (d : α) : α := (m.find? k).getD d

/-- The map with value v at k, keys kept rising. -/
def SMap.set {α : Type} : SMap α → Nat → α → SMap α
  | [], k, v => [(k, v)]
  | (k', v') :: r, k, v =>
    if k < k' then (k, v) :: (k', v') :: r
    else if k = k' then (k, v) :: r
    else (k', v') :: SMap.set r k v

/-- The map without k. -/
def SMap.erase {α : Type} (m : SMap α) (k : Nat) : SMap α := m.filter fun p => p.1 != k

/-- The map with value v at k, where d is what an unlisted key reads as: writing d removes the entry. -/
def SMap.put {α : Type} [DecidableEq α] (d : α) (m : SMap α) (k : Nat) (v : α) : SMap α :=
  if v = d then m.erase k else m.set k v

/-- The map with every value changed by f. -/
def SMap.mapVal {α β : Type} (f : Nat → α → β) (m : SMap α) : SMap β := m.map fun p => (p.1, f p.1 p.2)

/-- The canonical form: keys strictly rising, no value equal to d. -/
def SMap.wf {α : Type} [DecidableEq α] (d : α) : SMap α → Bool
  | [] => true
  | [(_, v)] => decide (v ≠ d)
  | (k, v) :: (k', v') :: r => decide (v ≠ d) && decide (k < k') && SMap.wf d ((k', v') :: r)

/-- The first element that f accepts, and the list without it. -/
def takeFirst {α : Type} (f : α → Bool) : List α → Option (α × List α)
  | [] => none
  | a :: r => if f a then some (a, r) else (takeFirst f r).map fun p => (p.1, a :: p.2)

/-- The list with its first element that f accepts replaced by g of it. -/
def updFirst {α : Type} (f : α → Bool) (g : α → α) : List α → List α
  | [] => []
  | a :: r => if f a then g a :: r else a :: updFirst f g r

/-- Inserts into a list kept in rising order of key; equal keys keep their order. -/
def insertBy {α : Type} (key : α → Nat) (a : α) : List α → List α
  | [] => [a]
  | b :: r => if key a < key b then a :: b :: r else b :: insertBy key a r

/-- The list in rising order of key; equal keys keep their order. -/
def sortBy {α : Type} (key : α → Nat) (l : List α) : List α := l.foldl (fun acc a => insertBy key a acc) []

/-- Bits [hi:lo] of a word as a number (R7). -/
def bits (w : Word) (hi lo : Nat) : Nat := (w.toNat >>> lo) % 2 ^ (hi + 1 - lo)

/-- Bit i of a word. -/
def bit (w : Word) (i : Nat) : Bool := w.getLsbD i

/-- The low n bits of a number, sign-extended to 64 bits (R7). -/
def sextN (n : Nat) (v : Nat) : Word :=
  let u := v % 2 ^ n
  if 2 * u < 2 ^ n then BitVec.ofNat 64 u else BitVec.ofInt 64 ((u : Int) - (2 ^ n : Nat))

/-- The low n bits of a number read as a signed number (R7). -/
def toSigned (n : Nat) (v : Nat) : Int :=
  let u := v % 2 ^ n
  if 2 * u < 2 ^ n then (u : Int) else (u : Int) - (2 ^ n : Nat)

/-- A number as n bits of two's complement. -/
def ofSigned (n : Nat) (v : Int) : Nat := (v % (2 ^ n : Nat)).toNat

/-- sat(v, intN): the nearest value that a signed n-bit integer holds (R37). -/
def satSigned (n : Nat) (v : Int) : Int :=
  let hi : Int := (2 ^ (n - 1) : Nat) - 1
  let lo : Int := -((2 ^ (n - 1) : Nat) : Int)
  if v > hi then hi else if v < lo then lo else v

/-- v limited to 0 … 2^n - 1. -/
def satUnsigned (n : Nat) (v : Int) : Int :=
  let hi : Int := (2 ^ n : Nat) - 1
  if v > hi then hi else if v < 0 then 0 else v

/-- The number of bytes of a list, least significant first (R4). -/
def ofBytes : List Byte → Nat
  | [] => 0
  | b :: r => b.toNat + 256 * ofBytes r

/-- The n low bytes of a number, least significant first (R4). -/
def toBytes : Nat → Nat → List Byte
  | 0, _ => []
  | n + 1, v => BitVec.ofNat 8 v :: toBytes n (v / 256)

/-- Element i, of w bits, of a vector (R142). -/
def elem (w : Nat) (v : VWord) (i : Nat) : Nat := (v.toNat >>> (w * i)) % 2 ^ w

/-- The vector of a list of elements of w bits, element 0 first; missing elements are 0. -/
def packElems (w : Nat) : List Nat → Nat
  | [] => 0
  | e :: r => e % 2 ^ w + 2 ^ w * packElems w r

/-- The vector whose element i of w bits is f i. -/
def mkVec (w : Nat) (f : Nat → Nat) : VWord := BitVec.ofNat 512 (packElems w ((List.range (512 / w)).map f))

/-- The lowest number below n that f accepts. -/
def lowest (n : Nat) (f : Nat → Bool) : Option Nat := (List.range n).find? f

/-- How many numbers below n f accepts. -/
def countBelow (n : Nat) (f : Nat → Bool) : Nat := ((List.range n).filter f).length

/-- a ÷ b rounded up. -/
def ceilDiv (a b : Nat) : Nat := (a + b - 1) / b

/-- Whether the ranges [a, a + n) and [b, b + m) share a number. -/
def overlaps (a n b m : Nat) : Bool := decide (0 < n) && decide (0 < m) && decide (a < b + m) && decide (b < a + n)

end Sys2Proof
end

