-- ==== Sys2Proof/Config.lean ====
section
/-!
DEFINITION. What an implementation fixes and the free values: constants without a body, of which nothing can be
proved. Each is applied to the state's counter `free` or to the operands it depends on (log 4).
-/

namespace Sys2Proof.Config

/-- How many nanoseconds of the package time counter pass in a step (R26: times do not bind; R359). -/
opaque elapsedNs : Nat → Nat

/-- How many cycles of die `vdn` pass in a step (R120). -/
opaque elapsedCycles : Nat → Nat → Nat

/-- The entry that a fill of a full TLB displaces: "which entry it displaces is not architectural" (R349). -/
opaque tlbVictim : Nat → Nat

/-- The line that a full slice evicts for another (R270). -/
opaque sliceVictim : Nat → Nat

/-- Whether a reservation is lost when a persistent request takes its line's tokens: it "may also stop being intact" (R135). -/
opaque reservationLost : Nat → Bool

/-- For how many of the free counter's numbers after a write of the given one the accesses of a path class may still find the bytes that
it replaced: nothing orders the two (R263, R282, R283). -/
opaque oldFor : Nat → Nat → Nat

/-- The weight of a row in a spare column that has replaced a faulty one: not meaningful before the next MLOADW (R240). -/
opaque spareWeight : Nat → Nat → BitVec 16

/-- The 64 bytes of the measurement of an index, 1 to 40, of what it measures (R372, R373). -/
opaque measurement : Nat → List Nat → BitVec 512

/-- The bytes of an SPDM answer that the spec does not give, by answer and request (R373). -/
opaque spdmBytes : Nat → Nat → List Byte

/-- The memory-encryption key of the n-th package reset (R374). -/
opaque memoryKey : Nat → BitVec 512

/-- AES-XTS-256 of a 128-byte data unit: the key, the unit's number and its plain bytes as a number (R374). -/
opaque aesXts : BitVec 512 → Nat → Nat → BitVec 1024

/-- By how many parts per million a package corrects its counter's rate, modulo 201 (R360). -/
opaque rateStep : Nat → Nat

/-- The Kind, below 256, and the words of a log entry whose layout R375 does not list (R358, R369, R372). -/
opaque unlistedLog : Nat → Nat × Word × Word

end Sys2Proof.Config
end

