-- ==== Sys2Proof/Machine/Event.lean ====
section
/-!
DEFINITION. The steps of the opcode table that have no word of their own, with the operands that the outside or the
interleaving supplies. The state's agenda is a list of these; the meaning of such a row reads its operands from the
head of the agenda. Core keys, context numbers and cluster keys are those of `State` (R21): a compute core has key
256 * VDN + 4 * cluster + core, a service core 8192 + 64 * VDN + cluster, and a cluster 64 * VDN + cluster.
-/

namespace Sys2Proof.Machine

/-- Who sent a message that crosses to a package: the package, the core (its key), the context, the launch, the
request id of R375 (0 where the access is no FIFO request) and whether the sender has supervisor privilege. -/
structure NetSrc where
  pkg  : Nat
  core : Nat
  ctx  : Nat
  lid  : Nat
  req  : Nat
  sup  : Bool
  deriving DecidableEq, Repr

/-- What the net engines of two packages say to one another (R259 to R261, R277). -/
inductive NetMsg where
  /-- bytes lo.. of a PUT, for virtual address va; cnt is the address of a counter at the destination, or 0; whole says that
  the PUT's destination is packed, 64-byte aligned and a multiple of 64 bytes long (R309) -/
  | putBytes (src : NetSrc) (asid va lo : Nat) (cnt : Nat) (whole : Bool) (bytes : List Byte)
  /-- bytes lo..lo+len-1 of a GET are wanted -/
  | getBytes (src : NetSrc) (asid va lo len : Nat)
  /-- the answer to getBytes -/
  | data (src : NetSrc) (lo : Nat) (bytes : List Byte)
  /-- bytes lo..lo+len-1 of a PUT or REDCOPY have been performed -/
  | ack (src : NetSrc) (lo len : Nat)
  /-- the request was refused, or it meets an access fault at the address given (R302, R370) -/
  | nack (src : NetSrc) (fault : Option Nat)
  /-- block q of a REDCOPY: its combining operation and element type, and its elements (address, value) -/
  | redBlock (src : NetSrc) (q asid rop rtype lo len cnt : Nat) (elems : List (Nat × Word))
  /-- a remote atomic: operation, width, operand b, compare value c -/
  | ramo (src : NetSrc) (asid va op : Nat) (wide : Bool) (b c : Word)
  /-- the answer to a RAMO: the old value, or a refusal, or that the word is poisoned -/
  | ramoReply (src : NetSrc) (ok poison : Bool) (v : Word)
  /-- a remote FLAT load of size bytes -/
  | flatLoad (src : NetSrc) (asid va size : Nat)
  /-- the answer to a remote FLAT load: the value, or a refusal, or that the word is poisoned -/
  | loadReply (src : NetSrc) (ok poison : Bool) (v : Word)
  /-- a remote FLAT store, the id-th of its context -/
  | flatStore (src : NetSrc) (asid va id : Nat) (bytes : List Byte)
  /-- a remote FLAT store to an aligned 4-byte word, of the bytes whose bit in mask is 1 (R170, R172) -/
  | flatWord (src : NetSrc) (asid va id mask : Nat) (bytes : List Byte)
  /-- the answer to a remote FLAT store -/
  | storeAck (src : NetSrc) (id : Nat) (ok : Bool)
  deriving DecidableEq, Repr

/-- What the scan path reads (R344, R375): of a context; of its core, the progress point of a request, by its number, or of an
engine operation, by its place in the queue, and a place of the event queue; and an entry of a die's error log, which the board
controller reads beside it (the die as 64 × class + number). -/
inductive ScanItem where
  | x (n : Nat) | v (n : Nat) | m (n : Nat) | pc | csr (a : Nat) | scratch (off : Nat)
  | request (num : Nat) | operation (i : Nat) | entry (place : Nat) | log (die i : Nat)
  deriving DecidableEq, Repr

/-- Where a storage error is found (R370): an uncorrectable one in memory, a scratchpad, a service core's memory, the L1 or L2 copy
of a line, or a column of a macro, whose next pass fails once or whose every pass fails (R235); or a single-bit one. -/
inductive StorePlace where
  | memory | scratchpad | serviceMemory | l1 | l2 | column | pass | single
  deriving DecidableEq, Repr

/-- Where a record of a cluster's task-queue bank is (R312). -/
inductive BankPlace where
  | arrival | staged | spill
  deriving DecidableEq, Repr

/-- The dies BX-T measures at power-on (R372, R373). -/
inductive BootDie where
  | bxm (n : Nat) | bxio | compute (phys : Nat)
  deriving DecidableEq, Repr

/-- What firmware sets over the management plane: the budgets (R367), and its other settings: a host-visible window, a value of 0
taking it away (R362); the kind of cluster that a launch's layer needs, 1 narrow and 2 wide (R13); the L2 ways that hold tiles
(R352); where a cluster's overflow ring lies and how many slots it has (R313); and the VDNs that are mapped in another package, a
bit each (R24). -/
inductive BudgetItem where
  | link (link cls : Nat) | memory (ctrl cls : Nat) | tier (die op : Nat) | governor
  | window (rkey asid va len : Nat) (rd wr : Bool)
  | layer (lid : Nat) | tierWays | ring (cl : Nat) | ringSlots (cl : Nat) | farDies (pkg : Nat)
  deriving DecidableEq, Repr

/-- One constructor per row without a word of its own, and its operands: k and c are a core key and a context, cl a cluster key, req an
engine request's number on its core. Two are steps of the row HOST_SEND: a SEND, and a packet outside the options of R361
(`hostOutside`). -/
inductive Event where
  | wfeNotice (rd rs1 : Reg) (stl : Stall)
  | streamPrefetch (k c n : Nat)
  | jobCardDeal (cl card j : Nat)
  | cardTaskStart (k card c : Nat)
  | matrixOpStart (k : Nat)
  | mmulGroupCommit (k : Nat)
  | drainRow (k : Nat)
  | drainDispatch (k c : Nat)
  | rowDeparture (k slot : Nat)
  | engineRequestStart (k : Nat)
  | tagPost (k dst : Nat)
  | copyBytesWritten (k req lo len : Nat)
  | counterAdd (k req n : Nat)
  | requestHalt (k req : Nat)
  | requestResume (k req : Nat)
  | requestAccessFault (k req : Nat)
  | gatherSnapshot (k req i part : Nat)
  | scataddUpdate (k req i : Nat)
  | netRemoteWrite (m : NetMsg)
  | netRemoteRead (m : NetMsg)
  | netAck (m : NetMsg)
  | netRefusal (m : NetMsg)
  | redcopyBlock (m : NetMsg)
  | ramoAtTarget (m : NetMsg)
  | ramoResponse (k c : Nat) (ok poison : Bool) (v : Word)
  | remoteFlatAccess (m : NetMsg)
  | remoteLoadResponse (k c : Nat) (ok poison : Bool) (v : Word)
  | remoteStoreAck (k c id : Nat) (ok : Bool)
  | eventArrival (k : Nat) (p : BitVec 128)
  | clockGate (k : Nat)
  | flitHopResend (flit : BitVec 128)
  | eventParityError (k i : Nat)
  | eventDispatch (k ch c : Nat)
  | repartition (k : Nat) (entries : List (Nat × Word))
  | chtabWrite (k ch : Nat) (v : Word)
  | genWrite (k c i : Nat) (v : Word)
  | stlchkWrite (k c : Nat) (v : Word)
  | fflagsAccess (k c : Nat) (v : Word)
  | asidWrite (k c : Nat) (v : Word)
  | trappairWrite (cl : Nat) (v : Word)
  | ctxwinWrite (k c : Nat) (v : Word)
  | regnWrite (k n : Nat) (v : Word)
  | csrWrite (k c a : Nat) (v : Word)
  | trapNotice (cl : Nat)
  | serviceContextRestart (k c : Nat) (pc : Word)
  | tlbMissNotice (k c : Nat)
  | parkResume (k c : Nat)
  | coachSwap (cl : Nat)
  | coachSave (cl lid base : Nat)
  | coachReadmission (cl lid : Nat)
  | recordArrival (k : Nat)
  | ringReturn (k : Nat)
  | bankRecordWithdrawn (k : Nat) (place : BankPlace) (i : Nat)
  | recordStart (k c : Nat)
  | coachAdmission (cl lid : Nat)
  | placementStep (lid : Nat)
  | predlExpiry (k c : Nat)
  | gangReadyPost (lid tick : Nat)
  | gangReadyMessage (lid tick pkg : Nat)
  | gangDecision (lid tick : Nat)
  | sliceStart (lid tick : Nat)
  | sliceEnd (lid : Nat)
  | stageWeightUpdate (k : Nat)
  | contextAged (k c : Nat)
  | activeMessage
  | logForward
  | hostSend (qp : Nat) (control : Bool) (payload : List Word)
  | hostOutside (qp : Nat)
  | hostRdmaWrite (qp rkey va : Nat) (bytes : List Byte)
  | hostRdmaRead (qp rkey va len : Nat)
  | registerLaunch
  | retireLaunch
  | reqRead (holder line requester num : Nat)
  | reqWrite (holder line requester num : Nat)
  | tokens (line i : Nat)
  | transientTimeout (line requester : Nat)
  | persistReq (line requester : Nat)
  | persistOn (holder line num : Nat)
  | persistOff (holder line num : Nat)
  | persistDone (line requester num : Nat)
  | lineEviction (holder line : Nat)
  | tierPromote (w0 w1 w2 w3 : Word) (asid : Nat)
  | tierEvict (w0 w1 w2 w3 : Word) (asid : Nat)
  | tierQuery (w0 w1 w2 w3 : Word) (asid : Nat)
  | tileHeld (base : Nat)
  | tileAbsent (base : Nat)
  | freeze (lid tick : Nat)
  | freezeAtTick (lid : Nat)
  | release (lid tick : Nat)
  | releaseAtTick (lid : Nat)
  | scanRead (k c : Nat) (item : ScanItem)
  | linkUnitReplay (link : Nat) (again : Bool)
  | linkRetrain (link : Nat) (ok : Bool)
  | dieOutOfService (vdn : Nat)
  | timeMessage (p ref : Nat)
  | domainJoin (ref : Nat) (packages : List Nat)
  | budgetPeriod
  | governorPeriod (energy : Nat)
  | thermalThrottle (celsius : Nat)
  | thermalTrip (celsius : Nat)
  | uncorrectableError (place : StorePlace) (k a : Nat)
  | powerOn (failing : List BootDie)
  | getVersion
  | getCapabilities
  | negotiateAlgorithms
  | getDigests
  | getCertificate (offset len : Nat)
  | challenge (nonce : Nat)
  | getMeasurements (index : Nat) (signed : Bool) (nonce : Nat)
  | illegalInstruction (w : BitVec 32)
  | fetchFault
  | transientAttempt (line requester : Nat) (write : Bool)
  | constrainedSequenceLimit (k c : Nat)
  | vdnRemap (vdn phys : Nat)
  | spareColumnSubstitution (k col : Nat)
  | budgetSetting (item : BudgetItem) (value : Nat)
  deriving DecidableEq, Repr

/-- The row of the opcode table that an event is a step of. -/
def Event.instr : Event → Instr
  | .wfeNotice _ _ _ => .wfeNotice
  | .streamPrefetch _ _ _ => .streamPrefetch
  | .jobCardDeal _ _ _ => .jobCardDeal
  | .cardTaskStart _ _ _ => .cardTaskStart
  | .matrixOpStart _ => .matrixOpStart
  | .mmulGroupCommit _ => .mmulGroupCommit
  | .drainRow _ => .drainRow
  | .drainDispatch _ _ => .drainDispatch
  | .rowDeparture _ _ => .rowDeparture
  | .engineRequestStart _ => .engineRequestStart
  | .tagPost _ _ => .tagPost
  | .copyBytesWritten _ _ _ _ => .copyBytesWritten
  | .counterAdd _ _ _ => .counterAdd
  | .requestHalt _ _ => .requestHalt
  | .requestResume _ _ => .requestResume
  | .requestAccessFault _ _ => .requestAccessFault
  | .gatherSnapshot _ _ _ _ => .gatherSnapshot
  | .scataddUpdate _ _ _ => .scataddUpdate
  | .netRemoteWrite _ => .netRemoteWrite
  | .netRemoteRead _ => .netRemoteRead
  | .netAck _ => .netAck
  | .netRefusal _ => .netRefusal
  | .redcopyBlock _ => .redcopyBlock
  | .ramoAtTarget _ => .ramoAtTarget
  | .ramoResponse _ _ _ _ _ => .ramoResponse
  | .remoteFlatAccess _ => .remoteFlatAccess
  | .remoteLoadResponse _ _ _ _ _ => .remoteLoadResponse
  | .remoteStoreAck _ _ _ _ => .remoteStoreAck
  | .eventArrival _ _ => .eventArrival
  | .clockGate _ => .clockGate
  | .flitHopResend _ => .flitHopResend
  | .eventParityError _ _ => .eventParityError
  | .eventDispatch _ _ _ => .eventDispatch
  | .repartition _ _ => .repartition
  | .chtabWrite _ _ _ => .chtabWrite
  | .genWrite _ _ _ _ => .genWrite
  | .stlchkWrite _ _ _ => .stlchkWrite
  | .fflagsAccess _ _ _ => .fflagsAccess
  | .asidWrite _ _ _ => .asidWrite
  | .trappairWrite _ _ => .trappairWrite
  | .ctxwinWrite _ _ _ => .ctxwinWrite
  | .regnWrite _ _ _ => .regnWrite
  | .csrWrite _ _ _ _ => .csrWrite
  | .trapNotice _ => .trapNotice
  | .serviceContextRestart _ _ _ => .serviceContextRestart
  | .tlbMissNotice _ _ => .tlbMissNotice
  | .parkResume _ _ => .parkResume
  | .coachSwap _ => .coachSwap
  | .coachSave _ _ _ => .coachSave
  | .coachReadmission _ _ => .coachReadmission
  | .recordArrival _ => .recordArrival
  | .ringReturn _ => .ringReturn
  | .bankRecordWithdrawn _ _ _ => .bankRecordWithdrawn
  | .recordStart _ _ => .recordStart
  | .coachAdmission _ _ => .coachAdmission
  | .placementStep _ => .placementStep
  | .predlExpiry _ _ => .predlExpiry
  | .gangReadyPost _ _ => .gangReadyPost
  | .gangReadyMessage _ _ _ => .gangReadyMessage
  | .gangDecision _ _ => .gangDecision
  | .sliceStart _ _ => .sliceStart
  | .sliceEnd _ => .sliceEnd
  | .stageWeightUpdate _ => .stageWeightUpdate
  | .contextAged _ _ => .contextAged
  | .activeMessage => .activeMessage
  | .logForward => .logForward
  | .hostSend _ _ _ => .hostSend
  | .hostOutside _ => .hostSend
  | .hostRdmaWrite _ _ _ _ => .hostRdmaWrite
  | .hostRdmaRead _ _ _ _ => .hostRdmaRead
  | .registerLaunch => .registerLaunch
  | .retireLaunch => .retireLaunch
  | .reqRead _ _ _ _ => .reqRead
  | .reqWrite _ _ _ _ => .reqWrite
  | .tokens _ _ => .tokens
  | .transientTimeout _ _ => .transientTimeout
  | .persistReq _ _ => .persistReq
  | .persistOn _ _ _ => .persistOn
  | .persistOff _ _ _ => .persistOff
  | .persistDone _ _ _ => .persistDone
  | .lineEviction _ _ => .lineEviction
  | .tierPromote _ _ _ _ _ => .tierPromote
  | .tierEvict _ _ _ _ _ => .tierEvict
  | .tierQuery _ _ _ _ _ => .tierQuery
  | .tileHeld _ => .tileHeld
  | .tileAbsent _ => .tileAbsent
  | .freeze _ _ => .freeze
  | .freezeAtTick _ => .freezeAtTick
  | .release _ _ => .release
  | .releaseAtTick _ => .releaseAtTick
  | .scanRead _ _ _ => .scanRead
  | .linkUnitReplay _ _ => .linkUnitReplay
  | .linkRetrain _ _ => .linkRetrain
  | .dieOutOfService _ => .dieOutOfService
  | .timeMessage _ _ => .timeMessage
  | .domainJoin _ _ => .domainJoin
  | .budgetPeriod => .budgetPeriod
  | .governorPeriod _ => .governorPeriod
  | .thermalThrottle _ => .thermalThrottle
  | .thermalTrip _ => .thermalTrip
  | .uncorrectableError _ _ _ => .uncorrectableError
  | .powerOn _ => .powerOn
  | .getVersion => .getVersion
  | .getCapabilities => .getCapabilities
  | .negotiateAlgorithms => .negotiateAlgorithms
  | .getDigests => .getDigests
  | .getCertificate _ _ => .getCertificate
  | .challenge _ => .challenge
  | .getMeasurements _ _ _ => .getMeasurements
  | .illegalInstruction _ => .illegalInstruction
  | .fetchFault => .fetchFault
  | .transientAttempt _ _ _ => .transientAttempt
  | .constrainedSequenceLimit _ _ => .constrainedSequenceLimit
  | .vdnRemap _ _ => .vdnRemap
  | .spareColumnSubstitution _ _ => .spareColumnSubstitution
  | .budgetSetting _ _ => .budgetSetting

end Sys2Proof.Machine
end

