-- ==== Sys2Proof/Machine/State.lean ====
section
/-!
DEFINITION. The state of a Borlet package as plain data (R9 to R27, R79, R118 and the rules each field names), why a
step can stop, and the state after reset. One package is modelled; other packages, the host and the board controller are
outside and speak through the agenda's operands and the lists of messages below (log 3, log 8).
-/

namespace Sys2Proof.Machine

/-- Why a step stops. -/
inductive Fault where
  /-- Raised by `step` while the dies are held in reset, after a thermal trip or a power-on that the package does not
  survive (R369, R372): nothing issues. Safe: the spec lets nothing run. -/
  | heldInReset
  deriving DecidableEq, Repr

/-- Why a meaning is refused. -/
inductive Refusal where
  /-- Raised by `exec` for an instruction whose meaning is not written. Safe. -/
  | notModelled (mnemonic : String)
  deriving DecidableEq, Repr

/-- The register files of a context that a latency applies to (R79, R88). -/
inductive RegFile where
  | x | v | m
  deriving DecidableEq, Repr

/-- A fixed-latency write that has not taken effect: at `eff` stall units (R84). -/
structure Pending where
  file : RegFile
  reg  : Nat
  eff  : Nat
  val  : VWord
  deriving DecidableEq, Repr

/-- What an access needs of a translation, in the order of the miss notice's code (R350). -/
inductive Access where
  | read | write | fetch | readWrite
  deriving DecidableEq, Repr

/-- What a waiting context waits for (R123, R177, R213, R221, R237, R241, R251, R253, R261, R272, R273, R277, R313, R332,
R350). -/
inductive Wait where
  | event (mask : Word)
  | notice
  | barrier (b : Nat) (phase : Bool)
  | tagAny (mask : Word)
  | tagAll (mask : Word)
  | counter (addr target : Word)
  | flits (n : Nat)
  | fifo
  | enginePlace
  | engineIdle
  | engineOwn (departed : Bool)
  | tlb (acc : Access) (va : Word)
  | line (h n : Nat) (write : Bool)
  | inval (tag : Word) (extent : Nat)
  | ring (k : Nat)
  | remote
  | fence (src : BitVec 6)
  deriving DecidableEq, Repr

/-- Whether a context issues, and if not, why (R323, R327, R333, R335, R343). -/
inductive Run where
  | idle | ready
  | waiting (w : Wait)
  | parked (va : Word) (since : Nat)
  | trapped | yielded | stopped | halted | killed
  deriving DecidableEq, Repr

/-- A bound stream (R165 to R173): the sampled descriptor, the cursor, the prefetched vectors by their number, which of them lie in a
generator window, those that another package refused to a fence (log 6), and the last vector delivered or accepted. A written vector is
stored at its writing instruction. -/
structure Stream where
  w0 : Word
  w1 : Word
  w2 : Word
  w3 : Word
  cursor : Nat := 0
  fetched : SMap VWord := []
  windowed : List Nat := []
  skipped : List Nat := []
  last : VWord := 0
  deriving DecidableEq, Repr

/-- How a failed request or operation is reported (R141, R236, R254). -/
inductive Failure where
  | access (va : Word)
  | refusal (pc : Word)
  | cimerr (tval : Word)
  deriving DecidableEq, Repr

/-- A fault that waits for an observing instruction, in program order of `ord` (R141, R236, R254). The path class is a
bit of R137; `store` marks a store to another package that a fence of R141 waits for. -/
structure Deferred where
  ord : Nat
  why : Failure
  tag : Option Nat
  counter : Nat
  cls : BitVec 6
  store : Bool
  deriving DecidableEq, Repr

/-- A store to another package that has not been acknowledged (R141, R277), or one element of a vector store: `ord` is the
id of the first element of its instruction, which issued at `pos`; `asid` and `va` are what was translated. -/
structure RemoteStore where
  id : Nat
  asid : BitVec 13
  va : Nat
  ord : Nat
  pos : Nat
  pc : Word
  deriving DecidableEq, Repr

/-- Registers and state of one context (R79, R118). Registers that are absent from a map read 0. `fetching` is the stream and the
vector of it that is being read from another package. -/
structure Ctx where
  x : SMap Word := []
  v : SMap VWord := []
  m : SMap MWord := []
  pc : Word := 0
  pos : Nat := 0
  pend : List Pending := []
  stall : Nat := 0
  fflags : BitVec 4 := 0
  stlchk : Bool := false
  sdout : Word := 0
  dryZero : Bool := false
  gens : SMap Word := []
  genEpoch : Word := 0
  sdesc : SMap Word := []
  streams : SMap Stream := []
  status : BitVec 3 := 0
  asid : BitVec 13 := 0
  cause : BitVec 6 := 0
  epc : Word := 0
  tval : Word := 0
  ctxwin : BitVec 17 := 0
  tile : BitVec 48 := 0
  lid : BitVec 16 := 0
  cls : BitVec 2 := 0
  cap : BitVec 2 := 0
  preq : Bool := false
  predl : BitVec 32 := 0
  predlEnd : Option Nat := none
  reserve : Option Nat := none
  run : Run := .idle
  branch : Option Word := none
  coach : Option Nat := none
  handlerOf : Option Nat := none
  drainSlot : Option Nat := none
  card : Option (Nat × Nat) := none
  arrivedAt : Option (Nat × Bool) := none
  released : Bool := false
  deferred : List Deferred := []
  stores : List RemoteStore := []
  storeIds : Nat := 1
  remoteVals : List Word := []
  remoteAsked : Bool := false
  askedVa : Nat := 0
  fetching : Option (Nat × Nat) := none
  resumeHalted : Option Bool := none
  parkNext : Option Word := none
  age : Nat := 0
  aged : Bool := false
  passed : Bool := false
  pageBack : Bool := false
  deriving DecidableEq, Repr

/-- An entry of an event queue (R183), with the sources of the packets merged into it (R185). -/
structure Entry where
  index : BitVec 16
  sum : BitVec 16
  channel : BitVec 6
  count : Nat
  seq : BitVec 8
  src : BitVec 23
  perr : Bool := false
  srcs : List Nat := []
  deriving DecidableEq, Repr

/-- A completion tag (R248). Arrived counts modulo 2^31. -/
structure Tag where
  armed : Bool := false
  ready : Bool := false
  fault : Bool := false
  expected : Nat := 0
  arrived : BitVec 31 := 0
  deriving DecidableEq, Repr

/-- The kinds of request that the command FIFO takes (R241). -/
inductive ReqKind where
  | copy | gather | scatadd | bin | get | put | redcopy
  deriving DecidableEq, Repr

/-- Where a request stands (R241, R254). -/
inductive ReqState where
  | queued | running
  | halted (va : Word)
  deriving DecidableEq, Repr

/-- A request of a command FIFO (R241 to R260). `dones` are the disjoint ranges (first, length) of bytes, elements or blocks already
performed, `sent` those already sent to a package, `delivered` the bytes delivered and `added` the part of them already added to the
counter; `keys` are the list entries once read; `seq` numbers the requests of the package as they issue; `gens` the descriptors of a
task that has ended (R301). One that has begun was started by an engine. A failed one still owes its counter the bytes that it delivered
(R253), and is over once each part it sent is answered: `nacks` counts the refusals. `moved` is the core and context under which it
issued, where its coach was readmitted elsewhere. `kept` holds, by byte of its own box, the bytes of a window's element that one of its
parts has cut (R281, R301). -/
structure Req where
  num : Nat
  kind : ReqKind
  ctx : Nat
  lid : BitVec 16
  asid : BitVec 13
  sup : Bool
  pc : Word
  ord : Nat
  w0 : Word
  w1 : Word
  w2 : Word
  w3 : Word
  reqId : Nat := 0
  state : ReqState := .queued
  dones : List (Nat × Nat) := []
  sent : List (Nat × Nat) := []
  delivered : Nat := 0
  added : Nat := 0
  keys : SMap Nat := []
  seq : Nat := 0
  gens : Option (SMap Word) := none
  owned : Bool := true
  begun : Bool := false
  failed : Bool := false
  nacks : Nat := 0
  moved : Option (Nat × Nat) := none
  kept : SMap Nat := []
  deriving DecidableEq, Repr

/-- A post on its way to a tag (R249). -/
structure Post where
  src : Nat
  req : Nat
  dst : Nat
  tag : Nat
  bytes : Nat
  deriving DecidableEq, Repr

/-- The seven engine registers (R218). -/
structure MxRegs where
  mgeo : Word := 0
  mfmt : Word := 0
  mbase : Word := 0
  mscp : Word := 0
  macc : Word := 0
  mdrh : Word := 0
  mdst : Word := 0
  deriving DecidableEq, Repr

/-- The operations of the engine queue (R221). -/
inductive MxKind where
  | mloadw | mmul | mdrain | mzero | scrub | evmac
  deriving DecidableEq, Repr

/-- A queued matrix operation with its captured registers (R221), operands, claimed stream vectors (a fetched value, or
an address still to be read; R227) and progress in groups or rows. The operations after the first four are those of EVMACs and
scrubs that wait for a place; `waits` says that the context of a scrub still waits for its place. `ended` tells apart the
operations of tasks of one context that have ended. -/
structure MxOp where
  kind : MxKind
  ctx : Nat
  lid : BitVec 16
  asid : BitVec 13
  sup : Bool
  coach : Nat
  tile : BitVec 48
  pc : Word
  ord : Nat
  regs : MxRegs
  a : Word
  b : Word
  claims : List (Option VWord × Word × BitVec 2) := []
  started : Bool := false
  done : Nat := 0
  gens : Option (SMap Word) := none
  owned : Bool := true
  waits : Bool := false
  ended : Nat := 0
  deriving DecidableEq, Repr

/-- A drain slot that holds a row (R230 to R232). -/
structure Slot where
  row : Nat
  n : Nat
  bytes : Nat
  off : Nat
  regs : MxRegs
  ctx : Nat
  lid : BitVec 16
  asid : BitVec 13
  sup : Bool
  coach : Nat
  tile : BitVec 48
  pc : Word
  ord : Nat
  queued : Bool
  handler : Option Nat := none
  ended : Bool := false
  owned : Bool := true
  deriving DecidableEq, Repr

/-- A TLB entry: the tag of R125 and the page-table entry of R346. -/
structure TlbEntry where
  asid : BitVec 13
  vpn : BitVec 38
  sub : Bool
  pte : Word
  deriving DecidableEq, Repr

/-- A task record with its companion word (R311), whether its ring slot held poison, whether it was passed over (R314), and when
it arrived. Of a job card's record: the address in an absent page where its words still lie (`late`), or that faulted
(`fault`; R209). -/
structure Record where
  pc : Word
  lid : BitVec 16
  cls : BitVec 2
  args : List Word
  cardCnt : Bool := false
  card : BitVec 2 := 0
  origin : BitVec 3
  tile : BitVec 48
  poisoned : Bool := false
  passed : Bool := false
  since : Nat := 0
  late : Option Word := none
  fault : Option Word := none
  deriving DecidableEq, Repr

/-- A used slot of an overflow ring (R313): the record's core, the slot's number, and what of the record its 128 bytes do not
hold. -/
structure RingSlot where
  core : Nat
  slot : Nat
  since : Nat
  late : Option Word
  fault : Option Word
  deriving DecidableEq, Repr

/-- One class of the issue scheduler (R323). -/
structure Turn where
  ptr : Nat := 0
  cnt : Nat := 0
  deriving DecidableEq, Repr

/-- Registers and storage of one core (R14, R19, R118). `orphans` are the unacknowledged stores to another package of tasks that have
ended, with their contexts (R126); `due` the channel-table entries that the last admission or end of a coach writes (R181); `mismatches`
the columns of the passes that fail once (R235). -/
structure Core where
  ctxs : SMap Ctx := []
  pad : List Host.Cell := []
  padPoison : List Nat := []
  queue : List Entry := []
  outFlits : List (BitVec 128) := []
  heldFlits : List (BitVec 128) := []
  sendQ : List Nat := []
  seqs : SMap (BitVec 8) := []
  chtab : SMap Word := []
  arrivals : List Record := []
  tags : SMap Tag := []
  reqs : List Req := []
  reqNum : Nat := 1
  netId : Nat := 1
  mx : MxRegs := {}
  bound : Option Nat := none
  boundLid : BitVec 16 := 0
  weights : SMap (BitVec 16) := []
  faultyCols : List Nat := []
  spares : SMap Nat := []
  mismatches : List Nat := []
  mxq : List MxOp := []
  slots : SMap Slot := []
  drainQ : List Nat := []
  tlb : List TlbEntry := []
  regn : SMap Word := []
  rr : SMap Turn := []
  inherits : SMap Nat := []
  weightsOf : SMap Nat := []
  tasksEnded : Nat := 0
  orphans : List (Nat × RemoteStore) := []
  due : List (Nat × Word) := []
  gated : Bool := false
  deriving DecidableEq, Repr

/-- A hardware barrier (R211). -/
structure Barrier where
  members : BitVec 32 := 0
  arrived : BitVec 32 := 0
  phase : Bool := false
  owner : BitVec 16 := 0
  deriving DecidableEq, Repr

/-- An active job card (R208, R209): its words, its issuer's identity, what is left to deal, the chunks of records given
to cores (core, next, end) and how many of its tasks have ended. -/
structure Card where
  w0 : Word
  w1 : Word
  w2 : Word
  w3 : Word
  lid : BitVec 16
  asid : BitVec 13
  tile : BitVec 48
  cls : BitVec 2
  coach : Nat
  next : Nat := 0
  chunks : List (Nat × Nat × Nat) := []
  ended : Nat := 0
  deriving DecidableEq, Repr

/-- A staged gang message (R319): the core, the record and its StartTick. -/
structure Staged where
  core : Nat
  tick : Nat
  record : Record
  deriving DecidableEq, Repr

/-- Where a coach stands (R315, R339, R342, R343). -/
inductive CoachState where
  | resident | preempted | saving | saved
  deriving DecidableEq, Repr

/-- What a save takes with a coach (R340, R341): its contexts by slot 8 * core + context, the scratchpads and granted
tags of its cores, its halted requests with their cores, its class, the save area's address, and whether it is
place-bound. -/
structure Saved where
  ctxs : SMap Ctx := []
  pads : SMap (List Host.Cell) := []
  padPoison : SMap (List Nat) := []
  tags : SMap (SMap Tag) := []
  halted : List (Nat × Req) := []
  cls : Nat := 0
  base : Nat := 0
  placeBound : Bool := false
  macroBound : Bool := false
  barBound : Bool := false
  deriving DecidableEq, Repr

/-- A coach of a cluster, resident or saved from it (R182, R242, R315, R341). One that is fresh was formed for a record and has
started no task yet. -/
structure Coach where
  lid : BitVec 16
  slot : Nat
  asid : BitVec 13
  kp : Word
  cap : BitVec 2
  grant : Word
  tile : BitVec 48
  predl : BitVec 32
  state : CoachState := .resident
  saved : Saved := {}
  since : Nat := 0
  fresh : Bool := false
  deriving DecidableEq, Repr

/-- An entry of the miss table (R350); a sub-page entry stands for a pair. -/
structure Miss where
  asid : BitVec 13
  vpn : BitVec 37
  sub : Bool
  deriving DecidableEq, Repr

/-- State of one cluster (R9, R118, R207 to R213, R312, R313, R330 to R337, R349, R350): `spill` is the spill buffer in front of the
overflow ring, whose slots in use are `ring`. `owed` are the counters (core, ASID, address) that the end of a killed card task still
adds 1 to (R209); `reservedBy` the launches that reserved the cluster (R304, R317). -/
structure Cluster where
  split : Nat := 0
  fuse : Bool := false
  trappair : Word := 0x8000800080008000#64
  parkn : BitVec 9 := 0x100#9
  parkt : BitVec 32 := 20000#32
  bars : SMap Barrier := []
  notices : List Word := []
  noticesInFlight : List Word := []
  tlb : List TlbEntry := []
  misses : List Miss := []
  cards : SMap Card := []
  coaches : List Coach := []
  staged : List Staged := []
  spill : List (Nat × Record) := []
  ring : List RingSlot := []
  ringBase : Option Nat := none
  ringSlots : Nat := 4096
  owed : List (Nat × BitVec 13 × Word) := []
  reservedBy : List (BitVec 16) := []
  deriving DecidableEq, Repr

/-- A channel entry of a launch (R304, R365). -/
structure ChanEntry where
  channel : Nat
  part : Nat
  maxRun : Nat
  cls : Nat
  pc : Word
  deriving DecidableEq, Repr

/-- A pipeline stage of a launch (R322, R365). -/
structure Stage where
  channel : Nat
  wMin : Nat
  wMax : Nat
  deriving DecidableEq, Repr

/-- The gang of a launch (R319, R365). -/
structure Gang where
  packages : Nat
  t0 : Nat
  period : Nat
  sliceLen : Nat
  deriving DecidableEq, Repr

/-- How far the placement of a launch is (R317, R318). -/
inductive Placement where
  | waiting
  | placing (next : Nat)
  | placed
  deriving DecidableEq, Repr

/-- A registered launch (R304) and its placement (R317): `raised` are the coaches (cluster, LID) on which its placement
raised PREQ. -/
structure Launch where
  asid : BitVec 13
  cls : BitVec 2
  cap : BitVec 2
  kp : Word
  split : Nat
  fuse : Bool
  grant : Word
  chans : List ChanEntry
  dies : BitVec 32
  reserve : SMap Nat
  predl : BitVec 32
  stages : List Stage
  gang : Option Gang
  placement : Placement := .waiting
  raised : List (Nat × BitVec 16) := []
  failed : Bool := false
  aborted : Bool := false
  deriving DecidableEq, Repr

/-- An entry of an error log (R375), and of one of Kind 8 the TVAL that R333 records with it. -/
structure LogEntry where
  w0 : Word
  w1 : Word
  w2 : Word
  w3 : Word
  tval : Word := 0
  deriving DecidableEq, Repr

/-- The error-log ring of a die (R375), oldest first. -/
structure DieLog where
  entries : List LogEntry := []
  overflow : Nat := 0
  deriving DecidableEq, Repr

/-- The signature algorithm of the SPDM responder (R373). -/
inductive SpdmSignature where
  | mlDsa87
  deriving DecidableEq, Repr

/-- The hash algorithm of the SPDM responder (R373). -/
inductive SpdmHash where
  | sha3_512
  deriving DecidableEq, Repr

/-- The answers of the SPDM responder (R373): its version, whether it takes secure sessions, and its algorithms among them. -/
inductive SpdmAnswer where
  | version (major minor : Nat) | capabilities (sessions : Bool) | algorithms (signature : SpdmSignature) (hash : SpdmHash) | digests | certificate | challengeAuth | measurements | error
  deriving DecidableEq, Repr

/-- What the package answers to the host, the board controller or an SPDM requester (R361 to R366, R373, R375). -/
inductive HostMsg where
  | log (e : LogEntry)
  | reply (w0 status : Word)
  | ack (qp : Nat)
  | readData (qp : Nat) (bytes : List Byte)
  | nak (qp : Nat)
  | rnr (qp : Nat)
  | scan (w : VWord)
  | spdm (a : SpdmAnswer) (bytes : List Byte)
  deriving DecidableEq, Repr

/-- A host-visible window (R362). -/
structure Window where
  rkey : Nat
  asid : BitVec 13
  va : Nat
  len : Nat
  rd : Bool
  wr : Bool
  deriving DecidableEq, Repr

/-- A record of the BX-IO endpoint queue (R363): the queue pair, or the sender of a PUT and its ASID (R309), and of a host's SENDs the
number of the one that carried it (R366). -/
structure EndpointRec where
  words : List Word
  qp : Nat
  put : Option (NetSrc × Nat) := none
  seq : Nat := 0
  deriving DecidableEq, Repr

/-- Tokens on their way (R271): destination, count, owner token, data. -/
structure TokMsg where
  dst : Nat
  count : Nat
  owner : Bool
  data : Bool
  deriving DecidableEq, Repr

/-- A transient or persistent request of a holder for a line (R272, R273). -/
structure TokReq where
  requester : Nat
  write : Bool
  attempts : Nat := 1
  since : Nat := 0
  persistent : Bool := false
  deriving DecidableEq, Repr

/-- A constrained LR/SC sequence that keeps a line's tokens at the holder where its LR was performed: its context, the CYCLE of its LR,
and how many instructions it may still hold (R135). -/
structure Keeper where
  holder : Nat
  core : Nat
  ctx : Nat
  since : Nat
  left : Nat := 16
  deriving DecidableEq, Repr

/-- Who waits for a line's tokens: a context, a request of a core, a message at BX-IO, a core's matrix engine or one of its drain
slots, a cluster's spill buffer, overflow ring, card or counter of ended card tasks, the tier manager, or a host's access. -/
inductive Waiter where
  | ctx (k c : Nat) | req (k num : Nat) | msg (m : NetMsg) | mx (k : Nat) | slot (k n : Nat)
  | spill (cl : Nat) | ring (cl : Nat) | card (cl n : Nat) | owed (cl : Nat) | tier | host
  deriving DecidableEq, Repr

/-- The tokens of one line (R268 to R275), and the messages on their way: `asks` are ReqRead and ReqWrite (holder, requester, write,
request number), `asked` PersistReq, `ons` PersistOn (holder, activation number, requester), `offs` PersistOff (holder, activation
number, requester) and `dones` PersistDone (requester, activation number). `wants` are the accesses that wait for tokens: the holder,
whether it writes, and who makes it; `held` the constrained sequences that keep the line's tokens; `l1` are the L1 portions, by core,
that keep a copy. Holders are 0 to 31 for the home slices of the dies by VDN, 32 for the home memory die and 33 for the atomic engine of
BX-IO. The line's data are in memory once; `valid` says which holders hold them. -/
structure Line where
  tokens : SMap Nat := [(32, 64)]
  owner : Option Nat := some 32
  valid : List Nat := [32]
  l1 : List Nat := []
  flying : List TokMsg := []
  reqs : List TokReq := []
  asks : List (Nat × Nat × Bool × Nat) := []
  asked : List Nat := []
  ons : List (Nat × Nat × Nat) := []
  offs : List (Nat × Nat × Nat) := []
  dones : List (Nat × Nat) := []
  wants : List (Nat × Bool × Waiter) := []
  reqNum : Nat := 0
  table : List Nat := []
  active : Option Nat := none
  actNum : BitVec 16 := 0
  seen : SMap (BitVec 16) := []
  obeying : SMap Nat := []
  held : List Keeper := []
  deriving DecidableEq, Repr

/-- States of a tile's home entry (R354). -/
inductive TileState where
  | promoting | held | evicting
  deriving DecidableEq, Repr

/-- A tier command that waits at a tile's home entry (R353, R354). -/
structure TierCmd where
  promote : Bool
  user : Nat
  vdn : Nat
  geo : Word
  cnt : Nat
  asid : Nat
  deriving DecidableEq, Repr

/-- A tile's home entry (R353, R354): its state, users, target die and geometry; the counters (address, ASID) of promotes
that complete when it is Held and of evicts that complete when it is Absent; and the commands that wait. -/
structure Tile where
  state : TileState
  users : List Nat
  vdn : Nat
  geo : Word
  promoting : List (Nat × Nat) := []
  evicting : List (Nat × Nat) := []
  waiting : List TierCmd := []
  deriving DecidableEq, Repr

/-- A link (R356, R357). -/
structure Link where
  fails : Nat := 0
  down : Bool := false
  retraining : Bool := false
  deriving DecidableEq, Repr

/-- Bytes that a write replaced and that accesses of the path classes `unto` may still find, as nothing has ordered the write before
them (R140, R263, R282, R283): the write's class, its number on the free counter, where it lies (a physical address, or the place of a
scratchpad's byte beyond package memory), its length, and the bytes as a number. -/
structure OldWrite where
  cls : BitVec 6
  unto : BitVec 6
  num : Nat
  loc : Nat
  n : Nat
  old : Nat
  deriving DecidableEq, Repr

/-- The state of the package. -/
structure State where
  mem : List Host.Cell := []
  poison : List Nat := []
  olds : List OldWrite := []
  cores : SMap Core := []
  clusters : SMap Cluster := []
  pkg : Nat := 0
  domain : List Nat := [0]
  farVdns : SMap Nat := []
  vdns : SMap Nat := (List.range 32).map fun v => (v, v)
  ptc : Nat := 0
  rate : Int := 0
  joined : Bool := false
  cycles : SMap Nat := []
  launches : SMap Launch := []
  layerKinds : SMap Bool := []
  classQ : List Nat := []
  records : List (Nat × Record) := []
  posts : List Post := []
  reqSeq : Nat := 0
  endpoint : List EndpointRec := []
  controls : List EndpointRec := []
  endSeq : Nat := 0
  dropped : Nat := 0
  registeredOnce : Bool := false
  windows : List Window := []
  hostHeld : List (Nat × Nat × Nat × List Byte) := []
  hostOut : List HostMsg := []
  logs : SMap DieLog := []
  forward : List LogEntry := []
  net : List NetMsg := []
  netOut : List (Nat × NetMsg) := []
  applied : List (NetSrc × Nat) := []
  flitsOut : List (BitVec 128) := []
  flitErrors : Nat := 0
  gangReady : List (Nat × Nat × Nat) := []
  gangOut : List (Nat × Nat × Nat) := []
  gangStart : List (Nat × Nat) := []
  slices : List (Nat × Nat) := []
  freezes : List (Nat × Nat) := []
  releases : List (Nat × Nat) := []
  frozenLids : List Nat := []
  lines : SMap Line := []
  tiles : SMap Tile := []
  tierWays : Nat := 2
  tierCounts : List (Nat × Nat) := []
  links : SMap Link := []
  budgets : List (BudgetItem × Nat) := []
  left : List (BudgetItem × Nat) := []
  throttled : Bool := false
  hot : Bool := false
  held : Bool := false
  inReset : List BootDie := []
  lost : List (Nat × Nat) := []
  corrected : Nat := 0
  resets : Nat := 0
  focus : Nat := 0
  active : Nat := 0
  turns : List Nat := []
  agenda : List Event := []
  free : Nat := 0
  deriving DecidableEq, Repr

/-- The state when the compute dies leave reset (R372): 32 enabled dies, VDN v on physical die v, package 0 of a domain of
its own (log 8), nothing listed in memory (log 1), no context running (R306, R315). The values the spec gives are the
defaults of the structures: TRAPPAIR (R330), PARKN and PARKT (R337); every other register is 0 (log 2). -/
def State.reset : State := {}

end Sys2Proof.Machine
end

