-- ==== Sys2Proof/Machine/Ops.lean ====
section
/-!
DEFINITION. The named operations over the state that every meaning is built from: the keys of cores and clusters, the
register files with their pending fixed-latency writes (R84 to R86), memory, scratchpads and tokens (R16, R266 to R275),
translation (R345 to R350), the error log (R375), and taking a trap and returning from one (R327 to R333, R127).
-/

namespace Sys2Proof.Machine

/-! ### Naming cores and clusters (R11, R21, R174) -/

/-- Key of the service cores: the first of them. -/
def svcBase : Nat := 8192
/-- Whether a core key names a service core. -/
def isSvc (k : Nat) : Bool := decide (svcBase ≤ k)
/-- The cluster key of a core. -/
def clusterOf (k : Nat) : Nat := if isSvc k then k - svcBase else k / 4
/-- The VDN of a core. -/
def vdnOf (k : Nat) : Nat := clusterOf k / 64
/-- The number of a core's cluster on its die. -/
def clIdx (k : Nat) : Nat := clusterOf k % 64
/-- The number of a compute core in its cluster; 0 for a service core (R21). -/
def coreIdx (k : Nat) : Nat := if isSvc k then 0 else k % 4
/-- The key of compute core j of a cluster. -/
def coreOf (cl j : Nat) : Nat := 4 * cl + j
/-- The key of a cluster's service core. -/
def svcOf (cl : Nat) : Nat := svcBase + cl
/-- Whether a cluster is wide: rows 1, 3 and 5 (R11). -/
def isWide (cl : Nat) : Bool := let row := cl % 64 / 8; row == 1 || row == 3 || row == 5
/-- Columns of the macro of a core (R12). -/
def macroCols (k : Nat) : Nat := if isWide (clusterOf k) then 256 else 1024
/-- A context slot of the cluster, 8 × core + context (R211). -/
def slotOf (k c : Nat) : Nat := 8 * coreIdx k + c
/-- HWID bits [15:0] of a context (R21). -/
def hwid16 (k c : Nat) : Nat := 2048 * vdnOf k + 32 * clIdx k + 8 * coreIdx k + c
/-- Bits [22:3] of the target word of a core of package p, in place (R174). -/
def targetWord (p k : Nat) : Nat := 65536 * p + 2048 * vdnOf k + 32 * clIdx k + 8 * coreIdx k
/-- The package that a target word names (R174). -/
def targetPkg (w : Word) : Nat := bits w 22 16
/-- The compute core that a target word names, as a key (R174). -/
def targetCore (w : Word) : Nat := bits w 15 3

/-! ### Parts of the state -/

/-- A context as reset leaves it: a service context has STATUS 7 (R119). -/
def Ctx.resetAt (k : Nat) : Ctx := if isSvc k then { status := 7, run := .halted } else {}

/-- Core k. -/
def State.core (s : State) (k : Nat) : Core := s.cores.get k {}
/-- The state with core k replaced. -/
def State.setCore (s : State) (k : Nat) (co : Core) : State := { s with cores := s.cores.set k co }
/-- The state with core k changed by f. -/
def State.updCore (s : State) (k : Nat) (f : Core → Core) : State := s.setCore k (f (s.core k))
/-- Cluster cl. -/
def State.cluster (s : State) (cl : Nat) : Cluster := s.clusters.get cl {}
/-- The state with cluster cl replaced. -/
def State.setCluster (s : State) (cl : Nat) (x : Cluster) : State := { s with clusters := s.clusters.set cl x }
/-- The state with cluster cl changed by f. -/
def State.updCluster (s : State) (cl : Nat) (f : Cluster → Cluster) : State := s.setCluster cl (f (s.cluster cl))
/-- Context c of core k. -/
def State.ctx (s : State) (k c : Nat) : Ctx := (s.core k).ctxs.get c (Ctx.resetAt k)
/-- The state with context c of core k replaced. -/
def State.setCtx (s : State) (k c : Nat) (x : Ctx) : State :=
  s.updCore k fun co => { co with ctxs := co.ctxs.set c x }
/-- The state with context c of core k changed by f. -/
def State.updCtx (s : State) (k c : Nat) (f : Ctx → Ctx) : State := s.setCtx k c (f (s.ctx k c))
/-- The issuing context. -/
def State.me (s : State) : Ctx := s.ctx s.focus s.active
/-- The state with the issuing context replaced. -/
def State.setMe (s : State) (x : Ctx) : State := s.setCtx s.focus s.active x
/-- The core of the issuing context. -/
def State.myCore (s : State) : Core := s.core s.focus
/-- The cluster of the issuing context. -/
def State.myCluster (s : State) : Cluster := s.cluster (clusterOf s.focus)
/-- How many contexts core k has (R14, R19). -/
def ctxCount (k : Nat) : Nat := if isSvc k then 2 else 8
/-- Whether a VDN is mapped (R22, R24). -/
def State.mapped (s : State) (vdn : Nat) : Bool := (s.vdns.find? vdn).isSome
/-- Whether a target word names a core that can be named: its package is in the domain and its VDN is mapped there (R24, R174). What
other packages map is what firmware has told, all 32 dies where it has told nothing (log 8). -/
def State.targetOk (s : State) (w : Word) : Bool :=
  if targetPkg w = s.pkg then s.mapped (bits w 15 11)
  else s.domain.contains (targetPkg w) && (s.farVdns.get (targetPkg w) (2 ^ 32 - 1)).testBit (bits w 15 11)
/-- The scratchpad size S of core k (R15). -/
def State.padSize (s : State) (k : Nat) : Nat := 16384 * (s.cluster (clusterOf k)).split
/-- Whether a key names a core of an enabled die. -/
def State.hasCore (s : State) (k : Nat) : Bool := decide (k < 10240) && s.mapped (vdnOf k)
/-- Whether a key and a number name a context. -/
def State.hasCtx (s : State) (k c : Nat) : Bool := s.hasCore k && decide (c < ctxCount k)
/-- Whether a key names a compute core. -/
def State.hasCompute (s : State) (k : Nat) : Bool := !isSvc k && s.hasCore k
/-- Whether a key names a cluster. -/
def State.hasCluster (s : State) (cl : Nat) : Bool := decide (cl < 2048) && s.mapped (cl / 64)
/-- Whether a context waits in WFE (R123, R343). -/
def Ctx.waitsEvent (x : Ctx) : Bool :=
  match x.run with
  | .waiting (.event _) => true
  | _ => false
/-- Whether an instruction of a context has issued and is under way: a remote access that is asked for or answered in part, or an
EVMAC or a scrub with its turn at the engine (R221, R277, R339). -/
def State.underWay (s : State) (k c : Nat) (x : Ctx) : Bool :=
  x.remoteAsked || !x.remoteVals.isEmpty ||
    (s.core k).mxq.any fun o => o.owned && o.ctx == c && (o.kind == .evmac || o.waits)
/-- Whether every task of a coach has stopped as R343 asks: none issues, waits in WFE, or has an instruction under way. -/
def State.allStopped (s : State) (cl : Nat) (c : Coach) : Bool :=
  ((List.range 4).map (coreOf cl)).all fun k => (s.core k).ctxs.all fun p =>
    p.2.coach != some c.slot || p.2.run == .idle
      || (p.2.run != .ready && !p.2.waitsEvent && !s.underWay k p.1 p.2)
/-- Whether the save of a coach has begun: its swap has, or every task that PREQ asked has stopped (R338, R339, R343). -/
def State.saveBegun (s : State) (cl : Nat) (c : Coach) : Bool :=
  c.state == .saving || (c.state == .preempted && s.allStopped cl c)
/-- Whether FREEZE holds a job, from the first reading of the PTC that has reached its tick (R344). -/
def State.jobFrozen (s : State) (lid : Nat) : Bool :=
  s.frozenLids.contains lid || s.freezes.any fun p => p.1 == lid && decide (p.2 ≤ s.ptc)
/-- Whether FREEZE holds the units of a job at core k; a save of its coach there that is in progress completes first (R344). -/
def State.frozenAt (s : State) (k lid : Nat) : Bool :=
  s.jobFrozen lid
    && !(s.cluster (clusterOf k)).coaches.any fun c => c.lid.toNat == lid && s.saveBegun (clusterOf k) c
/-- Whether FREEZE has stopped a context of core k: its task belongs to a frozen job (R344). -/
def State.isFrozen (s : State) (k : Nat) (x : Ctx) : Bool := x.coach.isSome && s.frozenAt k x.lid.toNat
/-- The next free value's number; `State.tick` uses it up. -/
def State.tick (s : State) : State := { s with free := s.free + 1 }

/-! ### Registers and pending writes (R79, R84 to R86) -/

/-- x[n]; x0 reads 0. -/
def Ctx.rx (c : Ctx) (n : Nat) : Word := if n = 0 then 0 else c.x.get n 0
/-- x[n] := v; a write to x0 is discarded. -/
def Ctx.setX (c : Ctx) (n : Nat) (v : Word) : Ctx := if n = 0 then c else { c with x := c.x.put 0 n v }
/-- v[n] as a register, streams apart. -/
def Ctx.rv (c : Ctx) (n : Nat) : VWord := c.v.get n 0
/-- v[n] := w. -/
def Ctx.setV (c : Ctx) (n : Nat) (w : VWord) : Ctx := { c with v := c.v.put 0 n w }
/-- m[n]; m0 reads 0xFFFF. -/
def Ctx.rm (c : Ctx) (n : Nat) : MWord := if n = 0 then 0xFFFF else c.m.get n 0
/-- m[n] := w; a write to m0 is discarded. -/
def Ctx.setM (c : Ctx) (n : Nat) (w : MWord) : Ctx := if n = 0 then c else { c with m := c.m.put 0 n w }

/-- Writes a register of a file at once; a value of 512 bits is cut to the file's width. -/
def Ctx.setReg (c : Ctx) (f : RegFile) (n : Nat) (w : VWord) : Ctx :=
  match f with
  | .x => c.setX n (w.setWidth 64)
  | .v => c.setV n w
  | .m => c.setM n (w.setWidth 16)

/-- Whether a file's register n discards writes (R79). -/
def discards (f : RegFile) (n : Nat) : Bool := n == 0 && f != .v

/-- A pending write takes effect. -/
def Ctx.applyPending (c : Ctx) (p : Pending) : Ctx := c.setReg p.file p.reg p.val

/-- Every pending write with eff ≤ t takes effect, in the order of eff and then of the program (R84). -/
def Ctx.retire (c : Ctx) (t : Nat) : Ctx :=
  let due := sortBy Pending.eff (c.pend.filter fun p => decide (p.eff ≤ t))
  due.foldl Ctx.applyPending { c with pend := c.pend.filter fun p => decide (t < p.eff) }

/-- Every pending write takes effect: the context stops issuing (R86). -/
def Ctx.flush (c : Ctx) : Ctx :=
  (sortBy Pending.eff c.pend).foldl Ctx.applyPending { c with pend := [] }

/-- Every pending write to one register takes effect (R85). -/
def Ctx.settle (c : Ctx) (f : RegFile) (n : Nat) : Ctx :=
  let hit (p : Pending) := p.file == f && p.reg == n
  (sortBy Pending.eff (c.pend.filter hit)).foldl Ctx.applyPending { c with pend := c.pend.filter fun p => !hit p }

/-- A write of fixed latency lat, to take effect at pos + lat (R84). -/
def Ctx.writeFixed (c : Ctx) (f : RegFile) (n lat : Nat) (w : VWord) : Ctx :=
  if discards f n then c else { c with pend := c.pend ++ [{ file := f, reg := n, eff := c.pos + lat, val := w }] }

/-- A write of variable latency: after every earlier fixed-latency write to the register, before every later read (R85). The earlier
writes are no longer pending, so that the check of R88 does not meet them: the spec does not say whether it still does (log 71). -/
def Ctx.writeVar (c : Ctx) (f : RegFile) (n : Nat) (w : VWord) : Ctx :=
  { c with pend := c.pend.filter fun p => !(p.file == f && p.reg == n) }.setReg f n w

/-- x[n] := v with fixed latency. -/
def Ctx.fixX (c : Ctx) (n lat : Nat) (v : Word) : Ctx := c.writeFixed .x n lat (v.setWidth 512)
/-- x[n] := v with variable latency. -/
def Ctx.varX (c : Ctx) (n : Nat) (v : Word) : Ctx := c.writeVar .x n (v.setWidth 512)

/-- The context after an instruction of stall count stl that continues at pc t (R82, R84). -/
def Ctx.goto (c : Ctx) (stl : Stall) (t : Word) : Ctx :=
  let c' := { c with pos := c.pos + stl.toNat + 1 }.retire (c.pos + stl.toNat + 1)
  { c' with stall := stl.toNat, pc := t, run := .ready, branch := none, arrivedAt := none, released := false,
            remoteVals := [], remoteAsked := false, fetching := none, passed := false, age := 0, aged := false, resumeHalted := c.resumeHalted.map fun _ => true }

/-- The context after an instruction that continues at pc + 4. -/
def Ctx.next (c : Ctx) (stl : Stall) : Ctx := c.goto stl (c.pc + 4)

/-- The issuing context, changed by f, continues at pc + 4. -/
def State.done (s : State) (stl : Stall) (f : Ctx → Ctx) : State := s.setMe ((f s.me).next stl)

/-- The issuing context waits for w at its instruction. -/
def State.wait (s : State) (w : Wait) : State := s.setMe { s.me with run := .waiting w }

/-! ### The error log (R375) -/

/-- The ring with an entry more: the newest overwrites the oldest of 256. -/
def DieLog.add (d : DieLog) (e : LogEntry) : DieLog :=
  if d.entries.length < 256 then { d with entries := d.entries ++ [e] }
  else { entries := d.entries.drop 1 ++ [e], overflow := d.overflow + 1 }

/-- Logs an event of a kind on a die of class cls (0 compute, 1 BX-M, 2 BX-IO, 3 BX-T) and number unit (the VDN, or the
number of a BX-M): w1 names the launch and the logging unit. Every entry also waits to be forwarded to the host. One of Kind 8 also
records a TVAL. -/
def State.logOn (s : State) (cls unit kind lid target : Nat) (w2 w3 : Word) (tval : Word := 0) : State :=
  let e : LogEntry :=
    { w0 := BitVec.ofNat 64 s.ptc
      w1 := BitVec.ofNat 64 (kind * 2 ^ 56 + cls * 2 ^ 53 + (if cls = 1 then unit else 0) * 2 ^ 51 + lid * 2 ^ 32 + target)
      w2 := w2, w3 := w3, tval := tval }
  let key := 64 * cls + unit
  { s with logs := s.logs.set key ((s.logs.get key {}).add e), forward := s.forward ++ [e] }

/-- Logs an event at core k. -/
def State.logCore (s : State) (k kind : Nat) (lid : BitVec 16) (w2 w3 : Word) (tval : Word := 0) : State :=
  s.logOn 0 (vdnOf k) kind lid.toNat (targetWord s.pkg k) w2 w3 tval

/-- Logs an event at BX-IO. -/
def State.logIo (s : State) (kind lid : Nat) (w2 w3 : Word) : State :=
  s.logOn 2 0 kind lid (65536 * s.pkg) w2 w3

/-! ### Traps (R327 to R333) -/

/-- Whether a context keeps a line's tokens for a constrained LR/SC sequence (R135). -/
def Line.keptBy (l : Line) (k c : Nat) : Bool := l.held.any fun p => p.core == k && p.ctx == c

/-- Context c of core k keeps the tokens of no line any longer (R135). -/
def State.letGo (s : State) (k c : Nat) : State :=
  { s with lines := s.lines.mapVal fun _ l =>
      if l.keptBy k c then { l with held := l.held.filter fun p => !(p.core == k && p.ctx == c) } else l }

/-- The cluster of the buddy of core k: its entry of TRAPPAIR (R330). -/
def State.buddyOf (s : State) (k : Nat) : Nat :=
  let e := ((s.cluster (clusterOf k)).trappair >>> (16 * coreIdx k)).toNat % 65536
  if e / 32768 = 1 then clusterOf k else 64 * (e / 64 % 32) + e % 64

/-- A trap notice (R331). -/
def noticeWord (code : Nat) (lid : BitVec 16) (k c : Nat) : Word :=
  BitVec.ofNat 64 (code * 2 ^ 48 + lid.toNat * 2 ^ 32 + hwid16 k c)

/-- A context as a trap leaves it: pending writes applied, CAUSE, EPC and TVAL written, frozen, its reservation lost
(R86, R135, R327). -/
def Ctx.trapped (c : Ctx) (svc : Bool) (code : Nat) (deferred : Bool) (epc tval : Word) : Ctx :=
  { c.flush with
    cause := BitVec.ofNat 6 ((if deferred then 32 else 0) + code)
    epc := epc &&& ~~~(3 : Word)
    tval := tval
    run := if svc then .halted else .trapped
    resumeHalted := c.resumeHalted.map fun _ => true
    reserve := none, remoteVals := [], remoteAsked := false, fetching := none, branch := none, arrivedAt := none
    released := false }

/-- Context c of core k takes a trap. A compute-core context sends a notice to its buddy; a service-core context halts and
is logged with CAUSE, EPC and TVAL (R331, R333, R375; log 76). -/
def State.trapCtx (s : State) (k c code : Nat) (deferred : Bool) (epc tval : Word) : State :=
  let x := s.ctx k c
  let s := (s.letGo k c).setCtx k c (x.trapped (isSvc k) code deferred epc tval)
  if isSvc k then s.logCore k 8 0 (BitVec.ofNat 64 ((if deferred then 32 else 0) + code)) (epc &&& ~~~(3 : Word)) tval
  else s.updCluster (s.buddyOf k) fun cl =>
    { cl with noticesInFlight := cl.noticesInFlight ++ [noticeWord code x.lid k c] }

/-- The issuing context traps at its instruction. -/
def State.trap (s : State) (code : Nat) (tval : Word) : State := s.trapCtx s.focus s.active code false s.me.pc tval

/-- The issuing context reports a deferred fault at its instruction (R141, R236, R254). -/
def State.trapLate (s : State) (code : Nat) (tval : Word) : State := s.trapCtx s.focus s.active code true s.me.pc tval

/-- The illegal-instruction trap of an instruction (R76, R328). -/
def State.illegal (s : State) (i : Instr) : State := s.trap 1 ((encode i).setWidth 64)

/-- The privilege-violation trap of an instruction (R78, R328). -/
def State.privilege (s : State) (i : Instr) : State := s.trap 4 ((encode i).setWidth 64)

/-- A context frozen by a trap continues at its EPC; its halted requests resume before its next instruction (R127, R336). -/
def Ctx.resumed (c : Ctx) : Ctx :=
  { c with run := .ready, pc := c.epc, branch := none, parkNext := none, resumeHalted := some true }

/-- Whether a context issues with supervisor privilege (R119). -/
def Ctx.sup (c : Ctx) : Bool := c.status.getLsbD 0

/-- A task parks: pending writes applied, the reservation lost, no trap register written (R335, R135). -/
def State.parkCtx (s : State) (k c : Nat) (va : Word) : State :=
  (s.letGo k c).updCtx k c fun x =>
    { x.flush with run := .parked va s.ptc, pageBack := false, reserve := none, remoteVals := [], remoteAsked := false, fetching := none, branch := none,
                   streams := x.streams.mapVal fun _ st => { st with fetched := [], windowed := [], skipped := [] } }

/-- The issuing task parks at its instruction. -/
def State.park (s : State) (va : Word) : State := s.parkCtx s.focus s.active va

/-! ### Bytes in memory and scratchpads (R4, R16, R370) -/

/-- What a byte that nothing has written reads as (log 1). -/
def blankByte : Byte := 0

/-- The byte at an address. -/
def cell (m : List Host.Cell) (a : Nat) : Byte := SMap.get m a blankByte

/-- Whether cells are in canonical form: addresses rising, no blank byte listed. -/
def cellsWf (m : List Host.Cell) : Bool := SMap.wf blankByte m

/-- The number held by n bytes from an address, least significant first (R4). -/
def readCells (m : List Host.Cell) (a : Nat) : Nat → Nat
  | 0 => 0
  | n + 1 => (cell m a).toNat + 256 * readCells m (a + 1) n

/-- Writes the n low bytes of a number from an address, least significant first (R4). -/
def writeCells (m : List Host.Cell) (a : Nat) : Nat → Nat → List Host.Cell
  | 0, _ => m
  | n + 1, v => writeCells (SMap.put blankByte m a (BitVec.ofNat 8 v)) (a + 1) n (v / 256)

/-- The 64-bit words that n bytes from a lie in, by number. -/
def wordsOf (a n : Nat) : List Nat := (List.range ((a + n + 7) / 8 - a / 8)).map (· + a / 8)

/-- Whether one of n bytes from a lies in a poisoned word (R370). -/
def poisonedAt (p : List Nat) (a n : Nat) : Bool := (wordsOf a n).any p.contains

/-- The poison left by a write of n bytes from a: a word written whole is clean (R370). -/
def unpoison (p : List Nat) (a n : Nat) : List Nat := p.filter fun w => !(decide (a ≤ 8 * w) && decide (8 * w + 8 ≤ a + n))

/-! ### The path classes, and bytes that a write replaced (R137, R263, R282, R283) -/

/-- Bit of a path class in a class mask (R137). -/
def clsLS : BitVec 6 := 1
/-- CP (R137). -/
def clsCP : BitVec 6 := 2
/-- MX (R137). -/
def clsMX : BitVec 6 := 4
/-- GS (R137). -/
def clsGS : BitVec 6 := 8
/-- NT (R137). -/
def clsNT : BitVec 6 := 16
/-- EV (R137). -/
def clsEV : BitVec 6 := 32
/-- The classes whose accesses engines make. -/
def engineClasses : List (BitVec 6) := [clsCP, clsMX, clsGS, clsNT]
/-- Their mask. -/
def clsEngines : BitVec 6 := clsCP ||| clsMX ||| clsGS ||| clsNT

/-- Bytes of package memory: 3,072 GB (R1, R5). -/
def memorySize : Nat := 3072 * 10 ^ 9
/-- Where core k's scratchpad lies among the places of old bytes: beyond package memory. -/
def padLoc (k : Nat) : Nat := memorySize + 131072 * k

/-- Whether accesses of a class still find old bytes, at a value of the free counter: for a time that nothing fixes, and then never
again (R279, R280; log 6). -/
def OldWrite.shows (o : OldWrite) (free : Nat) (cls : BitVec 6) : Bool :=
  (o.unto &&& cls) != 0 && decide (free < o.num + Config.oldFor o.num cls.toNat)

/-- Old bytes that lie apart from n bytes at a place: the write there ends the others. -/
def oldsApart (l : List OldWrite) (loc n : Nat) : List OldWrite := l.filter fun o => !overlaps o.loc o.n loc n

/-- What accesses of the classes unto may still find after a write of class cls over n bytes at a place: `old`, or what they may find
there already where the same write was made before. -/
def State.oldOf (s : State) (cls unto : BitVec 6) (loc n old : Nat) : OldWrite :=
  (s.olds.find? fun o => o.cls == cls && o.unto == unto && o.loc == loc && o.n == n
      && engineClasses.all fun c => (unto &&& c) == 0 || o.shows s.free c).getD
    { cls := cls, unto := unto, num := s.free, loc := loc, n := n, old := old }

/-- Old bytes that accesses may still find from now on, unless they held poison. -/
def State.aged (s : State) (o : OldWrite) (bad : Bool) : State := { s with olds := if bad then s.olds else s.olds ++ [o] }

/-- An XFENCE from some classes to others: no access of dst finds what a write of src replaced (R140). -/
def State.ordered (s : State) (src dst : BitVec 6) : State :=
  { s with olds := (s.olds.map fun o => if (o.cls &&& src) = 0 then o else { o with unto := o.unto &&& ~~~dst }).filter fun o => o.unto != 0 }

/-- The old byte that an access of a class finds at a place. -/
def State.oldByte (s : State) (cls : BitVec 6) (loc : Nat) : Option Nat :=
  (s.olds.find? fun o => decide (o.loc ≤ loc) && decide (loc < o.loc + o.n) && o.shows s.free cls).map fun o =>
    o.old / 256 ^ (loc - o.loc) % 256

/-- The number held by n bytes from an address of cells that lie at base, as an access of a class finds them. -/
def State.seenCells (s : State) (cls : BitVec 6) (base : Nat) (m : List Host.Cell) (a : Nat) : Nat → Nat
  | 0 => 0
  | n + 1 => (s.oldByte cls (base + a)).getD (cell m a).toNat + 256 * State.seenCells s cls base m (a + 1) n

/-- n bytes of package memory as an access of a class finds them. -/
def State.memSeen (s : State) (cls : BitVec 6) (a n : Nat) : Nat := s.seenCells cls 0 s.mem a n

/-- n bytes of core k's scratchpad as an access of a class finds them. -/
def State.padSeen (s : State) (cls : BitVec 6) (k off n : Nat) : Nat := s.seenCells cls (padLoc k) (s.core k).pad off n

/-- Reads n bytes of core k's scratchpad, or of a service core's memory. -/
def State.padRead (s : State) (k off n : Nat) : Nat := readCells (s.core k).pad off n

/-- Writes n bytes of core k's scratchpad, or of a service core's memory. -/
def State.padWrite (s : State) (k off n v : Nat) : State :=
  { s.updCore k fun co => { co with pad := writeCells co.pad off n v, padPoison := unpoison co.padPoison off n } with
    olds := oldsApart s.olds (padLoc k + off) n }

/-- Reads n bytes of package memory. -/
def State.memRead (s : State) (a n : Nat) : Nat := readCells s.mem a n

/-! ### Tokens (R268 to R275) -/

/-- The home memory die as a token holder (R269). -/
def homeHolder : Nat := 32
/-- The atomic engine of BX-IO as a token holder (R269). -/
def ioHolder : Nat := 33
/-- The line of a physical address. -/
def lineOf (a : Nat) : Nat := a / 128
/-- The tokens of a line. -/
def State.line (s : State) (l : Nat) : Line := s.lines.get l {}
/-- The tokens that a holder has. -/
def Line.count (l : Line) (h : Nat) : Nat := l.tokens.get h 0

/-- Tokens reach a holder (R270). -/
def Line.receive (l : Line) (m : TokMsg) : Line :=
  { l with tokens := l.tokens.put 0 m.dst (l.count m.dst + m.count)
           owner := if m.owner then some m.dst else l.owner
           valid := if m.data && !l.valid.contains m.dst then m.dst :: l.valid else l.valid }

/-- A holder has all 64 tokens and the only valid copy: it may write the line (R270). Every L1 copy is invalid but that of a
fused portion that is being written through (R275). -/
def Line.own (l : Line) (h : Nat) (thru : Option Nat := none) : Line :=
  { l with tokens := [(h, 64)], owner := some h, valid := [h], l1 := l.l1.filter fun k => thru == some k, flying := [] }

/-- A holder has a token and valid data: it may read the line (R270, R272). It takes one from the owner token's holder; where that token is
on its way, its message comes to the reader. -/
def Line.shareAt (l : Line) (h : Nat) : Line :=
  if decide (0 < l.count h) && l.valid.contains h then l
  else match l.owner with
    | none =>
      match l.flying.findIdx? TokMsg.owner with
      | none => l
      | some i => match l.flying[i]? with
        | none => l
        | some m => { l with flying := l.flying.eraseIdx i }.receive { m with dst := h }
    | some o =>
      if o = h then { l with valid := h :: l.valid }
      else if 1 < l.count o then
        { l with tokens := (l.tokens.put 0 o (l.count o - 1)).put 0 h (l.count h + 1), valid := h :: l.valid }
      else { l with tokens := (l.tokens.put 0 o 0).put 0 h (l.count h + 1), owner := some h,
                    valid := h :: l.valid.filter (· != o), l1 := l.l1.filter fun k => vdnOf k != o }

/-- A holder reads the line, and an L1 portion of its die, if any, may keep a copy (R270, R275). -/
def Line.share (l : Line) (h : Nat) (portion : Option Nat) : Line :=
  let l := l.shareAt h
  match portion with
  | none => l
  | some k => if l.l1.contains k then l else { l with l1 := k :: l.l1 }

/-- Whether a holder has what an access of its die needs of a line (R270). -/
def Line.satisfied (l : Line) (h : Nat) (write : Bool) : Bool :=
  if write then l.count h == 64 else decide (0 < l.count h) && l.valid.contains h

/-- The transient requests that are satisfied are over (R272). -/
def Line.settle (l : Line) : Line :=
  { l with reqs := l.reqs.filter fun q => q.persistent || !l.satisfied q.requester q.write }

/-- The active requester, once it knows that it is, has what it asked for and waits with no access, sends PersistDone
(R271, R273). -/
def Line.finish (l : Line) (r : Nat) : Line :=
  if l.obeying.find? r = some r ∧ l.reqs.any fun q =>
      q.requester == r && q.persistent && l.satisfied r q.write && !l.wants.any fun w => w.1 == r && w.2.1 == q.write then
    { l with reqs := l.reqs.filter fun q => q.requester != r, dones := l.dones ++ [(r, (l.seen.get r 0).toNat)] }
  else l

/-- A holder has performed an access: none of its accesses that asked for no more waits (R273). -/
def Line.accessed (l : Line) (h : Nat) (write : Bool) : Line :=
  ({ l with wants := l.wants.filter fun p => !(p.1 == h && (write || !p.2.1)) }.settle).finish h

/-- Whether an access of a holder waits for tokens: it lacks them, and they go to the requester of a persistent request, or a
constrained LR/SC sequence of another holder keeps them, but for the sequence's own context (R135, R272, R273). -/
def Line.blocked (l : Line) (h : Nat) (write : Bool) (who : Option (Nat × Nat) := none) : Bool :=
  !l.satisfied h write &&
    ((l.active.map fun r => r != h).getD false || (l.obeying.any fun p => p.2 != h)
      || l.held.any fun k => k.holder != h && who != some (k.core, k.ctx) && (write || l.owner == some k.holder))

/-- The home slice of a line on a die (R266). -/
def homeSlice (line : Nat) : Nat :=
  let f (i : Nat) := line / 256 ^ i % 256
  f 0 ^^^ f 1 ^^^ f 2 ^^^ f 3 ^^^ f 4 ^^^ f 5 % 32

/-- How many lines a slice holds: 16 MiB of 128-byte lines over 256 slices, 8 ways (R1). -/
def sliceLines : Nat := 16 * 2 ^ 20 / 256 / 128

/-- Whether a die's home slice of a line has room for no other line (R1; log 69). -/
def State.sliceFull (s : State) (h n : Nat) : Bool :=
  decide (sliceLines ≤ s.lines.countP fun p => homeSlice p.1 == homeSlice n && p.2.count h != 0)

/-- A holder without tokens of a line: its copy and the read copies of its die's L1s are invalid (R270, R275). -/
def Line.drop (l : Line) (h : Nat) : Line :=
  { l with tokens := l.tokens.put 0 h 0, valid := l.valid.filter (· != h), l1 := l.l1.filter fun k => vdnOf k != h }

/-- A holder sends every token it has of a line, with data when the owner token goes (R270, R272). -/
def Line.sendAll (l : Line) (h dst : Nat) : Line :=
  if l.count h = 0 ∨ h = dst then l
  else
    let own := l.owner == some h
    { (l.drop h) with
      owner := if own then none else l.owner
      flying := l.flying ++ [{ dst := dst, count := l.count h, owner := own, data := own }] }

/-- A holder's tokens of a line go to the home, with its data; a home that obeys a persistent request sends them on (R270, R273, R276). -/
def Line.goHome (l : Line) (h : Nat) : Line :=
  let own := l.owner == some h
  if l.count h = 0 then l
  else match l.obeying.find? homeHolder with
    | some r => l.sendAll h r
    | none => (l.drop h).receive { dst := homeHolder, count := l.count h, owner := own, data := own }

/-- Whether a constrained LR/SC sequence keeps the tokens of a holder (R135, R272). -/
def Line.kept (l : Line) (h : Nat) : Bool := l.held.any fun p => p.holder == h

/-- Len0 of a box geometry (R245). -/
def boxLen0 (w2 : Word) : Nat := bits w2 45 32
/-- Count1. -/
def boxCount1 (w2 : Word) : Nat := bits w2 55 46
/-- Count2. -/
def boxCount2 (w2 : Word) : Nat := bits w2 63 56
/-- Stride1. -/
def boxStride1 (w2 : Word) : Nat := bits w2 31 16
/-- 64 × Stride2. -/
def boxStride2 (w2 : Word) : Nat := 64 * bits w2 15 0

/-- Whether a tile's box reaches a line (R352). -/
def tileHas (base : Nat) (geo : Word) (line : Nat) : Bool :=
  (List.range (boxCount2 geo)).any fun i2 => (List.range (boxCount1 geo)).any fun i1 =>
    overlaps (base + boxStride1 geo * i1 + boxStride2 geo * i2) (boxLen0 geo) (128 * line) 128

/-- Whether a line is pinned in the slices of a die (R352). -/
def State.pinned (s : State) (h line : Nat) : Bool :=
  s.tiles.any fun t => t.2.state == .held && t.2.vdn == h && tileHas t.1 t.2.geo line

/-- Whether a die's slice may not evict a line: a constrained sequence keeps its tokens, a tile pins it, or its home sends it tokens for
its own persistent request (R272, R273, R352). -/
def State.stays (s : State) (h n : Nat) (l : Line) : Bool := l.kept h || s.pinned h n || l.obeying.find? homeHolder == some h

/-- The lines, but for some, that a die's home slice of line n may evict (R270, R352). -/
def State.victims (s : State) (h n : Nat) (but : List Nat) : List Nat :=
  (s.lines.filter fun p => p.1 != n && !but.contains p.1 && homeSlice p.1 == homeSlice n && p.2.count h != 0
    && !s.stays h p.1 p.2).map Prod.fst

/-- The lines when the slice of holder h has made room for line n: a full one evicts another, which the spec does not name (R1, R270; log
69). -/
def State.roomLines (s : State) (h n : Nat) (but : List Nat) : SMap Line :=
  if h < 32 ∧ (s.line n).count h = 0 ∧ s.sliceFull h n then
    let v := s.victims h n but
    match v[Config.sliceVictim s.free % v.length]? with
    | some m => s.lines.set m ((s.line m).goHome h)
    | none => s.lines
  else s.lines

/-- Line n changed by f, as holder h takes tokens of it. -/
def State.takeLine (s : State) (h n : Nat) (f : Line → Line) (but : List Nat := []) : State :=
  { s with lines := (s.roomLines h n but).set n (f (s.line n)) }

/-- Whether the slice of holder h can take no tokens of line n: it has none of them, and it is full of lines that it may not evict. -/
def State.noRoom (s : State) (h n : Nat) : Bool :=
  decide (h < 32) && (s.line n).count h == 0 && s.sliceFull h n && (s.victims h n []).isEmpty

/-- Whether an access of holder h at line n waits: for tokens, or while its full slice can evict no line. -/
def State.lineBlocked (s : State) (h n : Nat) (write : Bool) (who : Option (Nat × Nat) := none) : Bool :=
  (s.line n).blocked h write who || s.noRoom h n

/-- An access of holder h waits at line n. -/
def State.want (s : State) (h n : Nat) (write : Bool) (w : Waiter) : State :=
  let l := s.line n
  if l.wants.contains (h, write, w) then s
  else { s with lines := s.lines.set n { l with wants := l.wants ++ [(h, write, w)] } }

/-- Whether a holder can have the tokens of the lines at some addresses (R272, R277). -/
def State.tokensHeld (s : State) (h : Nat) (write : Bool) (pas : List Nat) : Bool :=
  pas.all fun pa => !s.lineBlocked h (lineOf pa) write

/-- It waits for those of the first line that it cannot have. -/
def State.wantTokens (s : State) (h : Nat) (write : Bool) (pas : List Nat) (w : Waiter) : State :=
  ((pas.find? fun pa => s.lineBlocked h (lineOf pa) write).map fun pa => s.want h (lineOf pa) write w).getD s

/-- The L1 portion in which core k's accesses of an address are cached: its own, or in a fused cluster that of core PA[8:7]; a
service core has no L1 (R17, R264). -/
def State.l1Of (s : State) (k a : Nat) : Option Nat :=
  if isSvc k then none
  else if (s.cluster (clusterOf k)).fuse then some (coreOf (clusterOf k) (a / 128 % 4)) else some k

/-- Whether an L1 portion can hold no further line: it has 128 KiB less the scratchpad, in lines of 128 bytes (R1, R15). -/
def State.l1Full (s : State) (p : Nat) : Bool :=
  decide ((131072 - s.padSize p) / 128 ≤ s.lines.countP fun q => q.2.l1.contains p)

/-- The L1 portion that keeps a copy of the line that core k reads, where it has room (R15, R17, R264; which line an L1 gives up for another
no program sees, R265). -/
def State.l1For (s : State) (k a : Nat) : Option Nat := (s.l1Of k a).filter fun p => !s.l1Full p

/-- The L1 portions of a cluster's cores keep no copy: its split or its fuse changes (R15, R17). -/
def State.dropL1 (s : State) (cl : Nat) : State :=
  { s with lines := s.lines.mapVal fun _ l => { l with l1 := l.l1.filter fun k => clusterOf k != cl } }

/-- The L1 portion that a store of core k is written through, where that keeps its copy (R17, R275). -/
def State.thruOf (s : State) (k a : Nat) : Option Nat :=
  if (s.cluster (clusterOf k)).fuse then s.l1Of k a else none

/-- A read of core k's die at a line takes its token (R270). -/
def State.tokenRead (s : State) (k a : Nat) : State :=
  s.takeLine (vdnOf k) (lineOf a) fun l => (l.share (vdnOf k) (s.l1For k a)).accessed (vdnOf k) false

/-- Reads by holder h at physical addresses take a token of each line: a slice for an engine, or BX-IO (R269, R270). -/
def State.holderReads (s : State) (h : Nat) (pas : List Nat) : State :=
  pas.foldl (fun s a => s.takeLine h (lineOf a) fun l => (l.shareAt h).accessed h false) s

/-- A write by holder h at a line holds all its tokens (R270, R275). -/
def State.tokenWrite (s : State) (h a : Nat) (thru : Option Nat := none) : State :=
  s.takeLine h (lineOf a) fun l => (l.own h thru).accessed h true

/-! ### Reservations (R134, R135) -/

/-- A context without a reservation on a line. -/
def Ctx.loseLine (c : Ctx) (l : Nat) : Ctx := if c.reserve = some l then { c with reserve := none } else c

/-- Every context but one (named by core and number) loses its reservation on a line (R135). -/
def State.breakLine (s : State) (l : Nat) (but : Option (Nat × Nat)) : State :=
  { s with cores := s.cores.mapVal fun k co =>
      { co with ctxs := co.ctxs.mapVal fun c x => if but = some (k, c) then x else x.loseLine l } }

/-- A write of n bytes to package memory by holder h, on behalf of a context or of an engine (none), through an L1 portion that
keeps its copy or through none: the bytes, the poison of whole words, the reservations of others, the tokens (R135, R270,
R275, R370). -/
def State.memWrite (s : State) (h : Nat) (who : Option (Nat × Nat)) (a n v : Nat) (thru : Option Nat := none) : State :=
  ({ s with mem := writeCells s.mem a n v, poison := unpoison s.poison a n, olds := oldsApart s.olds a n }.breakLine (lineOf a) who).tokenWrite h a thru

/-- A write of class LS by the issuing context: requests and matrix operations that no XFENCE orders after it may still find what it
replaced (R263, R282). -/
def State.lsWrite (s : State) (h : Nat) (a n v : Nat) (thru : Option Nat := none) : State :=
  (s.memWrite h (some (s.focus, s.active)) a n v thru).aged (s.oldOf clsLS clsEngines a n (s.memRead a n)) (poisonedAt s.poison a n)

/-- The same at core k's scratchpad, or a service core's memory. -/
def State.lsPad (s : State) (k off n v : Nat) : State :=
  (s.padWrite k off n v).aged (s.oldOf clsLS clsEngines (padLoc k + off) n (s.padRead k off n)) (poisonedAt (s.core k).padPoison off n)

/-! ### Translation (R101, R345 to R350) -/

/-- Whether an address lies in an enabled region of a core (R345). -/
def Core.inRegion (co : Core) (va : Nat) : Bool :=
  (List.range 4).any fun n =>
    let r := co.regn.get n 0
    let base := 2097152 * bits r 47 21
    bit r 63 && decide (base ≤ va) && decide (va < base + 2097152 * bits r 62 48)

/-- Virtual page bits [47:10] of an address for a granule (R125). -/
def vpnOf (va : Nat) (sub : Bool) : BitVec 38 := BitVec.ofNat 38 (if sub then va / 1024 else va / 2097152 * 2048)

/-- The entry of a TLB with a tag. -/
def tlbFind (l : List TlbEntry) (asid : BitVec 13) (vpn : BitVec 38) (sub : Bool) : Option Word :=
  (l.find? fun e => e.asid == asid && e.vpn == vpn && e.sub == sub).map TlbEntry.pte

/-- A TLB of cap entries with an entry more: it replaces the entry of its tag, or some entry of a full TLB (R349). -/
def tlbInsert (cap victim : Nat) (l : List TlbEntry) (e : TlbEntry) : List TlbEntry :=
  let l := l.filter fun f => !(f.asid == e.asid && f.vpn == e.vpn && f.sub == e.sub)
  if l.length < cap then l ++ [e] else l.eraseIdx (victim % l.length) ++ [e]

/-- What a translation answers (R348). -/
inductive Xlat where
  | fault | absent | miss
  | mem (pa : Nat)
  | gen (d : Nat)
  | remote (p : Nat)
  deriving DecidableEq, Repr

/-- An access that hits an entry, decided in the order of R348. A frame beyond package memory has no bytes: the access fault (R1
states no result; log 69). -/
def pteDecide (pte : Word) (acc : Access) (sup : Bool) (va : Nat) (sub : Bool) : Xlat :=
  let kind := bits pte 63 62
  let rd := bit pte 3
  let wr := bit pte 2
  let ok := match acc with
    | .read => rd
    | .write => wr
    | .readWrite => rd && wr
    | .fetch => bit pte 1
  if kind = 3 then .fault
  else if bit pte 0 && !sup then .fault
  else if kind = 1 then
    match acc with
    | .read => if rd then .gen (bits pte 54 52) else .fault
    | .fetch => .fault
    | _ => .gen (bits pte 54 52)
  else if !ok then .fault
  else if kind = 2 then .remote (bits pte 61 55)
  else if bit pte 4 then .absent
  else
    let pa := 1024 * bits pte 51 10 + va % (if sub then 1024 else 2097152)
    if pa < memorySize then .mem pa else .fault

/-- The entry that core k finds for an address: its own TLB first, then the cluster's (R349). A service core has no TLB of
its own. -/
def State.tlbHit (s : State) (k : Nat) (asid : BitVec 13) (va : Nat) : Option Word :=
  let co := s.core k
  let sub := co.inRegion va
  match tlbFind (if isSvc k then [] else co.tlb) asid (vpnOf va sub) sub with
  | some p => some p
  | none => tlbFind (s.cluster (clusterOf k)).tlb asid (vpnOf va sub) sub

/-- The translation of an access of core k (R101, R348, R349). -/
def State.translate (s : State) (k : Nat) (asid : BitVec 13) (sup : Bool) (acc : Access) (a : Word) : Xlat :=
  if 2 ^ 48 ≤ a.toNat then .fault
  else match s.tlbHit k asid a.toNat with
    | none => .miss
    | some pte => pteDecide pte acc sup a.toNat ((s.core k).inRegion a.toNat)

/-- A 2 MiB page or a pair of 1 KiB sub-pages as the miss table names it (R350). -/
def missOf (asid : BitVec 13) (va : Nat) (sub : Bool) : Miss :=
  { asid := asid, vpn := BitVec.ofNat 37 (if sub then va / 2048 else va / 2097152 * 1024), sub := sub }

/-- Code of an access in a miss notice (R350). -/
def Access.code : Access → Nat
  | .read => 0 | .write => 1 | .fetch => 2 | .readWrite => 3

/-- A miss notice (R350). -/
def missWord (acc : Access) (asid : BitVec 13) (va : Nat) (sub : Bool) : Word :=
  BitVec.ofNat 64 (2 ^ 56 + acc.code * 2 ^ 54 + (if sub then 2 ^ 53 else 0) + asid.toNat * 2 ^ 37 + va / 2048 % 2 ^ 37)

/-- A miss of core k takes a miss-table entry and sends its notice, unless it joins an entry or finds the table full
(R350). -/
def State.postMiss (s : State) (k : Nat) (asid : BitVec 13) (acc : Access) (va : Nat) : State :=
  let sub := (s.core k).inRegion va
  let m := missOf asid va sub
  s.updCluster (clusterOf k) fun cl =>
    if cl.misses.contains m || decide (16 ≤ cl.misses.length) then cl
    else { cl with misses := cl.misses ++ [m], noticesInFlight := cl.noticesInFlight ++ [missWord acc asid va sub] }

/-- A hit in the cluster TLB copies the entry into the core's own (R349). -/
def State.tlbCopy (s : State) (k : Nat) (asid : BitVec 13) (a : Word) : State :=
  let co := s.core k
  let sub := co.inRegion a.toNat
  let vpn := vpnOf a.toNat sub
  if isSvc k || decide (2 ^ 48 ≤ a.toNat) || (tlbFind co.tlb asid vpn sub).isSome then s
  else match tlbFind (s.cluster (clusterOf k)).tlb asid vpn sub with
    | none => s
    | some pte =>
      (s.setCore k { co with tlb := tlbInsert 32 (Config.tlbVictim s.free) co.tlb ⟨asid, vpn, sub, pte⟩ }).tick

/-! ### Where an LS access goes (R16, R19, R89, R112, R136, R148) -/

/-- The place that an address and a mode name. -/
inductive Place where
  | mem (pa : Nat)
  | pad (k off : Nat)
  | svc (off : Nat)
  | window (off : Nat)
  | gen (d : Nat)
  | remote (p : Nat)
  deriving DecidableEq, Repr

/-- A place, or the reason an access does not reach one. -/
inductive Reach where
  | ok (p : Place)
  | trap (code : Nat) (tval : Word)
  | absent (va : Word)
  | miss (acc : Access) (va : Word)
  | line (h n : Nat) (write : Bool)
  deriving DecidableEq, Repr

/-- The scratchpad byte that a mode's address names: core and offset, or none beyond S (R16, R89). -/
def State.padPlace (s : State) (k : Nat) (mode : AddrMode) (a : Nat) : Option (Nat × Nat) :=
  let cl := clusterOf k
  let size := s.padSize k
  let place := match mode with
    | .flat => (k, size)
    | .own => (k, a % 131072)
    | .clust => let b := a % 524288; (coreOf cl (b / 4 % 4), 4 * (b / 16) + b % 4)
    | .coresel => (coreOf cl (a / 131072 % 4), a % 131072)
  if place.2 < size then some place else none

/-- An access of a context, or of an engine, that reaches package memory waits while its holder cannot have the tokens that it needs
(R272, R273). -/
def State.withTokens (s : State) (h : Nat) (acc : Access) (r : Reach) (who : Option (Nat × Nat) := none) : Reach :=
  match r with
  | .ok (.mem pa) =>
    if s.lineBlocked h (lineOf pa) (acc == .write || acc == .readWrite) who then
      .line h (lineOf pa) (acc == .write || acc == .readWrite)
    else r
  | r => r

/-- The place of an access of n bytes by a context of core k, its alignment and the tokens apart: access fault, then GENWRITE,
then absence (R112, R136, R148). A service context without supervisor privilege meets the access fault at its private memory,
and reaches the window of CTXWIN (log 70). -/
def State.reachFor (s : State) (k : Nat) (asid : BitVec 13) (sup : Bool) (mode : AddrMode) (acc : Access) (a : Word) :
    Reach :=
  match mode with
  | .flat =>
    match s.translate k asid sup acc a with
    | .fault => .trap 3 a
    | .absent => .absent a
    | .miss => .miss acc a
    | .mem pa => .ok (.mem pa)
    | .gen d => if acc = .read then .ok (.gen d) else .trap 6 a
    | .remote p =>
      if acc = .readWrite || !s.domain.contains p then .trap 3 a else .ok (.remote p)
  | m =>
    if isSvc k then
      let off := a.toNat % 131072
      if m != .own then .trap 3 a
      else if off < 32768 then (if sup then .ok (.svc off) else .trap 3 a)
      else if 65536 ≤ off then .ok (.window off)
      else .trap 3 a
    else match s.padPlace k m a.toNat with
      | some (j, off) => .ok (.pad j off)
      | none => .trap 3 a

/-- The place of an access by the issuing context through a token holder, alignment first (R112 step 1). -/
def State.reachAt (s : State) (h : Nat) (mode : AddrMode) (acc : Access) (a : Word) (n : Nat) : Reach :=
  if a.toNat % n ≠ 0 ∨ (mode = .clust ∧ n = 8) then .trap 2 a
  else s.withTokens h acc (s.reachFor s.focus s.me.asid s.me.sup mode acc a) (some (s.focus, s.active))

/-- The place of an access by the issuing context through the slices of its die (R269). -/
def State.reach (s : State) (mode : AddrMode) (acc : Access) (a : Word) (n : Nat) : Reach :=
  s.reachAt (vdnOf s.focus) mode acc a n

/-- The translation of an access is looked up: a hit in the cluster TLB is copied, whatever the entry says (R349). -/
def State.looked (s : State) (mode : AddrMode) (a : Word) : State :=
  if mode = .flat then s.tlbCopy s.focus s.me.asid a else s

/-- The address that an obstacle of an access names. -/
def Reach.va : Reach → Word
  | .trap _ t => t
  | .absent va => va
  | .miss _ va => va
  | _ => 0

/-- What the issuing context does when its access at an address reaches no place: trap, park, or wait for a translation or for
tokens. A misaligned access looks nothing up. -/
def State.fail (s : State) (mode : AddrMode) (a : Word) (r : Reach) : State :=
  match r with
  | .trap code tval => if code = 2 then s.trap code tval else (s.looked mode a).trap code tval
  | .absent va => (s.looked mode a).park va
  | .miss acc va => s.wait (.tlb acc va)
  | .line h n write => ((s.looked mode a).want h n write (.ctx s.focus s.active)).wait (.line h n write)
  | .ok _ => s

/-- An LS access of the issuing context at a physical address takes the line's token and copies the translation. -/
def State.noteRead (s : State) (a : Word) (p : Place) : State :=
  match p with
  | .mem pa => (s.tlbCopy s.focus s.me.asid a).tokenRead s.focus pa
  | .gen _ => s.tlbCopy s.focus s.me.asid a
  | _ => s

/-- The poison that a read of n bytes at a place meets (R370). -/
def State.placePoisoned (s : State) (p : Place) (n : Nat) : Bool :=
  match p with
  | .mem pa => poisonedAt s.poison pa n
  | .pad k off => poisonedAt (s.core k).padPoison off n
  | .svc off => poisonedAt (s.core s.focus).padPoison off n
  | _ => false

/-- The number of the memory controller die of a physical address (R267). -/
def bxmOf (pa : Nat) : Nat := (pa / 128 % 4) ^^^ (pa / 524288 % 4)

/-- An LS read of a poisoned word: logged where the word is stored, and the access-fault trap (R370). -/
def State.poisonTrap (s : State) (p : Place) (a : Word) : State :=
  let s := match p with
    | .mem pa => (s.tlbCopy s.focus s.me.asid a).logOn 1 (bxmOf pa) 7 s.me.lid.toNat (65536 * s.pkg) (BitVec.ofNat 64 pa) 1
    | .pad k off => s.logCore k 7 s.me.lid (BitVec.ofNat 64 off) 0
    | .svc off => s.logCore s.focus 7 s.me.lid (BitVec.ofNat 64 off) 0
    | _ => s
  s.trap 3 a

/-- Writes n bytes at a place of the machine's storage, as an access of the issuing context. -/
def State.placeWrite (s : State) (a : Word) (p : Place) (n v : Nat) : State :=
  match p with
  | .mem pa =>
    (s.tlbCopy s.focus s.me.asid a).lsWrite (vdnOf s.focus) pa n v (s.thruOf s.focus pa)
  | .pad k off => s.lsPad k off n v
  | .svc off => s.lsPad s.focus off n v
  | _ => s

/-- Whether pieces (first byte, length) cover every byte of a 64-bit word. -/
def covered (l : List (Nat × Nat)) (w : Nat) : Bool :=
  (List.range 8).all fun i => l.any fun p => decide (p.1 ≤ 8 * w + i) && decide (8 * w + i < p.1 + p.2)

/-- The pieces among some that are in package memory. -/
def memPieces (l : List (Place × Nat)) : List (Nat × Nat) :=
  l.filterMap fun p => match p.1 with | .mem pa => some (pa, p.2) | _ => none

/-- The pieces among some that are in a core's scratchpad. -/
def padPieces (l : List (Place × Nat)) (k : Nat) : List (Nat × Nat) :=
  l.filterMap fun p => match p.1 with | .pad j off => if j = k then some (off, p.2) else none | _ => none

/-- The cores whose scratchpads some pieces lie in. -/
def padCores (l : List (Place × Nat)) : List Nat :=
  (l.filterMap fun p => match p.1 with | .pad j _ => some j | _ => none).dedup

/-- A step that wrote several pieces clears the poison of every word that they cover (R370). -/
def State.cleanPlaces (s : State) (l : List (Place × Nat)) : State :=
  let s := { s with poison := s.poison.filter fun w => !covered (memPieces l) w }
  (padCores l).foldl (fun s k => s.updCore k fun co =>
    { co with padPoison := co.padPoison.filter fun w => !covered (padPieces l k) w }) s

/-- The places that accesses of n bytes reach. -/
def okPlaces (n : Nat) (l : List Reach) : List (Place × Nat) :=
  l.filterMap fun r => match r with | .ok p => some (p, n) | _ => none

/-- The physical addresses that accesses reach. -/
def memsOf (l : List Reach) : List Nat := l.filterMap fun x => match x with | .ok (.mem pa) => some pa | _ => none

/-! ### Coaches and tasks (R182, R315) -/

/-- The coach of a launch that is not saved on a cluster. -/
def Cluster.coachOf (cl : Cluster) (lid : BitVec 16) : Option Coach :=
  cl.coaches.find? fun c => c.lid == lid && c.state != .saved
/-- The coach in a slot that is not saved. -/
def Cluster.coachIn (cl : Cluster) (slot : Nat) : Option Coach :=
  cl.coaches.find? fun c => c.slot == slot && c.state != .saved
/-- Whether the save of the coach of a context of core k has begun. -/
def State.beingSaved (s : State) (k : Nat) (x : Ctx) : Bool :=
  ((x.coach.bind (s.cluster (clusterOf k)).coachIn).map fun c => s.saveBegun (clusterOf k) c).getD false
/-- The coach of the issuing task. -/
def State.myCoach (s : State) : Option Coach := s.me.coach.bind s.myCluster.coachIn
/-- The tag grant of the issuing task: none outside a coach (R242; log 9). -/
def State.myGrant (s : State) : Word := (s.myCoach.map Coach.grant).getD 0

/-! ### Messages to another package, and deferred faults (R141, R254, R277) -/

/-- Who the issuing context is in a message to package p. -/
def State.netSrc (s : State) (req : Nat) : NetSrc :=
  { pkg := s.pkg, core := s.focus, ctx := s.active, lid := s.me.lid.toNat, req := req, sup := s.me.sup }

/-- Sends a message to a package; one to the own package stays inside. -/
def State.send (s : State) (p : Nat) (m : NetMsg) : State :=
  if p = s.pkg then { s with net := s.net ++ [m] } else { s with netOut := s.netOut ++ [(p, m)] }

/-- Cause and TVAL of a deferred fault (R141, R236, R254). -/
def Failure.cause : Failure → Nat × Word
  | .access va => (3, va)
  | .refusal pc => (10, pc)
  | .cimerr t => (9, t)

/-- The earliest in program order of some deferred faults. -/
def earliest : List Deferred → Option Deferred
  | [] => none
  | d :: r => match earliest r with
    | none => some d
    | some e => if e.ord < d.ord then some e else some d

/-- The issuing context reports the earliest of its deferred faults that sel selects; none when there is none. -/
def State.report (s : State) (sel : Deferred → Bool) : Option State :=
  (earliest (s.me.deferred.filter sel)).map fun d =>
    (s.setMe { s.me with deferred := s.me.deferred.erase d }).trapLate d.why.cause.1 d.why.cause.2

/-! ### Events on the agenda -/

/-- The operands of the step that the agenda's head supplies, and the state with that head taken. -/
def State.pop (s : State) : State := { s with agenda := s.agenda.drop 1 }

end Sys2Proof.Machine
end

