-- ==== Sys2Proof/Machine/Prio.lean ====
section
/-!
DEFINITION. Effective issue classes and their inheritance through barriers (R325).
-/

namespace Sys2Proof.Machine

/-- The barrier that a context waits on (R213, R325). -/
def Ctx.waitsOn (c : Ctx) : Option Nat :=
  match c.run with
  | .waiting (.barrier b _) => some b
  | _ => none

/-- The contexts of a cluster by slot: number 8 × core + context (R211). -/
def State.slotCtx (s : State) (cl slot : Nat) : Ctx := s.ctx (coreOf cl (slot / 8)) (slot % 8)

/-- The greatest class among the contexts that wait on a barrier (R325). -/
def waiterClass (ctxs : List Ctx) (eff : List Nat) (b : Nat) : Nat :=
  (ctxs.zip eff).foldl (fun m p => if p.1.waitsOn = some b then max m p.2 else m) 0

/-- One pass of inheritance over the 32 slots of a cluster (R325). -/
def effPass (bars : List (Nat × Barrier)) (ctxs : List Ctx) (eff : List Nat) : List Nat :=
  (ctxs.zip eff).mapIdx fun slot p =>
    bars.foldl (fun m b =>
      if b.2.members.getLsbD slot && !b.2.arrived.getLsbD slot && b.2.owner == p.1.lid
      then max m (waiterClass ctxs eff b.1) else m) p.2

/-- The fixed point of inheritance, reached in at most `fuel` passes. -/
def effFix (bars : List (Nat × Barrier)) (ctxs : List Ctx) : Nat → List Nat → List Nat
  | 0, eff => eff
  | fuel + 1, eff =>
    let eff' := effPass bars ctxs eff
    if eff' = eff then eff else effFix bars ctxs fuel eff'

/-- PRIO.Eff of a context (R325). -/
def State.effOf (s : State) (k c : Nat) : Nat :=
  let own := (s.ctx k c).cls.toNat
  let bars := (s.cluster (clusterOf k)).bars.filter fun b => b.2.members != 0
  if isSvc k || bars.isEmpty then own
  else
    let ctxs := (List.range 32).map (s.slotCtx (clusterOf k))
    (effFix bars ctxs 96 (ctxs.map fun x => x.cls.toNat)).getD (slotOf k c) own

/-- The greatest Eff among the contexts that wait on a barrier of a cluster (R325). -/
def State.barrierEff (s : State) (cl b : Nat) : Nat :=
  (List.range 32).foldl (fun m n =>
    if (s.slotCtx cl n).waitsOn = some b then max m (s.effOf (coreOf cl (n / 8)) (n % 8)) else m) 0

/-- What a slot of a coach inherits from the barriers of a cluster (R325). -/
def State.slotInherits (s : State) (cl : Nat) (lid : BitVec 16) (slot : Nat) : Nat :=
  (s.cluster cl).bars.foldl (fun m b =>
    if b.2.owner == lid && b.2.members.getLsbD slot && !b.2.arrived.getLsbD slot then max m (s.barrierEff cl b.1) else m) 0

/-- PRIO.Eff of a saved context in its slot: what it inherits from waiters on the cluster, and from those that were saved with it
(R325, R340, R342). -/
def State.savedEff (s : State) (home : Nat) (c : Coach) (slot : Nat) (x : Ctx) : Nat :=
  let ctxs := (List.range 32).map fun n => c.saved.ctxs.get n (s.slotCtx home n)
  let bars := (s.cluster home).bars.filter fun b => b.2.members != 0
  Nat.max (s.slotInherits home c.lid slot) ((effFix bars ctxs 96 (ctxs.map fun x => x.cls.toNat)).getD slot x.cls.toNat |>.max x.cls.toNat)

/-- The class at which a saved coach is readmitted: its saved one, or one that its slots inherit from barrier waiters (R325,
R342). -/
def State.savedClass (s : State) (home : Nat) (c : Coach) : Nat :=
  c.saved.ctxs.foldl (fun m p => max m (s.slotInherits home c.lid p.1)) c.saved.cls

/-- PRIO of a context at an Eff (R119). -/
def prioWord (eff : Nat) (x : Ctx) : Word := BitVec.ofNat 64 (16 * eff + 4 * x.cap.toNat + x.cls.toNat)

end Sys2Proof.Machine
end

