-- ==== Sys2Proof/Machine/Area.lean ====
section
/-!
DEFINITION. What a stream, a tag and a channel's entry look like as words, and the save area of a coach (R166, R178, R179,
R248, R341, R342).
-/

namespace Sys2Proof.Machine

/-! ### Streams (R165, R166) -/

/-- Whether a bound stream is exhausted (R166, R169). -/
def Stream.count (t : Stream) : Nat := bits t.w1 15 0 * bits t.w1 31 16 * bits t.w1 47 32
/-- Wrap (R165). -/
def Stream.wrap (t : Stream) : Bool := bit t.w3 1
/-- Whether a stream is a write stream (R165). -/
def Stream.isWrite (t : Stream) : Bool := bit t.w3 0
/-- Whether a stream without Wrap has delivered or accepted its last vector (R166). -/
def Stream.exhausted (t : Stream) : Bool := !t.wrap && decide (t.count ≤ t.cursor)

/-- The number whose bit n is f n, for n below len. -/
def bitMask (len : Nat) (f : Nat → Bool) : Word :=
  BitVec.ofNat 64 ((List.range len).foldl (fun acc n => if f n then acc + 2 ^ n else acc) 0)

/-- STRCTL (R166). -/
def Ctx.strctl (c : Ctx) : Word :=
  let bound := bitMask 8 fun n => (c.streams.find? n).isSome
  let exhausted := bitMask 8 fun n => ((c.streams.find? n).map Stream.exhausted).getD false
  (if c.dryZero then 0x10000 else 0) ||| (exhausted <<< 8) ||| bound

/-! ### Tags and channels (R178, R179, R248) -/

/-- A tag's CSR (R248). -/
def Tag.word (t : Tag) : Word :=
  BitVec.ofNat 64 ((if t.fault then 2 ^ 63 else 0) + t.expected % 2 ^ 31 * 2 ^ 32 + t.arrived.toNat)

/-- En of a channel entry (R178). -/
def chEn (w : Word) : Bool := bit w 63
/-- Part of a channel entry (R178). -/
def chPart (w : Word) : Nat := bits w 57 51
/-- The sum of Part over the enabled channels of a table (R179). -/
def partSum (t : SMap Word) : Nat := t.foldl (fun n p => if chEn p.2 then n + chPart p.2 else n) 0

/-- The first queue entry of a channel's partition: 4 times the sum of Part over the lower enabled channels (R179). -/
def partStart (t : SMap Word) (ch : Nat) : Nat := 4 * partSum (t.filter fun p => p.1 < ch)

/-- Whether a core's queue holds an entry of a channel that a coach slot owns (R315). -/
def Core.holdsEntry (co : Core) (slot : Nat) : Bool :=
  co.queue.any fun e =>
    let w := co.chtab.get e.channel.toNat 0
    chEn w && bits w 50 48 == slot

/-! ### Readiness (R342) -/

/-- Whether a launch binds channels. -/
def State.bindsChannels (s : State) (lid : BitVec 16) : Bool :=
  ((s.launches.find? lid.toNat).map fun l => !l.chans.isEmpty).getD false

/-- Whether a saved coach is Ready (R342): each page that one of its contexts is parked on has come, or its work awaits it. -/
def State.savedReady (s : State) (home : Nat) (c : Coach) : Bool :=
  let pages := c.saved.ctxs.all fun p =>
    match p.2.run with
    | .parked _ _ => p.2.pageBack
    | _ => true
  let work := ((List.range 4).map (coreOf home)).any fun k =>
    let co := s.core k
    (s.bindsChannels c.lid && co.holdsEntry c.slot) || co.slots.any fun t => t.2.lid == c.lid && t.2.queued
  pages || work

/-! ### The save area (R341) -/

/-- The state of a saved context (R341). -/
def Run.saveCode : Run → Nat
  | .parked _ _ => 1
  | .waiting _ => 2
  | .trapped => 3
  | .killed => 3
  | .yielded => 4
  | _ => 0

/-- The pc at which a saved context resumes: a trapped one at its EPC (R127, R341). -/
def Ctx.resumePc (x : Ctx) : Word :=
  match x.run with
  | .trapped => x.epc
  | .killed => x.epc
  | _ => x.pc

/-- The words of a context record, by offset (R341); prio is PRIO. -/
def Ctx.saveWords (x : Ctx) (slot : Nat) (prio : Word) : List (Nat × Word) :=
  let parked : Word := match x.run with | .parked va _ => va | _ => 0
  let csrs : List Word :=
    [x.fflags.setWidth 64, if x.stlchk then 1 else 0, x.strctl, x.sdout, prio, x.asid.setWidth 64, x.lid.setWidth 64,
     x.tile.setWidth 64, x.predl.setWidth 64, x.genEpoch, x.cause.setWidth 64, x.epc, x.tval]
  [(0x0, BitVec.ofNat 64 (slot + x.run.saveCode * 256)), (0x8, x.resumePc), (0x10, parked)]
    ++ (List.range 32).map (fun n => (0x40 + 8 * n, x.rx n))
    ++ (List.range 256).map (fun n => (0x140 + 8 * n, BitVec.ofNat 64 (elem 64 (x.rv (n / 8)) (n % 8))))
    ++ (List.range 8).map (fun n => (0x940 + 8 * n, (x.rm n).setWidth 64))
    ++ csrs.zipIdx.map (fun p => (0x980 + 8 * p.2, p.1))
    ++ (List.range 32).map (fun n => (0xA00 + 8 * n, x.gens.get n 0))
    ++ (List.range 32).map (fun n => (0xB00 + 8 * n, x.sdesc.get n 0))
    ++ (List.range 8).map fun n =>
      (0xC00 + 8 * n, BitVec.ofNat 64 (((x.streams.find? n).map Stream.cursor).getD 0))

/-- The words of a core's saved tags (R341). -/
def tagWords (t : SMap Tag) : List (Nat × Word) :=
  [(0, bitMask 64 fun n => (t.get n {}).ready), (8, bitMask 64 fun n => (t.get n {}).armed)]
    ++ (List.range 64).map fun n => (0x10 + 8 * n, (t.get n {}).word)

/-- The first number that no range of a list of disjoint ranges holds. -/
def firstMissing (l : List (Nat × Nat)) : Nat :=
  (sortBy Prod.fst l).foldl (fun n p => if p.1 ≤ n then Nat.max n (p.1 + p.2) else n) 0

/-- Element size of SCATADD's Type and REDCOPY's RType (R243, R256). -/
def elemSize (t : Nat) : Nat := if t = 0 then 4 else if t = 1 then 8 else if t = 2 then 4 else 2
/-- 2^LgSize of GATHER. -/
def gatherSize (w2 : Word) : Nat := 2 ^ bits w2 47 44
/-- Type of SCATADD. -/
def scatType (w2 : Word) : Nat := bits w2 47 44

/-- The unit in which a request progresses, in bytes: an element of a slice request, BIN's being its output words, a block of REDCOPY, and
else a byte (R254, R258, R260, R341). -/
def Req.unit (r : Req) : Nat :=
  match r.kind with
  | .gather => gatherSize r.w2
  | .scatadd => elemSize (scatType r.w2)
  | .bin => 4
  | .redcopy => 128
  | _ => 1

/-- The progress point of a request: its first byte, element or block that is not performed whole (R341). -/
def Req.progress (r : Req) : Nat := firstMissing r.dones / r.unit

/-- The words of a halted request (R341). -/
def Req.saveWords (r : Req) (core : Nat) : List (Nat × Word) :=
  [(0, r.w0), (8, r.w1), (16, r.w2), (24, r.w3), (32, BitVec.ofNat 64 core), (40, BitVec.ofNat 64 r.progress), (48, r.pc)]

/-- Words moved by an offset. -/
def shiftWords (n : Nat) (l : List (Nat × Word)) : List (Nat × Word) := l.map fun p => (n + p.1, p.2)

/-- Word 1 of a save area, with the Ready that a coach has now (R341, R342). -/
def State.areaWord1 (s : State) (cl : Nat) (c : Coach) : Word :=
  let flag (b : Bool) (n : Nat) : Nat := if b then 2 ^ n else 0
  BitVec.ofNat 64 (c.lid.toNat + c.asid.toNat * 2 ^ 16 + c.saved.cls * 2 ^ 30 + flag c.saved.macroBound 32
    + flag (s.bindsChannels c.lid) 33 + flag c.saved.barBound 34 + flag (s.savedReady cl c) 35)

/-- The words of the i-th context record of a save area, by offset (R341). -/
def State.recordWords (s : State) (cl : Nat) (c : Coach) (i slot : Nat) (x : Ctx) : List (Nat × Word) :=
  shiftWords (0x100 + 4096 * i) (x.saveWords slot (prioWord (s.savedEff cl c slot x) x))

/-- Words of the save area, by offset, but for the scratchpad images (R341). -/
def State.areaWords (s : State) (cl : Nat) (c : Coach) : List (Nat × Word) :=
  let x := s.cluster cl
  let v := c.saved
  [(0x0, 1), (0x8, s.areaWord1 cl c),
   (0x10, BitVec.ofNat 64 (cl / 64 + cl % 64 * 2 ^ 5 + x.split * 2 ^ 16 + if x.fuse then 2 ^ 20 else 0)),
   (0x18, BitVec.ofNat 64 s.ptc), (0x20, BitVec.ofNat 64 v.ctxs.length), (0x28, c.grant),
   (0x30, BitVec.ofNat 64 v.halted.length)]
    ++ v.ctxs.zipIdx.flatMap (fun p => s.recordWords cl c p.2 p.1.1 p.1.2)
    ++ v.tags.flatMap (fun p => shiftWords (0x20100 + 1024 * p.1) (tagWords p.2))
    ++ x.bars.flatMap (fun p => shiftWords (0x21100 + 16 * p.1)
        [(0, BitVec.ofNat 64 (p.2.members.toNat + p.2.arrived.toNat * 2 ^ 32)),
         (8, BitVec.ofNat 64 ((if p.2.phase then 1 else 0) + p.2.owner.toNat * 2))])
    ++ v.halted.zipIdx.flatMap fun p => shiftWords (0x21200 + 64 * p.2) (p.1.2.saveWords p.1.1)

/-- Length of a save area. -/
def areaSize : Nat := 0xA2000

/-- Words written to bytes, from a base. -/
def putWords (m : List Host.Cell) (base : Nat) (l : List (Nat × Word)) : List Host.Cell :=
  l.foldl (fun m p => writeCells m (base + p.1) 8 p.2.toNat) m

/-- The save area of a coach is written to package memory, and its lines go back to their homes: no ASID maps it, so no holder
but the saving die's slices ever takes them (R270, R276, R341). -/
def State.writeArea (s : State) (cl : Nat) (c : Coach) : State :=
  let base := c.saved.base
  let clean := s.mem.filter fun p => p.1 < base || base + areaSize ≤ p.1
  let m := putWords clean base (s.areaWords cl c)
  let m := c.saved.pads.foldl (fun m p =>
    p.2.foldl (fun m b => SMap.put blankByte m (base + 0x22000 + 131072 * p.1 + b.1) b.2) m) m
  { s with mem := m, poison := unpoison s.poison base areaSize, olds := oldsApart s.olds base areaSize
           lines := s.lines.filter fun p => 128 * p.1 + 128 ≤ base || base + areaSize ≤ 128 * p.1 }

/-- Nothing finds any longer what a write replaced in the scratchpads of a cluster: their coach has left, or is back (R340, R342). -/
def State.forgetPads (s : State) (cl : Nat) : State := { s with olds := oldsApart s.olds (padLoc (coreOf cl 0)) (4 * 131072) }

/-- The saved coaches of a cluster, each with what it changes in its area. -/
def State.patchAreas (s : State) (cl : Nat) (f : Coach → List (Nat × Word)) : State :=
  { s with mem := (s.cluster cl).coaches.foldl (fun m c =>
      if c.state = .saved then putWords m c.saved.base (f c) else m) s.mem }

/-- The Ready bits of the areas of a cluster's saved coaches become what they are now (R341, R342). -/
def State.noteReady (s : State) (cl : Nat) : State := s.patchAreas cl fun c => [(0x8, s.areaWord1 cl c)]

/-- The record of a saved context is written to its coach's area again (R334). -/
def State.rewriteRecord (s : State) (cl : Nat) (lid : BitVec 16) (slot : Nat) : State :=
  s.patchAreas cl fun c =>
    if c.lid == lid then
      c.saved.ctxs.zipIdx.flatMap fun p => if p.1.1 = slot then s.recordWords cl c p.2 slot p.1.2 else []
    else []

end Sys2Proof.Machine
end

