-- ==== Sys2Proof/Machine/Flags.lean ====
section
/-!
DEFINITION. Floating-point numbers and their exception flags: the formats of R33, decoding, one rounding for every mode
(R42 to R46), the operations of R36 and R154, and the conversions of R50 to R52. Every value is exact until it is
rounded once.
-/

namespace Sys2Proof.Machine

/-- A floating-point format (R33): exponent and fraction bits, bias, and whether it has infinities. -/
structure FloatFmt where
  ebits : Nat
  mbits : Nat
  bias : Nat
  hasInf : Bool := true
  deriving DecidableEq, Repr

/-- FP32 (R33). -/
def fp32 : FloatFmt := { ebits := 8, mbits := 23, bias := 127 }
/-- BF16 (R33). -/
def bf16 : FloatFmt := { ebits := 8, mbits := 7, bias := 127 }
/-- FP16 (R33). -/
def fp16 : FloatFmt := { ebits := 5, mbits := 10, bias := 15 }
/-- FP8 E4M3 (R33). -/
def e4m3 : FloatFmt := { ebits := 4, mbits := 3, bias := 7, hasInf := false }
/-- FP8 E5M2 (R33). -/
def e5m2 : FloatFmt := { ebits := 5, mbits := 2, bias := 15 }

/-- The format that an element code of VFP names (R153). -/
def fmtOf : FpFmt → FloatFmt
  | .f32 => fp32 | .bf16 => bf16 | .f16 => fp16

/-- Bits of a format. -/
def FloatFmt.width (f : FloatFmt) : Nat := 1 + f.ebits + f.mbits

/-- The flags of an operation: NV, OF, UF, NX (R47). -/
abbrev FFlags := BitVec 4
/-- Invalid operation. -/
def flagNV : FFlags := 8
/-- Overflow. -/
def flagOF : FFlags := 4
/-- Underflow. -/
def flagUF : FFlags := 2
/-- Inexact. -/
def flagNX : FFlags := 1

/-- A value with the flags that making it sets. -/
abbrev Flagged (α : Type) := α × FFlags

/-- The value of an encoding: a NaN, an infinity, a zero, or m × 2^e with m ≠ 0. -/
inductive Fp where
  | nan (signalling : Bool)
  | inf (neg : Bool)
  | zero (neg : Bool)
  | fin (m : Int) (e : Int)
  deriving DecidableEq, Repr

/-- The value of an encoding of a format (R33, R35). -/
def Fp.decode (f : FloatFmt) (v : Nat) : Fp :=
  let neg := v / 2 ^ (f.ebits + f.mbits) % 2 == 1
  let ex := v / 2 ^ f.mbits % 2 ^ f.ebits
  let fr := v % 2 ^ f.mbits
  let top := 2 ^ f.ebits - 1
  let sgn (m : Nat) : Int := if neg then -(m : Int) else m
  if ex = top ∧ f.hasInf ∧ fr = 0 then .inf neg
  else if ex = top ∧ f.hasInf then .nan (fr / 2 ^ (f.mbits - 1) == 0)
  else if ex = top ∧ fr = 2 ^ f.mbits - 1 then .nan false
  else if ex = 0 ∧ fr = 0 then .zero neg
  else if ex = 0 then .fin (sgn fr) (1 - (f.bias : Int) - f.mbits)
  else .fin (sgn (2 ^ f.mbits + fr)) ((ex : Int) - f.bias - f.mbits)

/-- The canonical quiet NaN of a format (R35). -/
def FloatFmt.nan (f : FloatFmt) : Nat :=
  if f.hasInf then (2 ^ f.ebits - 1) * 2 ^ f.mbits + 2 ^ (f.mbits - 1) else 2 ^ (f.ebits + f.mbits) - 1

/-- The sign bit of a format, in place. -/
def FloatFmt.sign (f : FloatFmt) (neg : Bool) : Nat := if neg then 2 ^ (f.ebits + f.mbits) else 0
/-- An infinity of a format that has one. -/
def FloatFmt.inf (f : FloatFmt) (neg : Bool) : Nat := f.sign neg + (2 ^ f.ebits - 1) * 2 ^ f.mbits
/-- The largest finite magnitude of a format as an encoding (R33). -/
def FloatFmt.maxBits (f : FloatFmt) : Nat :=
  if f.hasInf then (2 ^ f.ebits - 1) * 2 ^ f.mbits - 1 else 2 ^ (f.ebits + f.mbits) - 2

/-- The exponent of the unit of the subnormal numbers of a format. -/
def FloatFmt.qmin (f : FloatFmt) : Int := 1 - (f.bias : Int) - f.mbits

/-- Whether the magnitude lo + rem ÷ 2^d, between the neighbours lo and lo + 1, is rounded up (R42, R45). r is SR's draw. -/
def roundsUp (mode : RoundMode) (r : Nat) (neg : Bool) (lo rem d : Nat) : Bool :=
  match mode with
  | .rne => decide (2 ^ d < 2 * rem) || (decide (2 * rem = 2 ^ d) && decide (lo % 2 = 1))
  | .rtz => false
  | .rdn => neg && decide (rem ≠ 0)
  | .rup => !neg && decide (rem ≠ 0)
  | .sr => decide (r < rem * 65536 / 2 ^ d)

/-- m × 2^e as a whole number of units 2^q, and whether the rounding is inexact. -/
def roundAt (mode : RoundMode) (r : Nat) (neg : Bool) (m : Nat) (e q : Int) : Nat × Bool :=
  if q ≤ e then (m * 2 ^ (e - q).toNat, false)
  else
    let d := (q - e).toNat
    let lo := m / 2 ^ d
    let rem := m % 2 ^ d
    (if roundsUp mode r neg lo rem d then lo + 1 else lo, decide (rem ≠ 0))

/-- What a result beyond the largest finite magnitude becomes (R44). -/
def overflowBits (f : FloatFmt) (mode : RoundMode) (neg : Bool) : Nat :=
  let big := f.sign neg + f.maxBits
  if !f.hasInf then big
  else match mode with
    | .rne => f.inf neg
    | .rtz => big
    | .rdn => if neg then f.inf true else big
    | .rup => if neg then big else f.inf false
    | .sr => f.inf neg

/-- (-1)^neg × m × 2^e, m ≠ 0, rounded once into a format, with its flags (R44, R46, R48). -/
def roundTo (f : FloatFmt) (mode : RoundMode) (r : Nat) (neg : Bool) (m : Nat) (e : Int) : Flagged Nat :=
  let lead := e + Nat.log2 m
  let qu := lead - f.mbits
  let q := if qu < f.qmin then f.qmin else qu
  let (n, inexact) := roundAt mode r neg m e q
  let enc := (q - f.qmin).toNat * 2 ^ f.mbits + n
  if f.maxBits < enc then (overflowBits f mode neg, flagOF ||| flagNX)
  else
    let nu := roundAt mode r neg m e qu
    let tiny := decide (qu < f.qmin) && decide (nu.1 < 2 ^ f.mbits * 2 ^ (f.qmin - qu).toNat)
    let fl : FFlags := (if inexact then flagNX else 0) ||| (if inexact && tiny then flagUF else 0)
    (f.sign neg + enc, fl)

/-- A value with an exact magnitude rounded into a format. -/
def Fp.round (f : FloatFmt) (mode : RoundMode) (r : Nat) : Fp → Flagged Nat
  | .nan s => (f.nan, if s then flagNV else 0)
  | .inf neg => if f.hasInf then (f.inf neg, 0) else (f.nan, flagNV)
  | .zero neg => (f.sign neg, 0)
  | .fin m e => roundTo f mode r (decide (m < 0)) m.natAbs e

/-- An exact number; exactly zero is +0. -/
def Fp.ofInt (m e : Int) : Fp := if m = 0 then .zero false else .fin m e

/-- m × 2^e in units of 2^q, for q ≤ e. -/
def scaleTo (m e q : Int) : Int := m * (2 ^ (e - q).toNat : Nat)

/-- The exact sum; an exact zero of numbers that are not both -0 is +0 (R36, RNE). -/
def Fp.add : Fp → Fp → Flagged Fp
  | .nan a, .nan b => (.nan false, if a || b then flagNV else 0)
  | .nan a, _ => (.nan false, if a then flagNV else 0)
  | _, .nan b => (.nan false, if b then flagNV else 0)
  | .inf a, .inf b => if a = b then (.inf a, 0) else (.nan false, flagNV)
  | .inf a, _ => (.inf a, 0)
  | _, .inf b => (.inf b, 0)
  | .zero a, .zero b => (.zero (a && b), 0)
  | .zero _, y => (y, 0)
  | x, .zero _ => (x, 0)
  | .fin m e, .fin m' e' =>
    let q := if e < e' then e else e'
    (Fp.ofInt (scaleTo m e q + scaleTo m' e' q) q, 0)

/-- The value with its sign inverted. -/
def Fp.neg : Fp → Fp
  | .nan s => .nan s
  | .inf a => .inf !a
  | .zero a => .zero !a
  | .fin m e => .fin (-m) e

/-- Whether a value's sign is negative. -/
def Fp.isNeg : Fp → Bool
  | .nan _ => false
  | .inf a => a
  | .zero a => a
  | .fin m _ => decide (m < 0)

/-- The exact product (R36); 0 × ∞ is a NaN and sets NV. -/
def Fp.mul : Fp → Fp → Flagged Fp
  | .nan a, .nan b => (.nan false, if a || b then flagNV else 0)
  | .nan a, _ => (.nan false, if a then flagNV else 0)
  | _, .nan b => (.nan false, if b then flagNV else 0)
  | .inf _, .zero _ => (.nan false, flagNV)
  | .zero _, .inf _ => (.nan false, flagNV)
  | .inf a, y => (.inf (a != y.isNeg), 0)
  | x, .inf b => (.inf (x.isNeg != b), 0)
  | .zero a, y => (.zero (a != y.isNeg), 0)
  | x, .zero b => (.zero (x.isNeg != b), 0)
  | .fin m e, .fin m' e' => (.fin (m * m') (e + e'), 0)

/-- A quotient with 128 more bits than it needs, its last bit set when it is not exact. -/
def Fp.div : Fp → Fp → Flagged Fp
  | .nan a, .nan b => (.nan false, if a || b then flagNV else 0)
  | .nan a, _ => (.nan false, if a then flagNV else 0)
  | _, .nan b => (.nan false, if b then flagNV else 0)
  | .inf _, .inf _ => (.nan false, flagNV)
  | .zero _, .zero _ => (.nan false, flagNV)
  | .inf a, y => (.inf (a != y.isNeg), 0)
  | x, .inf b => (.zero (x.isNeg != b), 0)
  | .zero a, y => (.zero (a != y.isNeg), 0)
  | x, .zero b => (.inf (x.isNeg != b), 0)
  | .fin m e, .fin m' e' =>
    let s := 128 + Nat.log2 m'.natAbs
    let num := m.natAbs * 2 ^ s
    let q := num / m'.natAbs * 2 + (if num % m'.natAbs = 0 then 0 else 1)
    (.fin (if decide (m < 0) != decide (m' < 0) then -(q : Int) else q) (e - e' - s - 1), 0)

/-- The whole square root of a number below 4^n, bit by bit. -/
def isqrt : Nat → Nat → Nat
  | 0, _ => 0
  | n + 1, v =>
    let r := 2 * isqrt n (v / 4)
    if (r + 1) * (r + 1) ≤ v then r + 1 else r

/-- The square root (R154), its last bit set when it is not exact. -/
def Fp.sqrt : Fp → Flagged Fp
  | .nan s => (.nan false, if s then flagNV else 0)
  | .inf true => (.nan false, flagNV)
  | .inf false => (.inf false, 0)
  | .zero a => (.zero a, 0)
  | .fin m e =>
    if m < 0 then (.nan false, flagNV)
    else
      let odd := e % 2 = 1
      let v := m.natAbs * (if odd then 2 else 1) * 4 ^ 64
      let e' := (if odd then e - 1 else e) / 2 - 64
      let r := isqrt 128 v
      (.fin (2 * (r : Int) + (if r * r = v then 0 else 1)) (e' - 1), 0)

/-- ln 2 in units of 2^-320. -/
def ln2Fixed : Nat := 1480553391661173448385607439722553250922680800745876974795605978609098082859138712941075737848984

/-- Σ t^k ÷ k! for k from n down, in units of 2^-320: Horner's form of exp t. -/
def expSeries (t : Nat) : Nat → Nat → Nat
  | 0, acc => acc
  | n + 1, acc => expSeries t n (2 ^ 320 + t * acc / (2 ^ 320 * (n + 1)))

/-- 2^x for a finite x that is no integer, as m × 2^e with far more bits than any format holds; the last bit says that it is
not exact (R154; log 10). -/
def exp2Frac (n : Int) (frac : Nat) : Fp :=
  let t := frac * ln2Fixed / 2 ^ 320
  .fin (2 * (expSeries t 80 (2 ^ 320) : Int) + 1) (n - 321)

/-- 2^x (R154). Beyond any format's range the exponent stands for every larger one. -/
def Fp.exp2 : Fp → Flagged Fp
  | .nan s => (.nan false, if s then flagNV else 0)
  | .inf true => (.zero false, 0)
  | .inf false => (.inf false, 0)
  | .zero _ => (.fin 1 0, 0)
  | .fin m e =>
    let big : Bool := decide (2000 < e + Nat.log2 m.natAbs)
    if big || decide (0 ≤ e) then
      let n : Int := if big then (if m < 0 then -1000 else 1000) else m * (2 ^ e.toNat : Nat)
      (.fin 1 (if n < -1000 then -1000 else if 1000 < n then 1000 else n), 0)
    else
      let d := (-e).toNat
      let n := m / (2 ^ d : Nat)
      let fr := (m % (2 ^ d : Nat)).toNat
      if n < -1000 then (.fin 1 (-1000), 0)
      else if 1000 < n then (.fin 1 1000, 0)
      else if fr = 0 then (.fin 1 n, 0)
      else if d ≤ 320 then (exp2Frac n (fr * 2 ^ (320 - d)), 0)
      else (exp2Frac n (fr / 2 ^ (d - 320)), 0)

/-- The order of two numbers that are no NaN: negative, zero or positive as a is less, equal or greater; zeros are equal. -/
def Fp.cmp : Fp → Fp → Int
  | .inf a, .inf b => if a = b then 0 else if a then -1 else 1
  | .inf a, _ => if a then -1 else 1
  | _, .inf b => if b then 1 else -1
  | .fin m e, .fin m' e' =>
    let q := if e < e' then e else e'
    scaleTo m e q - scaleTo m' e' q
  | .fin m _, _ => m
  | _, .fin m _ => -m
  | _, _ => 0

/-- Whether a value is a NaN. -/
def Fp.isNan : Fp → Bool
  | .nan _ => true
  | _ => false
/-- Whether a value is a signalling NaN. -/
def Fp.isSnan : Fp → Bool
  | .nan s => s
  | _ => false

/-! ### Operations on encodings -/

/-- An operation of two operands, rounded once by RNE into the format, with the flags of both (R43, R153). -/
def fpBin (op : Fp → Fp → Flagged Fp) (f : FloatFmt) (a b : Nat) : Flagged Nat :=
  let (x, fl) := op (Fp.decode f a) (Fp.decode f b)
  let (v, fl') := x.round f .rne 0
  (v, fl ||| fl')

/-- An operation of one operand (R153). -/
def fpUn (op : Fp → Flagged Fp) (f : FloatFmt) (a : Nat) : Flagged Nat :=
  let (x, fl) := op (Fp.decode f a)
  let (v, fl') := x.round f .rne 0
  (v, fl ||| fl')

/-- a + b (R153). -/
def fpAdd (f : FloatFmt) (a b : Nat) : Flagged Nat := fpBin Fp.add f a b
/-- a - b (R153). -/
def fpSub (f : FloatFmt) (a b : Nat) : Flagged Nat := fpBin (fun x y => x.add y.neg) f a b
/-- a × b (R153). -/
def fpMul (f : FloatFmt) (a b : Nat) : Flagged Nat := fpBin Fp.mul f a b
/-- a ÷ b (R153). -/
def fpDiv (f : FloatFmt) (a b : Nat) : Flagged Nat := fpBin Fp.div f a b
/-- c + a × b with one rounding; 0 × ∞ sets NV whatever c (R36, R153). -/
def fpFma (f : FloatFmt) (c a b : Nat) : Flagged Nat :=
  let (p, fl) := (Fp.decode f a).mul (Fp.decode f b)
  let (x, fl') := (Fp.decode f c).add p
  let (v, fl'') := x.round f .rne 0
  (v, fl ||| fl' ||| fl'')

/-- Whether a is less than b where -0 counts as less than +0 (R154). -/
def fpLess (f : FloatFmt) (a b : Nat) : Bool :=
  let x := Fp.decode f a
  let y := Fp.decode f b
  let c := x.cmp y
  decide (c < 0) || (decide (c = 0) && x.isNeg && !y.isNeg)

/-- VFMIN and VFMAX (R154); pick tells whether the first operand is the result. -/
def fpPick (pick : FloatFmt → Nat → Nat → Bool) (f : FloatFmt) (a b : Nat) : Flagged Nat :=
  let x := Fp.decode f a
  let y := Fp.decode f b
  let fl := if x.isSnan || y.isSnan then flagNV else 0
  if x.isNan && y.isNan then (f.nan, fl)
  else if x.isNan then (b, fl)
  else if y.isNan then (a, fl)
  else (if pick f a b then a else b, fl)

/-- VFMIN (R154). -/
def fpMin (f : FloatFmt) (a b : Nat) : Flagged Nat := fpPick fpLess f a b
/-- VFMAX (R154). -/
def fpMax (f : FloatFmt) (a b : Nat) : Flagged Nat := fpPick (fun f a b => fpLess f b a) f a b

/-- |a| with a sign; a NaN gives the canonical NaN, and NV when it is signalling (R154). -/
def fpSign (f : FloatFmt) (neg : Bool) (a : Nat) : Flagged Nat :=
  match Fp.decode f a with
  | .nan s => (f.nan, if s then flagNV else 0)
  | _ => (f.sign neg + a % 2 ^ (f.ebits + f.mbits), 0)

/-- The sign bit of an encoding. -/
def fpSignBit (f : FloatFmt) (a : Nat) : Bool := a / 2 ^ (f.ebits + f.mbits) % 2 == 1

/-- Converts between floating-point formats (R50). -/
def fpConvert (src dst : FloatFmt) (mode : RoundMode) (r a : Nat) : Flagged Nat := (Fp.decode src a).round dst mode r

/-- Converts an integer to a format (R52). -/
def fpOfInt (dst : FloatFmt) (mode : RoundMode) (r : Nat) (v : Int) : Flagged Nat := (Fp.ofInt v 0).round dst mode r

/-- Converts a number to an integer between lo and hi (R51). -/
def fpToInt (src : FloatFmt) (lo hi : Int) (mode : RoundMode) (r a : Nat) : Flagged Int :=
  match Fp.decode src a with
  | .nan _ => (0, flagNV)
  | .inf neg => (if neg then lo else hi, flagNV)
  | .zero _ => (0, 0)
  | .fin m e =>
    let (n, inexact) := roundAt mode r (decide (m < 0)) m.natAbs e 0
    let v : Int := if m < 0 then -(n : Int) else n
    if hi < v then (hi, flagNV) else if v < lo then (lo, flagNV)
    else (v, if inexact then flagNX else 0)

/-- rne of an exact number into a format, flags dropped (R41, R48, R294). -/
def rneBits (f : FloatFmt) (x : Fp) : Nat := (x.round f .rne 0).1

end Sys2Proof.Machine
end

