-- ==== Sys2Proof/Machine/Gen.lean ====
section
/-!
DEFINITION. Generator windows (R289 to R303): the validity of a descriptor, the four kinds, the bytes of a window, and
the rounding generator (R298).
-/

namespace Sys2Proof.Machine

/-- The four words of a generator descriptor (R290). -/
structure GenDesc where
  n : Nat
  w0 : Word
  w1 : Word
  w2 : Word
  w3 : Word
  deriving DecidableEq, Repr

/-- Descriptor n among a context's words (R290). -/
def genDesc (gens : SMap Word) (n : Nat) : GenDesc :=
  { n := n, w0 := gens.get (4 * n) 0, w1 := gens.get (4 * n + 1) 0, w2 := gens.get (4 * n + 2) 0,
    w3 := gens.get (4 * n + 3) 0 }

/-- Kind: 0 RAMP, 1 MASK, 2 ROT, 3 RAND (R290). -/
def GenDesc.kind (g : GenDesc) : Nat := bits g.w0 63 62
/-- Element format (R291). -/
def GenDesc.fmt (g : GenDesc) : Nat := bits g.w0 61 59
/-- RAND's output form (R291). -/
def GenDesc.sub (g : GenDesc) : Nat := bits g.w0 58 56
/-- Bytes of an element (R291). -/
def GenDesc.size (g : GenDesc) : Nat := if g.fmt < 2 then 4 else 2
/-- Bytes of a row. -/
def GenDesc.pitch (g : GenDesc) : Nat := bits g.w1 31 0
/-- ParamA (R292). -/
def GenDesc.a (g : GenDesc) : Nat := bits g.w1 63 32
/-- ParamB (R292). -/
def GenDesc.b (g : GenDesc) : Nat := bits g.w2 63 32
/-- ParamC (R292). -/
def GenDesc.c (g : GenDesc) : Nat := bits g.w2 31 0
/-- The floating-point format of codes 1 to 3 (R291). -/
def GenDesc.float (g : GenDesc) : FloatFmt := if g.fmt = 1 then fp32 else if g.fmt = 2 then bf16 else fp16

/-- Whether Kind, Fmt and Sub go together (R291). -/
def GenDesc.accepted (g : GenDesc) : Bool :=
  if g.kind ≤ 1 then decide (g.fmt ≤ 3) && g.sub == 0
  else if g.kind = 2 then (g.fmt == 1 || g.fmt == 2) && g.sub == 0
  else (g.sub == 0 && g.fmt == 0) || (g.sub == 1 && decide (1 ≤ g.fmt) && decide (g.fmt ≤ 3)) ||
    (g.sub == 2 && decide (g.fmt ≤ 3))

/-- Whether the fields that a kind requires to be 0 are 0 (R292). -/
def GenDesc.zeros (g : GenDesc) : Bool :=
  if g.kind = 0 then g.w3 == 0
  else if g.kind = 1 then
    g.w3 == 0 && (g.size == 4 || (decide (g.b < 65536) && decide (g.c < 65536)))
  else if g.kind = 2 then g.w3 == 0 && g.b == 0 && decide (g.c < 131072)
  else true

/-- Whether a descriptor serves a read by a core with scratchpad size S (R293). Reserved bits of W0 cannot be set
(R6, R290). -/
def GenDesc.valid (g : GenDesc) (padSize : Nat) : Bool :=
  g.accepted && g.zeros && g.pitch != 0 && g.pitch % g.size == 0 &&
    (g.kind != 2 || (g.c % 4 == 0 && decide (g.c + 256 ≤ padSize)))

/-- One round of Philox4x32 (R297). -/
def philoxRound (k0 k1 c0 c1 c2 c3 : Nat) : Nat × Nat × Nat × Nat :=
  let p := 0xD2511F53 * c0
  let q := 0xCD9E8D57 * c2
  ((q / 2 ^ 32) ^^^ c1 ^^^ k0, q % 2 ^ 32, (p / 2 ^ 32) ^^^ c3 ^^^ k1, p % 2 ^ 32)

/-- r rounds of Philox4x32 (R297). -/
def philoxRounds : Nat → Nat → Nat → Nat → Nat → Nat → Nat → List Nat
  | 0, _, _, c0, c1, c2, c3 => [c0, c1, c2, c3]
  | r + 1, k0, k1, c0, c1, c2, c3 =>
    let (d0, d1, d2, d3) := philoxRound k0 k1 c0 c1 c2 c3
    philoxRounds r ((k0 + 0x9E3779B9) % 2 ^ 32) ((k1 + 0xBB67AE85) % 2 ^ 32) d0 d1 d2 d3

/-- Philox4x32-10 (R297): the four words of a block. -/
def philox (k0 k1 c0 c1 c2 c3 : Nat) : List Nat := philoxRounds 10 k0 k1 c0 c1 c2 c3

/-- RAMP (R294). -/
def genRamp (g : GenDesc) (row col : Nat) : Nat :=
  let v : Nat := (g.a + g.b * row + g.c * col) % 2 ^ 32
  if g.fmt = 0 then v else rneBits g.float (Fp.ofInt (toSigned 32 v) 0)

/-- MASK (R295). -/
def genMask (g : GenDesc) (row col : Nat) : Nat :=
  if (col : Int) - (row : Int) ≤ toSigned 32 g.a then g.b else g.c

/-- π in units of 2^-200. -/
def piFixed : Nat := 5048344754617993871973410141242436836214643421488662971535368

/-- Σ of the cosine series from term n down to 0 in units of 2^-200, Horner's form; t2 is the square of the angle. -/
def cosSeries (t2 : Nat) : Nat → Int → Int
  | 0, acc => acc
  | n + 1, acc => cosSeries t2 n (Int.ofNat (2 ^ 200) - Int.ofNat t2 * acc / Int.ofNat (2 ^ 200 * ((2 * n + 1) * (2 * n + 2))))

/-- round-half-away-from-zero(2^30 × cos(2πj ÷ 1024)) for j up to 256, by the series (R296). -/
def cosQuarter (j : Nat) : Int :=
  if j = 256 then 0
  else
    let t := piFixed * j / 512
    (cosSeries (t * t / 2 ^ 200) 30 (Int.ofNat (2 ^ 200)) + Int.ofNat (2 ^ 169)) / Int.ofNat (2 ^ 170)

/-- T[j] of R296 by the symmetries of the cosine. -/
def cosTable (j : Nat) : Int :=
  let j := j % 1024
  if j ≤ 256 then cosQuarter j
  else if j ≤ 512 then -cosQuarter (512 - j)
  else if j ≤ 768 then -cosQuarter (j - 512)
  else cosQuarter (1024 - j)

/-- ROT (R296): freq is the frequency table's entry reader. -/
def genRot (g : GenDesc) (freq : Nat → Nat) (row col : Nat) : Nat :=
  let pos := (row + g.a) % 2 ^ 32
  let ph := pos * freq (col / 2 % 64) % 2 ^ 32
  let ph := if col % 2 = 1 then (ph + 2 ^ 32 - 2 ^ 30) % 2 ^ 32 else ph
  let k := ph / 2 ^ 22
  let f := ph % 2 ^ 22
  let v : Int := cosTable k + (cosTable (k + 1) - cosTable k) * Int.ofNat f / Int.ofNat (2 ^ 22)
  rneBits g.float (Fp.ofInt v (-30))

/-- RAND (R297). -/
def genRand (g : GenDesc) (row col : Nat) : Nat :=
  let e := row * (g.pitch / g.size) + col
  let q := e / 4
  let x := (philox g.c g.b (q % 2 ^ 32) (q / 2 ^ 32) g.n 0).getD (e % 4) 0
  if g.sub = 0 then x
  else if g.sub = 1 then
    let sh : Nat := if g.fmt = 1 then 8 else if g.fmt = 2 then 24 else 21
    rneBits g.float (Fp.ofInt (Int.ofNat (x / 2 ^ sh)) (Int.ofNat sh - 32))
  else
    let one := if g.fmt = 0 then 1 else rneBits g.float (.fin 1 0)
    if x < g.a then one else 0

/-- gen(row, col), encoded in Fmt (R289). -/
def genElem (g : GenDesc) (freq : Nat → Nat) (row col : Nat) : Nat :=
  if g.kind = 0 then genRamp g row col
  else if g.kind = 1 then genMask g row col
  else if g.kind = 2 then genRot g freq row col
  else genRand g row col

/-- The byte of a window at a virtual address (R289). -/
def genByte (g : GenDesc) (freq : Nat → Nat) (va : Nat) : Nat :=
  let o := (va + 2 ^ 48 - bits g.w0 47 0) % 2 ^ 48
  genElem g freq (o / g.pitch) (o % g.pitch / g.size) / 256 ^ (o % g.size) % 256

/-- The n bytes of a window from a virtual address, least significant first. -/
def genBytes (g : GenDesc) (freq : Nat → Nat) (va : Nat) : Nat → Nat
  | 0 => 0
  | n + 1 => genByte g freq va + 256 * genBytes g freq (va + 1) n

/-- The frequency table of core k for a descriptor (R296). R370 names the reads of LS and of engines, and not the read that the unit
makes of its own table: in the model a poisoned word of the table gives its bytes, and no fault (log 80). -/
def State.freqOf (s : State) (k : Nat) (g : GenDesc) (i : Nat) : Nat := s.padRead k (g.c + 4 * i) 4

/-- n bytes that descriptor words gens give at a virtual address for core k; none where the descriptor is invalid (R293). -/
def State.genRead (s : State) (k : Nat) (gens : SMap Word) (d va n : Nat) : Option Nat :=
  let g := genDesc gens d
  if g.valid (s.padSize k) then some (genBytes g (s.freqOf k g) va n) else none

/-- Whether GEN7 holds a RAND descriptor (R45). -/
def Ctx.canDraw (c : Ctx) : Bool := (genDesc c.gens 7).kind == 3

/-- Draw number D of the rounding generator (R298). -/
def drawAt (c : Ctx) (D : Nat) : Nat :=
  let g := genDesc c.gens 7
  let x := (philox g.c g.b (D / 8 % 2 ^ 32) (D / 8 / 2 ^ 32 % 2 ^ 32) 7 1).getD (D / 2 % 4) 0
  if D % 2 = 0 then x % 65536 else x / 65536

/-- The i-th of the draws that follow GEN7.ParamD (R298). -/
def Ctx.draw (c : Ctx) (i : Nat) : Nat := drawAt c (((c.gens.get 31 0).toNat + i) % 2 ^ 64)

/-- GEN7.ParamD after n draws; it is no CSR write (R298). -/
def Ctx.drew (c : Ctx) (n : Nat) : Ctx :=
  { c with gens := c.gens.put 0 31 (c.gens.get 31 0 + BitVec.ofNat 64 n) }

/-- A write to a GEN word: reserved bits of W0 read 0, Epoch advances, and the prefetched vectors that lie in windows are
dropped (R299). -/
def Ctx.setGen (c : Ctx) (i : Nat) (v : Word) : Ctx :=
  let v := if i % 4 = 0 then v &&& 0xFF00FFFFFFFFFFFF#64 else v
  { c with gens := c.gens.put 0 i v, genEpoch := c.genEpoch + 1
           streams := c.streams.mapVal fun _ st =>
             { st with fetched := st.fetched.filter fun p => !st.windowed.contains p.1, windowed := [] } }

end Sys2Proof.Machine
end

