-- ==== Sys2Proof/Machine/Operands.lean ====
section
/-!
DEFINITION. What an instruction reads and writes, the checking scoreboard (R88), the operand forms of the scalar formats
(R69, R70, R100) and the hints of R77.
-/

namespace Sys2Proof.Machine

/-- The registers an instruction reads and writes, and the fixed latency of its writes; 0 for variable latency (R83). -/
structure Use where
  reads : List (RegFile × Nat) := []
  writes : List (RegFile × Nat) := []
  lat : Nat := 0
  deriving DecidableEq, Repr

/-- Code of a register file in TVAL of STALL (R88). -/
def RegFile.code : RegFile → Nat
  | .x => 0 | .v => 1 | .m => 2

/-- Whether a pending write to a register takes effect after t (R88). -/
def Ctx.pendsAfter (c : Ctx) (t : Nat) (r : RegFile × Nat) : Bool :=
  !discards r.1 r.2 && c.pend.any fun p => p.file == r.1 && p.reg == r.2 && decide (t < p.eff)

/-- The least register of a list that f accepts: x before v before m, then by number (R88). -/
def leastReg (l : List (RegFile × Nat)) : Option Nat :=
  l.foldl (fun acc r => let n := 32 * r.1.code + r.2
                        match acc with | none => some n | some m => some (min m n)) none

/-- TVAL of the STALL trap an instruction meets, if the checking scoreboard is on and finds one (R88). -/
def Ctx.hazard (c : Ctx) (u : Use) : Option Word :=
  if !c.stlchk then none
  else match leastReg (u.reads.filter (c.pendsAfter c.pos)) with
    | some n => some (BitVec.ofNat 64 n)
    | none =>
      if u.lat = 0 then none
      else (leastReg (u.writes.filter (c.pendsAfter (c.pos + u.lat)))).map fun n => BitVec.ofNat 64 (128 + n)

/-- Runs an instruction unless the checking scoreboard traps it (R78 step 3, R88). -/
def State.issue (s : State) (u : Use) (run : State → State) : State :=
  match s.me.hazard u with
  | some t => s.trap 5 t
  | none => run s

/-- Runs an instruction that a service core lacks: there it is illegal (R19, R76). -/
def State.onCompute (s : State) (i : Instr) (run : State → State) : State :=
  if isSvc s.focus then s.illegal i else run s

/-- x register n as an operand. -/
def useX (n : Reg) : RegFile × Nat := (.x, n.toNat)
/-- The even register of a pair. -/
def pairReg (p : Pair) : Nat := 2 * p.toNat

/-- An instruction that only advances: a hint (R77). -/
def State.hint (s : State) (stl : Stall) : State := s.done stl id

/-- The four registers of a request's two pairs (R73, R241). -/
def usePairs (p q : Pair) : List (RegFile × Nat) :=
  [(.x, pairReg p), (.x, pairReg p + 1), (.x, pairReg q), (.x, pairReg q + 1)]

/-- x[rd] := f (x[rs1], x[rs2]) with a fixed latency; with rd = 0 a hint (R77, R100, R103). -/
def State.aluR (s : State) (lat : Nat) (f : Word → Word → Word) (rd rs1 rs2 : Reg) (stl : Stall) : State :=
  if rd = 0 then s.hint stl
  else s.issue { reads := [useX rs1, useX rs2], writes := [useX rd], lat := lat } fun s =>
    s.done stl fun c => c.fixX rd.toNat lat (f (c.rx rs1.toNat) (c.rx rs2.toNat))

/-- x[rd] := f (x[rs1], x[rs2]) with variable latency; with rd = 0 a hint (R77, R103). -/
def State.aluVar (s : State) (f : Word → Word → Word) (rd rs1 rs2 : Reg) (stl : Stall) : State :=
  if rd = 0 then s.hint stl
  else s.issue { reads := [useX rs1, useX rs2], writes := [useX rd] } fun s =>
    s.done stl fun c => c.varX rd.toNat (f (c.rx rs1.toNat) (c.rx rs2.toNat))

/-- x[rd] := f x[rs1] with latency 1; with rd = 0 a hint (R77, R102, R104). -/
def State.aluI (s : State) (f : Word → Word) (rd rs1 : Reg) (stl : Stall) : State :=
  if rd = 0 then s.hint stl
  else s.issue { reads := [useX rs1], writes := [useX rd], lat := 1 } fun s =>
    s.done stl fun c => c.fixX rd.toNat 1 (f (c.rx rs1.toNat))

/-- x[rd] := a value made from the pc, with latency 1; with rd = 0 a hint (R77, R105). -/
def State.aluU (s : State) (f : Word → Word) (rd : Reg) (stl : Stall) : State :=
  if rd = 0 then s.hint stl
  else s.issue { writes := [useX rd], lat := 1 } fun s =>
    s.done stl fun c => c.fixX rd.toNat 1 (f c.pc)

/-- A conditional branch: to pc + 4 × sext(off) when the condition holds (R70, R106). -/
def State.branchIf (s : State) (cond : Word → Word → Bool) (rs1 rs2 : Reg) (off : BitVec 12) (stl : Stall) : State :=
  s.issue { reads := [useX rs1, useX rs2] } fun s =>
    let c := s.me
    if cond (c.rx rs1.toNat) (c.rx rs2.toNat)
    then s.setMe { c.goto stl (c.pc + (off.signExtend 64 <<< 2)) with branch := some c.pc }
    else s.setMe (c.next stl)

/-- The value of bits [31:0], sign-extended (R104). -/
def sext32 (w : Word) : Word := (w.setWidth 32).signExtend 64

/-- An operation on the low 32 bits of two values, its result sign-extended (R104). -/
def on32 (f : BitVec 32 → BitVec 32 → BitVec 32) (a b : Word) : Word :=
  (f (a.setWidth 32) (b.setWidth 32)).signExtend 64

end Sys2Proof.Machine
end

