-- ==== Sys2Proof/Machine/Csr.lean ====
section
/-!
DEFINITION. The CSRs (R21, R81, R114 to R120 and the rules of each), the CSR forms of major SYSTEM, and the window of a
service context on a compute context (R334).
-/

namespace Sys2Proof.Machine

/-- Whether an address lies in lo … hi. -/
def inRange (a lo hi : Nat) : Bool := decide (lo ≤ a) && decide (a ≤ hi)

/-- Addresses that only compute cores have: GEN, SDOUT, STRCTL, SDESC, tags, CHTAB (R118). -/
def csrComputeOnly (a : Nat) : Bool :=
  inRange a 0x010 0x02F || a == 0x030 || a == 0x038 || inRange a 0x040 0x05F || inRange a 0x420 0x421 ||
  inRange a 0x440 0x47F || inRange a 0x840 0x87F

/-- Addresses that every core has (R118). -/
def csrEverywhere (a : Nat) : Bool :=
  inRange a 0x001 0x002 || inRange a 0x400 0x405 || a == 0x408 || inRange a 0x410 0x411 || inRange a 0x800 0x804 ||
  inRange a 0x810 0x813 || inRange a 0x820 0x822

/-- Whether a core has a CSR (R118). -/
def csrAssigned (svc : Bool) (a : Nat) : Bool :=
  csrEverywhere a || (if svc then a == 0x830 else csrComputeOnly a)

/-- Whether a CSR is held per core, cluster, die or package, and not per context (R118). -/
def csrShared (a : Nat) : Bool :=
  inRange a 0x410 0x411 || inRange a 0x420 0x421 || inRange a 0x440 0x47F || inRange a 0x810 0x813 ||
  inRange a 0x820 0x822 || inRange a 0x840 0x87F

/-- Read-only classes: bit 10 of the address (R81). -/
def csrReadOnly (a : Nat) : Bool := a / 1024 % 2 == 1
/-- Supervisor classes: bit 11 of the address (R81). -/
def csrSupervisor (a : Nat) : Bool := a / 2048 % 2 == 1

/-! ### Fields -/

/-- HWID (R21). -/
def State.hwid (s : State) (k c : Nat) : Word :=
  BitVec.ofNat 64 (s.vdns.length * 2 ^ 25 + (if isSvc k then 2 ^ 24 else 0)
    + (if !isSvc k && isWide (clusterOf k) then 2 ^ 23 else 0) + s.pkg * 2 ^ 16 + hwid16 k c)

/-! ### Reading and writing -/

/-- A per-context CSR of context c of core k, whose state is x and whose Eff is eff. -/
def State.csrCtx (s : State) (k c : Nat) (x : Ctx) (eff a : Nat) : Word :=
  if a = 0x001 then x.fflags.setWidth 64
  else if a = 0x002 then (if x.stlchk then 1 else 0)
  else if inRange a 0x010 0x02F then x.gens.get (a - 0x010) 0
  else if a = 0x030 then x.sdout
  else if a = 0x038 then x.strctl
  else if inRange a 0x040 0x05F then x.sdesc.get (a - 0x040) 0
  else if a = 0x400 then s.hwid k c
  else if a = 0x401 then x.tile.setWidth 64
  else if a = 0x402 then x.lid.setWidth 64
  else if a = 0x403 then prioWord eff x
  else if a = 0x404 then (if x.preq then 1 else 0)
  else if a = 0x405 then x.predl.setWidth 64
  else if a = 0x408 then x.genEpoch
  else if a = 0x800 then x.status.setWidth 64
  else if a = 0x801 then x.asid.setWidth 64
  else if a = 0x802 then x.cause.setWidth 64
  else if a = 0x803 then x.epc
  else if a = 0x804 then x.tval
  else if a = 0x830 then x.ctxwin.setWidth 64
  else 0

/-- A CSR that contexts share, as core k holds it. -/
def State.csrShare (s : State) (k a : Nat) : Word :=
  let co := s.core k
  let cl := s.cluster (clusterOf k)
  if a = 0x410 then BitVec.ofNat 64 s.ptc
  else if a = 0x411 then BitVec.ofNat 64 (s.cycles.get (vdnOf k) 0)
  else if a = 0x420 then bitMask 64 fun n => (co.tags.get n {}).ready
  else if a = 0x421 then bitMask 64 fun n => (co.tags.get n {}).armed
  else if inRange a 0x440 0x47F then (co.tags.get (a - 0x440) {}).word
  else if inRange a 0x810 0x813 then co.regn.get (a - 0x810) 0
  else if a = 0x820 then cl.trappair
  else if a = 0x821 then cl.parkn.setWidth 64
  else if a = 0x822 then cl.parkt.setWidth 64
  else if inRange a 0x840 0x87F then co.chtab.get (a - 0x840) 0
  else 0

/-- The value of a CSR for context c of core k. -/
def State.csrRead (s : State) (k c a : Nat) : Word :=
  if csrShared a then s.csrShare k a else s.csrCtx k c (s.ctx k c) (s.effOf k c) a

/-- A write to a per-context CSR: reserved bits and read-only fields keep their values (R6, R116). -/
def Ctx.csrSet (x : Ctx) (svc : Bool) (a : Nat) (v : Word) : Ctx :=
  if a = 0x001 then { x with fflags := v.setWidth 4 }
  else if a = 0x002 then { x with stlchk := bit v 0 }
  else if inRange a 0x010 0x02F then x.setGen (a - 0x010) v
  else if a = 0x030 then { x with sdout := v &&& 0xFFFFFFFF8001FFFF#64 }
  else if a = 0x038 then { x with dryZero := bit v 16 }
  else if inRange a 0x040 0x05F then
    let j := (a - 0x040) % 4
    let mask : Word := if j = 0 then 0x0003FFFFFFFFFFFF#64 else if j = 1 then 0x0000FFFFFFFFFFFF#64
      else if j = 2 then 0xFFFFFFFFFFFFFFFF#64 else 3
    { x with sdesc := x.sdesc.put 0 (a - 0x040) (v &&& mask) }
  else if a = 0x800 then (if svc then { x with status := v.setWidth 3 } else x)
  else if a = 0x801 then { x with asid := v.setWidth 13 }
  else if a = 0x802 then { x with cause := v.setWidth 6 }
  else if a = 0x803 then { x with epc := v &&& ~~~(3 : Word) }
  else if a = 0x804 then { x with tval := v }
  else if a = 0x830 then (if svc then { x with ctxwin := v.setWidth 17 } else x)
  else x

/-- TRAPPAIR after a write: an entry with Own = 0 that names an unmapped VDN stays as it was (R330). -/
def State.pairWritten (s : State) (old v : Word) : Word :=
  let entry (j : Nat) : Nat :=
    let e := bits v (16 * j + 15) (16 * j)
    if e / 32768 = 0 && !s.mapped (e / 64 % 32) then bits old (16 * j + 15) (16 * j) else e &&& 0x87FF
  BitVec.ofNat 64 (entry 0 + 2 ^ 16 * entry 1 + 2 ^ 32 * entry 2 + 2 ^ 48 * entry 3)

/-- A core after a write to CHTABn: no effect where R180 forbids it. -/
def Core.setChannel (co : Core) (n : Nat) (v : Word) : Core :=
  let v := v &&& ~~~(3 : Word)
  let old := co.chtab.get n 0
  let table := co.chtab.put 0 n v
  let moves := chPart old != chPart v || chEn old != chEn v
  if (chEn v && chPart v == 0) || decide (256 < partSum table) || (moves && !co.queue.isEmpty) then co
  else { co with chtab := table, due := co.due.filter fun d => d.1 != n }

/-- A write to a CSR that contexts share. -/
def State.csrShareSet (s : State) (k a : Nat) (v : Word) : State :=
  if inRange a 0x810 0x813 then
    s.updCore k fun co => { co with regn := co.regn.put 0 (a - 0x810) (v &&& 0xFFFFFFFFFFE00000#64) }
  else if a = 0x820 then
    s.updCluster (clusterOf k) fun cl => { cl with trappair := s.pairWritten cl.trappair v }
  else if a = 0x821 then s.updCluster (clusterOf k) fun cl => { cl with parkn := (v &&& 0x13F).setWidth 9 }
  else if a = 0x822 then s.updCluster (clusterOf k) fun cl => { cl with parkt := v.setWidth 32 }
  else if inRange a 0x840 0x87F then s.updCore k fun co => co.setChannel (a - 0x840) v
  else s

/-- A write to a CSR by context c of core k, its access apart (R116, R117). -/
def State.csrWrite (s : State) (k c a : Nat) (v : Word) : State :=
  if csrShared a then s.csrShareSet k a v else s.updCtx k c fun x => x.csrSet (isSvc k) a v

/-! ### The CSR forms (R115, R116) -/

/-- What a CSR form makes of the old value and its source. -/
inductive CsrOp where
  | w | s | c
  deriving DecidableEq, Repr

/-- The new value (R116). -/
def CsrOp.apply (op : CsrOp) (old src : Word) : Word :=
  match op with
  | .w => src
  | .s => old ||| src
  | .c => old &&& ~~~src

/-- A CSR form (R81, R116): `zero` says that the source field is 0, so that the S and C forms do not write. -/
def State.csrForm (s : State) (i : Instr) (op : CsrOp) (rd : Reg) (csr : BitVec 12) (reads : List (RegFile × Nat))
    (src : Ctx → Word) (zero : Bool) (stl : Stall) : State :=
  let a := csr.toNat
  let writes := op == .w || !zero
  if !csrAssigned (isSvc s.focus) a || (writes && csrReadOnly a) then s.illegal i
  else if csrSupervisor a && !s.me.sup then s.privilege i
  else s.issue { reads := reads, writes := if rd = 0 then [] else [useX rd] } fun s =>
    let old := s.csrRead s.focus s.active a
    let v := op.apply old (src s.me)
    let s' := if writes then s.csrWrite s.focus s.active a v else s
    s'.done stl fun c => if rd = 0 then c else c.varX rd.toNat old

/-- A CSR form with a register source. -/
def State.csrReg (s : State) (i : Instr) (op : CsrOp) (rd rs1 : Reg) (csr : BitVec 12) (stl : Stall) : State :=
  s.csrForm i op rd csr [useX rs1] (fun c => c.rx rs1.toNat) (rs1 == 0) stl

/-- A CSR form with a 5-bit immediate. -/
def State.csrImm (s : State) (i : Instr) (op : CsrOp) (rd : Reg) (csr : BitVec 12) (uimm : BitVec 5) (stl : Stall) :
    State :=
  s.csrForm i op rd csr [] (fun _ => uimm.setWidth 64) (uimm == 0) stl

/-- CSRRW (R116). -/
def execCsrrw (rd rs1 : Reg) (csr : BitVec 12) (stl : Stall) (s : State) : Host.Outcome State Fault Refusal :=
  .next (s.csrReg (.csrrw rd rs1 csr stl) .w rd rs1 csr stl)
/-- CSRRS (R116). -/
def execCsrrs (rd rs1 : Reg) (csr : BitVec 12) (stl : Stall) (s : State) : Host.Outcome State Fault Refusal :=
  .next (s.csrReg (.csrrs rd rs1 csr stl) .s rd rs1 csr stl)
/-- CSRRC (R116). -/
def execCsrrc (rd rs1 : Reg) (csr : BitVec 12) (stl : Stall) (s : State) : Host.Outcome State Fault Refusal :=
  .next (s.csrReg (.csrrc rd rs1 csr stl) .c rd rs1 csr stl)
/-- CSRRWI (R116). -/
def execCsrrwi (rd : Reg) (csr : BitVec 12) (uimm : BitVec 5) (stl : Stall) (s : State) :
    Host.Outcome State Fault Refusal := .next (s.csrImm (.csrrwi rd csr uimm stl) .w rd csr uimm stl)
/-- CSRRSI (R116). -/
def execCsrrsi (rd : Reg) (csr : BitVec 12) (uimm : BitVec 5) (stl : Stall) (s : State) :
    Host.Outcome State Fault Refusal := .next (s.csrImm (.csrrsi rd csr uimm stl) .s rd csr uimm stl)
/-- CSRRCI (R116). -/
def execCsrrci (rd : Reg) (csr : BitVec 12) (uimm : BitVec 5) (stl : Stall) (s : State) :
    Host.Outcome State Fault Refusal := .next (s.csrImm (.csrrci rd csr uimm stl) .c rd csr uimm stl)

/-! ### CTXWIN (R334) -/

/-- A window's target: a context on its core, or one of a saved coach (its slot), with its Eff. -/
inductive WinTarget where
  | live (x : Ctx) (eff : Nat)
  | saved (lid : BitVec 16) (slot : Nat) (x : Ctx) (eff : Nat)
  deriving DecidableEq, Repr

/-- The saved coach of a cluster that holds a trapped context in a slot. Where two do, the spec does not say which one a window, RESUME or
KILL reaches: the model takes the first in the cluster's list (log 81). -/
def Cluster.savedTrapped (cl : Cluster) (slot : Nat) : Option (Coach × Ctx) :=
  cl.coaches.findSome? fun co =>
    if co.state = .saved then
      match co.saved.ctxs.find? slot with
      | some x => if x.run = .trapped then some (co, x) else none
      | none => none
    else none

/-- The trapped context that a window, RESUME or KILL reaches: on the core, or in a saved coach (R127, R334). -/
def State.trappedAt (s : State) (k c : Nat) : Option WinTarget :=
  let x := s.ctx k c
  if x.run = .trapped then some (.live x (s.effOf k c))
  else ((s.cluster (clusterOf k)).savedTrapped (slotOf k c)).map fun p =>
    .saved p.1.lid (slotOf k c) p.2 (s.savedEff (clusterOf k) p.1 (slotOf k c) p.2)

/-- A target's state. -/
def WinTarget.ctx : WinTarget → Ctx
  | .live x _ => x
  | .saved _ _ x _ => x

/-- A target's Eff. -/
def WinTarget.eff : WinTarget → Nat
  | .live _ e => e
  | .saved _ _ _ e => e

/-- A saved coach with a saved context changed by f. -/
def Coach.updSaved (co : Coach) (slot : Nat) (f : Ctx → Ctx) : Coach :=
  { co with saved := { co.saved with ctxs := co.saved.ctxs.map fun p => if p.1 = slot then (p.1, f p.2) else p } }

/-- The state with a window's target changed by f; the save area of a saved one changes with it (R334). -/
def State.updTarget (s : State) (k c : Nat) (t : WinTarget) (f : Ctx → Ctx) : State :=
  match t with
  | .live _ _ => s.updCtx k c f
  | .saved lid slot _ _ =>
    (s.updCluster (clusterOf k) fun cl =>
      { cl with coaches := cl.coaches.map fun co =>
          if co.lid == lid && co.state == .saved then co.updSaved slot f else co }).rewriteRecord (clusterOf k) lid slot

/-- The 64-bit word at a window offset, and how a write changes the state; none where the access faults (R334). -/
def State.window (s : State) (off : Nat) : Option (Word × (Word → State)) :=
  let x := s.me
  let k := bits (x.ctxwin.setWidth 64) 15 3
  let c := x.ctxwin.toNat % 8
  let o := (off - 65536) / 8 * 8
  if !x.ctxwin.getLsbD 16 || !s.mapped (vdnOf k) then none
  else if 0x8000 ≤ o ∧ csrShared ((o - 0x8000) / 8) ∧ csrAssigned false ((o - 0x8000) / 8) then
    let a := (o - 0x8000) / 8
    some (s.csrShare k a, fun v => s.csrShareSet k a v)
  else match s.trappedAt k c with
    | none => none
    | some t =>
      let y := t.ctx
      if o < 0x100 then some (y.rx (o / 8), fun v => s.updTarget k c t fun z => z.setX (o / 8) v)
      else if o < 0x900 then
        let n := (o - 0x100) / 64
        let j := (o - 0x100) / 8 % 8
        some (BitVec.ofNat 64 (elem 64 (y.rv n) j), fun v => s.updTarget k c t fun z =>
          z.setV n (mkVec 64 fun i => if i = j then v.toNat else elem 64 (z.rv n) i))
      else if o < 0x940 then
        some ((y.rm ((o - 0x900) / 8)).setWidth 64,
          fun v => s.updTarget k c t fun z => z.setM ((o - 0x900) / 8) (v.setWidth 16))
      else if o < 0x980 then
        some (BitVec.ofNat 64 (((y.streams.find? ((o - 0x940) / 8)).map Stream.cursor).getD 0 % 2 ^ 32), fun _ => s)
      else if o < 0x8000 then none
      else
        let a := (o - 0x8000) / 8
        if !csrAssigned false a then none
        else some (s.csrCtx k c y t.eff a,
          fun v => if csrReadOnly a then s else s.updTarget k c t fun z => z.csrSet false a v)

/-- A window read of n bytes (4 or 8, aligned). -/
def State.windowRead (s : State) (off n : Nat) : Option Nat :=
  (s.window off).map fun p => if n = 8 then p.1.toNat else bits p.1 (8 * (off % 8) + 31) (8 * (off % 8))

/-- A window write of n bytes (4 or 8, aligned). -/
def State.windowWrite (s : State) (off n v : Nat) : Option State :=
  (s.window off).map fun p =>
    if n = 8 then p.2 (BitVec.ofNat 64 v)
    else
      let lo := bits p.1 31 0
      let hi := bits p.1 63 32
      p.2 (BitVec.ofNat 64 (if off % 8 = 0 then v % 2 ^ 32 + 2 ^ 32 * hi else lo + 2 ^ 32 * (v % 2 ^ 32)))

/-! ### The rows of CSR writes -/

/-- A write row of the table: the agenda names the register and the value. -/
def State.csrRow (s : State) (k c a : Nat) (v : Word) : State :=
  if s.hasCtx k c && csrAssigned (isSvc k) a && !csrReadOnly a then s.pop.csrWrite k c a v else s.pop

/-- CHTAB_WRITE (R180). -/
def execChtabWrite (s : State) : Host.Outcome State Fault Refusal :=
  match s.agenda with
  | .chtabWrite k ch v :: _ => .next (s.csrRow k 0 (0x840 + ch % 64) v)
  | _ => .next s
/-- GEN_WRITE (R299). -/
def execGenWrite (s : State) : Host.Outcome State Fault Refusal :=
  match s.agenda with
  | .genWrite k c i v :: _ => .next (s.csrRow k c (0x010 + i % 32) v)
  | _ => .next s
/-- STLCHK_WRITE (R87). -/
def execStlchkWrite (s : State) : Host.Outcome State Fault Refusal :=
  match s.agenda with
  | .stlchkWrite k c v :: _ => .next (s.csrRow k c 0x002 v)
  | _ => .next s
/-- FFLAGS_ACCESS: the access follows every earlier flag-setting instruction, and later flags are ORed in (R49). -/
def execFflagsAccess (s : State) : Host.Outcome State Fault Refusal :=
  match s.agenda with
  | .fflagsAccess k c v :: _ => .next (s.csrRow k c 0x001 v)
  | _ => .next s
/-- ASID_WRITE (R120). -/
def execAsidWrite (s : State) : Host.Outcome State Fault Refusal :=
  match s.agenda with
  | .asidWrite k c v :: _ => .next (s.csrRow k c 0x801 v)
  | _ => .next s
/-- TRAPPAIR_WRITE (R330). -/
def execTrappairWrite (s : State) : Host.Outcome State Fault Refusal :=
  match s.agenda with
  | .trappairWrite cl v :: _ => .next (s.csrRow (svcOf cl) 0 0x820 v)
  | _ => .next s
/-- CTXWIN_WRITE (R334). -/
def execCtxwinWrite (s : State) : Host.Outcome State Fault Refusal :=
  match s.agenda with
  | .ctxwinWrite k c v :: _ => .next (s.csrRow k c 0x830 v)
  | _ => .next s
/-- REGN_WRITE (R345). -/
def execRegnWrite (s : State) : Host.Outcome State Fault Refusal :=
  match s.agenda with
  | .regnWrite k n v :: _ => .next (s.csrRow k 0 (0x810 + n % 4) v)
  | _ => .next s
/-- CSR_WRITE (R116). -/
def execCsrWrite (s : State) : Host.Outcome State Fault Refusal :=
  match s.agenda with
  | .csrWrite k c a v :: _ => .next (s.csrRow k c a v)
  | _ => .next s

end Sys2Proof.Machine
end

