-- ==== Sys2Proof/Machine/Access.lean ====
section
/-!
DEFINITION. What one access reads or writes at its place (R110 to R113, R277, R293, R334, R370), the accesses of several
elements (R148, R149), and the vectors that a read stream fetches ahead (R165, R172).
-/

namespace Sys2Proof.Machine

/-! ### One access -/

/-- Whether a place is in a window on a compute context. -/
def Place.isWindow : Place → Bool
  | .window _ => true
  | _ => false

/-- Whether a place is in a generator window. -/
def Place.isGen : Place → Bool
  | .gen _ => true
  | _ => false

/-- A value read, or what stops the read. -/
inductive Got where
  | val (v : Nat) (s : State)
  | stop (s : State)
  deriving DecidableEq, Repr

/-- A read of n bytes at a place by the issuing context: the j-th remote read of its instruction (R112, R277, R293, R334,
R370). A remote read is asked for once and waits; its answer stands in `remoteVals`. -/
def State.readPlace (s : State) (a : Word) (n j : Nat) (p : Place) : Got :=
  match p with
  | .gen d =>
    match s.genRead s.focus s.me.gens d a.toNat n with
    | some v => .val v (s.noteRead a p)
    | none => .stop ((s.looked .flat a).trap 3 a)
  | .window off =>
    if n < 4 ∨ n > 8 then .stop (s.trap 2 a)
    else match s.windowRead off n with
      | some v => .val v s
      | none => .stop (s.trap 3 a)
  | .remote q =>
    match s.me.remoteVals[j]? with
    | some v => .val v.toNat s
    | none =>
      if s.me.remoteAsked then .stop (s.wait .remote)
      else
        let s := s.looked .flat a
        .stop ((s.send q (.flatLoad (s.netSrc 0) s.me.asid.toNat a.toNat n)).setMe
          { s.me with remoteAsked := true, askedVa := a.toNat, run := .waiting .remote })
  | .mem pa =>
    if s.placePoisoned p n then .stop (s.poisonTrap p a) else .val (s.memRead pa n) (s.noteRead a p)
  | .pad k off =>
    if s.placePoisoned p n then .stop (s.poisonTrap p a) else .val (s.padRead k off n) s
  | .svc off =>
    if s.placePoisoned p n then .stop (s.poisonTrap p a) else .val (s.padRead s.focus off n) s

/-- A write of n bytes at a place by the issuing context; none when a window refuses it (R112, R277, R334). A store to
another package is sent and its acknowledgement is awaited by the fences of R141. -/
def State.writePlace (s : State) (a : Word) (n v : Nat) (p : Place) : Option State :=
  match p with
  | .window off => s.windowWrite off n v
  | .remote q =>
    let s := s.looked .flat a
    let c := s.me
    let ord := match c.stores.getLast? with
      | some r => if r.pos = c.pos then r.ord else c.storeIds
      | none => c.storeIds
    some ((s.send q (.flatStore (s.netSrc 0) c.asid.toNat a.toNat c.storeIds (toBytes n v))).setMe
      { c with stores := c.stores ++ [{ id := c.storeIds, asid := c.asid, va := a.toNat, ord := ord, pos := c.pos, pc := c.pc }], storeIds := c.storeIds + 1 })
  | p => some (s.placeWrite a p n v)

/-! ### Accesses of several elements -/

/-- Elements with their addresses and places, or the condition that stops the access and the address that meets it (R148). -/
inductive Reaches where
  | ok (l : List (Nat × Word × Place))
  | bad (a : Word) (r : Reach)
  deriving DecidableEq, Repr

/-- Whether a read of a place needs an invalid generator descriptor (R293). -/
def State.genBad (s : State) : Place → Bool
  | .gen d => !(genDesc s.me.gens d).valid (s.padSize s.focus)
  | _ => false

/-- The rank of what one element meets: a translation still to be looked up, an access fault, GENWRITE, an absent page, tokens to
wait for (R112, R148). -/
def State.rankOf (s : State) (r : Reach) : Nat :=
  match r with
  | .miss _ _ => 0
  | .trap 3 _ => 1
  | .ok p => if s.genBad p then 1 else 5
  | .trap _ _ => 2
  | .absent _ => 3
  | .line _ _ _ => 4

/-- An invalid descriptor as the access fault it is (R293). -/
def State.reachOrGen (s : State) (r : Reach) (a : Word) : Reach :=
  match r with
  | .ok p => if s.genBad p then .trap 3 a else .ok p
  | r => r

/-- The places of the elements of an access of the issuing context, n bytes each: misalignment over all elements first,
then the least rank, of the lowest element (R148). -/
def State.reachElems (s : State) (mode : AddrMode) (acc : Access) (n : Nat) (elems : List (Nat × Word)) : Reaches :=
  match elems.find? fun p => p.2.toNat % n != 0 || (mode == .clust && n == 8) with
  | some p => .bad p.2 (.trap 2 p.2)
  | none =>
    let rs := elems.map fun p => (p.1, p.2, s.withTokens (vdnOf s.focus) acc (s.reachFor s.focus s.me.asid s.me.sup mode acc p.2)
      (some (s.focus, s.active)))
    match (List.range 5).findSome? fun k => rs.find? fun r => s.rankOf r.2.2 == k with
    | some r => .bad r.2.1 (s.reachOrGen r.2.2 r.2.1)
    | none => .ok (rs.filterMap fun r => match r.2.2 with | .ok p => some (r.1, r.2.1, p) | _ => none)

/-- The values of elements, or what stops the read. -/
inductive GotAll where
  | vals (l : List (Nat × Nat)) (s : State)
  | stop (s : State)
  deriving DecidableEq, Repr

/-- Whether a place is another package's. -/
def Place.isRemote : Place → Bool
  | .remote _ => true
  | _ => false

/-- Reads elements of n bytes in ascending order; j counts the remote reads so far. -/
def State.readElems (s : State) (n j : Nat) : List (Nat × Word × Place) → GotAll
  | [] => .vals [] s
  | (e, a, p) :: r =>
    match s.readPlace a n j p with
    | .stop s => .stop s
    | .val v s =>
      match State.readElems s n (if p.isRemote then j + 1 else j) r with
      | .stop s => .stop s
      | .vals l s => .vals ((e, v) :: l) s

/-- Writes elements of n bytes in ascending order (R149). -/
def State.writeElems (s : State) (n : Nat) (val : Nat → Nat) (l : List (Nat × Word × Place)) : State :=
  (l.foldl (fun s x => (s.writePlace x.2.1 n (val x.1) x.2.2).getD s) s).cleanPlaces (l.map fun x => (x.2.2, n))

/-! ### Streams (R165) -/

/-- A stream's address mode (R165). -/
def Stream.mode (t : Stream) : AddrMode := AddrMode.ofBits (BitVec.ofNat 2 (bits t.w0 49 48))

/-- The address of vector i of a stream (R165). -/
def Stream.addr (t : Stream) (i : Nat) : Word :=
  let c0 := bits t.w1 15 0
  let c1 := bits t.w1 31 16
  let c2 := bits t.w1 47 32
  BitVec.ofNat 64 (bits t.w0 47 0 + 64 * (i % c0)) + sextN 32 (bits t.w2 31 0) * BitVec.ofNat 64 (i / c0 % c1)
    + sextN 32 (bits t.w2 63 32) * BitVec.ofNat 64 (i / (c0 * c1) % c2)

/-- The address of the vector at the cursor. -/
def Stream.here (t : Stream) : Word := t.addr t.cursor

/-- The parts that a vector of 64 bytes at an address is accessed in: words in the interleaved mode, double words at
another package, and else the whole. Each part has its byte offset. -/
def State.vecParts (s : State) (mode : AddrMode) (acc : Access) (a : Word) : Nat × List (Nat × Word) :=
  let parts (n : Nat) := (n, (List.range (64 / n)).map fun j => (n * j, a + BitVec.ofNat 64 (n * j)))
  if mode = .clust then parts 4
  else match s.reachFor s.focus s.me.asid s.me.sup mode acc a with
    | .ok (.remote _) => parts 8
    | _ => parts 64

/-! ### Fetching ahead (R172) -/

/-- The vector that parts of it hold, each a number at its byte offset. -/
def joinParts (l : List (Nat × Nat)) : Nat := l.foldl (fun acc x => acc + x.2 * 256 ^ x.1) 0

/-- Vector i of a read stream of the issuing context as it can be read now, with the state after the read; none for one that
cannot be read, or that lies in another package (R171, R172). -/
def State.fetchVec (s : State) (t : Stream) (i : Nat) : Option (VWord × Bool × State) :=
  let a := t.addr i
  let p := s.vecParts t.mode .read a
  match s.reachElems t.mode .read p.1 p.2 with
  | .bad _ _ => none
  | .ok l =>
    if l.any fun e => e.2.2.isRemote || s.placePoisoned e.2.2 p.1 then none
    else match s.readElems p.1 0 l with
      | .stop _ => none
      | .vals v s' => some (BitVec.ofNat 512 (joinParts v), l.any fun e => e.2.2.isGen, s')

/-- Whether a stream has no vector i to be fetched: it is a write stream, ends before, or has it. -/
def Stream.lacksNot (t : Stream) (i : Nat) : Bool :=
  t.isWrite || (t.fetched.find? i).isSome || (!t.wrap && decide (t.count ≤ i))

/-- Stream n of the issuing context fetches vector i, unless it has it or cannot (R172). -/
def State.fetchAhead (s : State) (n i : Nat) : State :=
  match s.me.streams.find? n with
  | none => s
  | some t =>
    if t.lacksNot i then s
    else match s.fetchVec t i with
      | none => s
      | some (w, gen, s) =>
        let t' : Stream := { t with fetched := t.fetched.set i w, windowed := if gen then i :: t.windowed else t.windowed }
        s.setMe { s.me with streams := s.me.streams.set n t' }

/-- Every vector that the read streams of the issuing context count as issued is read, where it can be read at once: the context's own
next access of its locations is ordered after those reads (R113, R172). -/
def State.fetchWindows (s : State) : State :=
  s.me.streams.foldl (fun s p => (List.range 8).foldl (fun s j => s.fetchAhead p.1 (p.2.cursor + j)) s) s

/-! ### Issued stream reads that a fence or a release waits for (R133, R138 to R140, R172, R287) -/

/-- The state after some reads, or the state in which the context waits for one of them. -/
inductive ReadsDone where
  | on (s : State)
  | stop (s : State)
  deriving DecidableEq, Repr

/-- Vector i of stream n, which lies in another package, is read in double words, one after the other. Where `ahead`, it is no read of
the instruction itself: a refusal leaves the vector to its consuming instruction. -/
def State.fetchFar (s : State) (n i : Nat) (t : Stream) (l : List (Nat × Word × Place)) (ahead : Bool) : ReadsDone :=
  let mark := if ahead then some (n, i) else none
  let s := if s.me.fetching == mark then s else s.setMe { s.me with fetching := mark, remoteVals := [], remoteAsked := false }
  match s.readElems 8 0 l with
  | .stop s => .stop s
  | .vals v s =>
    .on (s.setMe { s.me with fetching := none, remoteVals := [], remoteAsked := false
                             streams := s.me.streams.set n { t with fetched := t.fetched.set i (BitVec.ofNat 512 (joinParts v)) } })

/-- Vector i of stream n of the issuing context is read if it can be read at all: one that misses the TLBs or lacks tokens is waited for,
and one that cannot be read is left to its consuming instruction (R171; log 6). -/
def State.finishOne (s : State) (n i : Nat) : ReadsDone :=
  match s.me.streams.find? n with
  | none => .on s
  | some t =>
    if t.lacksNot i || t.skipped.contains i then .on s
    else
      let p := s.vecParts t.mode .read (t.addr i)
      match s.reachElems t.mode .read p.1 p.2 with
      | .bad a (.miss acc va) => .stop (s.fail t.mode a (.miss acc va))
      | .bad a (.line h m write) => .stop (s.fail t.mode a (.line h m write))
      | .bad _ _ => .on s
      | .ok l => if l.any fun e => e.2.2.isRemote then s.fetchFar n i t l true else .on (s.fetchAhead n i)

/-- The vectors that the read streams of a context count as issued (R172). -/
def Ctx.issuedReads (c : Ctx) : List (Nat × Nat) :=
  c.streams.flatMap fun p => (List.range 8).map fun j => (p.1, p.2.cursor + j)

/-- Every stream read of the issuing context that counts as issued is performed, so that what it does next is ordered after them (R172).
An instruction whose own access of another package is under way has passed here. -/
def State.finishReads (s : State) : ReadsDone :=
  if s.me.fetching.isNone && (s.me.remoteAsked || !s.me.remoteVals.isEmpty) then .on s
  else s.me.issuedReads.foldl (fun acc p => match acc with
    | .on s => s.finishOne p.1 p.2
    | .stop s => .stop s) (.on s)

/-- Issued stream reads before an access that only follows those of its own locations, or, where `all`, before what follows all of them. -/
def State.readsBefore (s : State) (all : Bool) : ReadsDone := if all then s.finishReads else .on s.fetchWindows

/-- Runs f after issued stream reads: all of them, or those of f's own locations. -/
def State.after (s : State) (all : Bool) (f : State → State) : State :=
  match s.readsBefore all with
  | .on s => f s
  | .stop s => s

/-- Runs an access f to a place after the stream reads that it follows: those of its locations, all of them before one of another package
(R113, R172), and none before one of a window of CTXWIN. -/
def State.afterFor (s : State) (p : Place) (f : State → State) : State := if p.isWindow then f s else s.after p.isRemote f

end Sys2Proof.Machine
end

