-- ==== Sys2Proof/Machine/Scalar.lean ====
section
/-!
DEFINITION. The integer operations: majors OPIMM, OP, OPIMM32, OP32, LUI and AUIPC (R37, R102 to R105).
-/

namespace Sys2Proof.Machine

/-- What a meaning answers. -/
abbrev Result := Host.Outcome State Fault Refusal

/-! ### Values -/

/-- sext(imm12, 12) (R100). -/
def immI (imm : BitVec 12) : Word := imm.signExtend 64
/-- 1 or 0. -/
def flag (b : Bool) : Word := if b then 1 else 0
/-- Number of leading zero bits of the low n bits (R102, R104). -/
def clzN (n : Nat) (w : Word) : Word :=
  BitVec.ofNat 64 ((lowest n fun i => w.getLsbD (n - 1 - i)).getD n)
/-- Number of trailing zero bits of the low n bits (R102, R104). -/
def ctzN (n : Nat) (w : Word) : Word := BitVec.ofNat 64 ((lowest n fun i => w.getLsbD i).getD n)
/-- Number of one bits among the low n bits (R102, R104). -/
def popN (n : Nat) (w : Word) : Word := BitVec.ofNat 64 (countBelow n fun i => w.getLsbD i)

/-- Signed division, truncated; by 0 all ones; the most negative by -1 itself (R37, R103). -/
def divS {n : Nat} (a b : BitVec n) : BitVec n := if b = 0 then BitVec.allOnes n else a.sdiv b
/-- Unsigned division; by 0 all ones (R37). -/
def divU {n : Nat} (a b : BitVec n) : BitVec n := if b = 0 then BitVec.allOnes n else a.udiv b
/-- Signed remainder with the sign of a; by 0 a itself (R37). -/
def remS {n : Nat} (a b : BitVec n) : BitVec n := if b = 0 then a else a.srem b
/-- Unsigned remainder; by 0 a itself (R37). -/
def remU {n : Nat} (a b : BitVec n) : BitVec n := if b = 0 then a else a.umod b
/-- sat(a + b) of signed numbers (R37, R103). -/
def addSat {n : Nat} (a b : BitVec n) : BitVec n := BitVec.ofInt n (satSigned n (a.toInt + b.toInt))
/-- sat(a - b) of signed numbers (R37, R103). -/
def subSat {n : Nat} (a b : BitVec n) : BitVec n := BitVec.ofInt n (satSigned n (a.toInt - b.toInt))
/-- a + b of unsigned numbers, limited to 2^n - 1 (R103). -/
def addSatU {n : Nat} (a b : BitVec n) : BitVec n := BitVec.ofNat n (min (a.toNat + b.toNat) (2 ^ n - 1))
/-- a - b of unsigned numbers, limited below by 0 (R103). -/
def subSatU {n : Nat} (a b : BitVec n) : BitVec n := BitVec.ofNat n (a.toNat - b.toNat)
/-- Bits [127:64] of a product of integers (R103). -/
def mulHigh (p : Int) : Word := BitVec.ofInt 64 (p / (2 ^ 64 : Nat))
/-- Bits [5:0] of a shift amount. -/
def sh6 (b : Word) : Nat := b.toNat % 64
/-- Bits [4:0] of a shift amount. -/
def sh5 {n : Nat} (b : BitVec n) : Nat := b.toNat % 32
/-- sext(imm20 × 4,096, 32) (R105). -/
def immU (imm : BitVec 20) : Word := (imm ++ (0 : BitVec 12)).signExtend 64

/-! ### Meanings -/

/-- ADDI: a + b (R102). -/
def execAddi (rd rs1 : Reg) (imm : BitVec 12) (stl : Stall) (s : State) : Result :=
  .next (s.aluI (fun a => a + immI imm) rd rs1 stl)

/-- ANDI: a AND b (R102). -/
def execAndi (rd rs1 : Reg) (imm : BitVec 12) (stl : Stall) (s : State) : Result :=
  .next (s.aluI (fun a => a &&& immI imm) rd rs1 stl)

/-- ORI: a OR b (R102). -/
def execOri (rd rs1 : Reg) (imm : BitVec 12) (stl : Stall) (s : State) : Result :=
  .next (s.aluI (fun a => a ||| immI imm) rd rs1 stl)

/-- XORI: a XOR b (R102). -/
def execXori (rd rs1 : Reg) (imm : BitVec 12) (stl : Stall) (s : State) : Result :=
  .next (s.aluI (fun a => a ^^^ immI imm) rd rs1 stl)

/-- SLTI: 1 when a < b, signed (R102). -/
def execSlti (rd rs1 : Reg) (imm : BitVec 12) (stl : Stall) (s : State) : Result :=
  .next (s.aluI (fun a => flag (a.slt (immI imm))) rd rs1 stl)

/-- SLTIU: 1 when a < b, unsigned (R102). -/
def execSltiu (rd rs1 : Reg) (imm : BitVec 12) (stl : Stall) (s : State) : Result :=
  .next (s.aluI (fun a => flag (a.ult (immI imm))) rd rs1 stl)

/-- SLLI: shift left (R102). -/
def execSlli (rd rs1 : Reg) (sh : BitVec 6) (stl : Stall) (s : State) : Result :=
  .next (s.aluI (fun a => a <<< sh.toNat) rd rs1 stl)

/-- SRLI: shift right, zeros in (R102). -/
def execSrli (rd rs1 : Reg) (sh : BitVec 6) (stl : Stall) (s : State) : Result :=
  .next (s.aluI (fun a => a >>> sh.toNat) rd rs1 stl)

/-- SRAI: shift right, copies of the sign in (R102). -/
def execSrai (rd rs1 : Reg) (sh : BitVec 6) (stl : Stall) (s : State) : Result :=
  .next (s.aluI (fun a => a.sshiftRight sh.toNat) rd rs1 stl)

/-- RORI: rotate right (R102). -/
def execRori (rd rs1 : Reg) (sh : BitVec 6) (stl : Stall) (s : State) : Result :=
  .next (s.aluI (fun a => a.rotateRight sh.toNat) rd rs1 stl)

/-- CLZ: leading zeros (R102). -/
def execClz (rd rs1 : Reg) (stl : Stall) (s : State) : Result :=
  .next (s.aluI (fun a => clzN 64 a) rd rs1 stl)

/-- CTZ: trailing zeros (R102). -/
def execCtz (rd rs1 : Reg) (stl : Stall) (s : State) : Result :=
  .next (s.aluI (fun a => ctzN 64 a) rd rs1 stl)

/-- POPC: one bits (R102). -/
def execPopc (rd rs1 : Reg) (stl : Stall) (s : State) : Result :=
  .next (s.aluI (fun a => popN 64 a) rd rs1 stl)

/-- CLZW: leading zeros of 32 bits (R104). -/
def execClzw (rd rs1 : Reg) (stl : Stall) (s : State) : Result :=
  .next (s.aluI (fun a => clzN 32 a) rd rs1 stl)

/-- CTZW: trailing zeros of 32 bits (R104). -/
def execCtzw (rd rs1 : Reg) (stl : Stall) (s : State) : Result :=
  .next (s.aluI (fun a => ctzN 32 a) rd rs1 stl)

/-- POPCW: one bits of 32 (R104). -/
def execPopcw (rd rs1 : Reg) (stl : Stall) (s : State) : Result :=
  .next (s.aluI (fun a => popN 32 a) rd rs1 stl)

/-- ADD (R103). -/
def execAdd (rd rs1 rs2 : Reg) (stl : Stall) (s : State) : Result :=
  .next (s.aluR 1 (fun a b => a + b) rd rs1 rs2 stl)

/-- SUB (R103). -/
def execSub (rd rs1 rs2 : Reg) (stl : Stall) (s : State) : Result :=
  .next (s.aluR 1 (fun a b => a - b) rd rs1 rs2 stl)

/-- AND (R103). -/
def execAnd (rd rs1 rs2 : Reg) (stl : Stall) (s : State) : Result :=
  .next (s.aluR 1 (fun a b => a &&& b) rd rs1 rs2 stl)

/-- OR (R103). -/
def execOr (rd rs1 rs2 : Reg) (stl : Stall) (s : State) : Result :=
  .next (s.aluR 1 (fun a b => a ||| b) rd rs1 rs2 stl)

/-- XOR (R103). -/
def execXor (rd rs1 rs2 : Reg) (stl : Stall) (s : State) : Result :=
  .next (s.aluR 1 (fun a b => a ^^^ b) rd rs1 rs2 stl)

/-- SLT (R103). -/
def execSlt (rd rs1 rs2 : Reg) (stl : Stall) (s : State) : Result :=
  .next (s.aluR 1 (fun a b => flag (a.slt b)) rd rs1 rs2 stl)

/-- SLTU (R103). -/
def execSltu (rd rs1 rs2 : Reg) (stl : Stall) (s : State) : Result :=
  .next (s.aluR 1 (fun a b => flag (a.ult b)) rd rs1 rs2 stl)

/-- SLL (R103). -/
def execSll (rd rs1 rs2 : Reg) (stl : Stall) (s : State) : Result :=
  .next (s.aluR 1 (fun a b => a <<< sh6 b) rd rs1 rs2 stl)

/-- SRL (R103). -/
def execSrl (rd rs1 rs2 : Reg) (stl : Stall) (s : State) : Result :=
  .next (s.aluR 1 (fun a b => a >>> sh6 b) rd rs1 rs2 stl)

/-- SRA (R103). -/
def execSra (rd rs1 rs2 : Reg) (stl : Stall) (s : State) : Result :=
  .next (s.aluR 1 (fun a b => a.sshiftRight (sh6 b)) rd rs1 rs2 stl)

/-- ROR (R103). -/
def execRor (rd rs1 rs2 : Reg) (stl : Stall) (s : State) : Result :=
  .next (s.aluR 1 (fun a b => a.rotateRight (sh6 b)) rd rs1 rs2 stl)

/-- MIN (R103). -/
def execMin (rd rs1 rs2 : Reg) (stl : Stall) (s : State) : Result :=
  .next (s.aluR 1 (fun a b => if a.slt b then a else b) rd rs1 rs2 stl)

/-- MAX (R103). -/
def execMax (rd rs1 rs2 : Reg) (stl : Stall) (s : State) : Result :=
  .next (s.aluR 1 (fun a b => if a.slt b then b else a) rd rs1 rs2 stl)

/-- MINU (R103). -/
def execMinu (rd rs1 rs2 : Reg) (stl : Stall) (s : State) : Result :=
  .next (s.aluR 1 (fun a b => if a.ult b then a else b) rd rs1 rs2 stl)

/-- MAXU (R103). -/
def execMaxu (rd rs1 rs2 : Reg) (stl : Stall) (s : State) : Result :=
  .next (s.aluR 1 (fun a b => if a.ult b then b else a) rd rs1 rs2 stl)

/-- ADDS (R103). -/
def execAddS (rd rs1 rs2 : Reg) (stl : Stall) (s : State) : Result :=
  .next (s.aluR 1 (fun a b => addSat a b) rd rs1 rs2 stl)

/-- SUBS (R103). -/
def execSubS (rd rs1 rs2 : Reg) (stl : Stall) (s : State) : Result :=
  .next (s.aluR 1 (fun a b => subSat a b) rd rs1 rs2 stl)

/-- ADDUS (R103). -/
def execAdduS (rd rs1 rs2 : Reg) (stl : Stall) (s : State) : Result :=
  .next (s.aluR 1 (fun a b => addSatU a b) rd rs1 rs2 stl)

/-- SUBUS (R103). -/
def execSubuS (rd rs1 rs2 : Reg) (stl : Stall) (s : State) : Result :=
  .next (s.aluR 1 (fun a b => subSatU a b) rd rs1 rs2 stl)

/-- MUL (R103). -/
def execMul (rd rs1 rs2 : Reg) (stl : Stall) (s : State) : Result :=
  .next (s.aluR 3 (fun a b => a * b) rd rs1 rs2 stl)

/-- MULH (R103). -/
def execMulh (rd rs1 rs2 : Reg) (stl : Stall) (s : State) : Result :=
  .next (s.aluR 3 (fun a b => mulHigh (a.toInt * b.toInt)) rd rs1 rs2 stl)

/-- MULHU (R103). -/
def execMulhu (rd rs1 rs2 : Reg) (stl : Stall) (s : State) : Result :=
  .next (s.aluR 3 (fun a b => mulHigh ((a.toNat * b.toNat : Nat) : Int)) rd rs1 rs2 stl)

/-- MULHSU (R103). -/
def execMulhsu (rd rs1 rs2 : Reg) (stl : Stall) (s : State) : Result :=
  .next (s.aluR 3 (fun a b => mulHigh (a.toInt * (b.toNat : Int))) rd rs1 rs2 stl)

/-- DIV (R103). -/
def execDiv (rd rs1 rs2 : Reg) (stl : Stall) (s : State) : Result :=
  .next (s.aluVar divS rd rs1 rs2 stl)

/-- DIVU (R103). -/
def execDivu (rd rs1 rs2 : Reg) (stl : Stall) (s : State) : Result :=
  .next (s.aluVar divU rd rs1 rs2 stl)

/-- REM (R103). -/
def execRem (rd rs1 rs2 : Reg) (stl : Stall) (s : State) : Result :=
  .next (s.aluVar remS rd rs1 rs2 stl)

/-- REMU (R103). -/
def execRemu (rd rs1 rs2 : Reg) (stl : Stall) (s : State) : Result :=
  .next (s.aluVar remU rd rs1 rs2 stl)

/-- ADDW, on 32 bits (R104). -/
def execAddw (rd rs1 rs2 : Reg) (stl : Stall) (s : State) : Result :=
  .next (s.aluR 1 (on32 fun a b => a + b) rd rs1 rs2 stl)

/-- SUBW, on 32 bits (R104). -/
def execSubw (rd rs1 rs2 : Reg) (stl : Stall) (s : State) : Result :=
  .next (s.aluR 1 (on32 fun a b => a - b) rd rs1 rs2 stl)

/-- SLLW, on 32 bits (R104). -/
def execSllw (rd rs1 rs2 : Reg) (stl : Stall) (s : State) : Result :=
  .next (s.aluR 1 (on32 fun a b => a <<< sh5 b) rd rs1 rs2 stl)

/-- SRLW, on 32 bits (R104). -/
def execSrlw (rd rs1 rs2 : Reg) (stl : Stall) (s : State) : Result :=
  .next (s.aluR 1 (on32 fun a b => a >>> sh5 b) rd rs1 rs2 stl)

/-- SRAW, on 32 bits (R104). -/
def execSraw (rd rs1 rs2 : Reg) (stl : Stall) (s : State) : Result :=
  .next (s.aluR 1 (on32 fun a b => a.sshiftRight (sh5 b)) rd rs1 rs2 stl)

/-- ADDWS, on 32 bits (R104). -/
def execAddwS (rd rs1 rs2 : Reg) (stl : Stall) (s : State) : Result :=
  .next (s.aluR 1 (on32 fun a b => addSat a b) rd rs1 rs2 stl)

/-- SUBWS, on 32 bits (R104). -/
def execSubwS (rd rs1 rs2 : Reg) (stl : Stall) (s : State) : Result :=
  .next (s.aluR 1 (on32 fun a b => subSat a b) rd rs1 rs2 stl)

/-- MULW, on 32 bits (R104). -/
def execMulw (rd rs1 rs2 : Reg) (stl : Stall) (s : State) : Result :=
  .next (s.aluR 3 (on32 fun a b => a * b) rd rs1 rs2 stl)

/-- DIVW, on 32 bits (R104). -/
def execDivw (rd rs1 rs2 : Reg) (stl : Stall) (s : State) : Result :=
  .next (s.aluVar (on32 divS) rd rs1 rs2 stl)

/-- DIVUW, on 32 bits (R104). -/
def execDivuw (rd rs1 rs2 : Reg) (stl : Stall) (s : State) : Result :=
  .next (s.aluVar (on32 divU) rd rs1 rs2 stl)

/-- REMW, on 32 bits (R104). -/
def execRemw (rd rs1 rs2 : Reg) (stl : Stall) (s : State) : Result :=
  .next (s.aluVar (on32 remS) rd rs1 rs2 stl)

/-- REMUW, on 32 bits (R104). -/
def execRemuw (rd rs1 rs2 : Reg) (stl : Stall) (s : State) : Result :=
  .next (s.aluVar (on32 remU) rd rs1 rs2 stl)

/-- ADDIW, on 32 bits (R104). -/
def execAddiw (rd rs1 : Reg) (imm : BitVec 12) (stl : Stall) (s : State) : Result :=
  .next (s.aluI (fun a => sext32 (a + immI imm)) rd rs1 stl)

/-- SLLIW, on 32 bits (R104). -/
def execSlliw (rd rs1 : Reg) (sh : BitVec 5) (stl : Stall) (s : State) : Result :=
  .next (s.aluI (fun w => on32 (fun a _ => a <<< sh.toNat) w 0) rd rs1 stl)

/-- SRLIW, on 32 bits (R104). -/
def execSrliw (rd rs1 : Reg) (sh : BitVec 5) (stl : Stall) (s : State) : Result :=
  .next (s.aluI (fun w => on32 (fun a _ => a >>> sh.toNat) w 0) rd rs1 stl)

/-- SRAIW, on 32 bits (R104). -/
def execSraiw (rd rs1 : Reg) (sh : BitVec 5) (stl : Stall) (s : State) : Result :=
  .next (s.aluI (fun w => on32 (fun a _ => a.sshiftRight sh.toNat) w 0) rd rs1 stl)

/-- LUI: sext(imm20 × 4,096, 32) (R105). -/
def execLui (rd : Reg) (imm : BitVec 20) (stl : Stall) (s : State) : Result :=
  .next (s.aluU (fun _ => immU imm) rd stl)

/-- AUIPC: pc + sext(imm20 × 4,096, 32) (R105). -/
def execAuipc (rd : Reg) (imm : BitVec 20) (stl : Stall) (s : State) : Result :=
  .next (s.aluU (fun pc => pc + immU imm) rd stl)

end Sys2Proof.Machine
end

