-- ==== Sys2Proof/Machine/LoadStore.lean ====
section
/-!
DEFINITION. Scalar loads and stores: majors LOAD and STORE (R70, R110 to R113, R277, R334, R370).
-/

namespace Sys2Proof.Machine

/-- The displacement of the M format: sext(imm10) × size (R70). -/
def dispM (imm : BitVec 10) (n : Nat) : Word := imm.signExtend 64 * BitVec.ofNat 64 n

/-- A load of n bytes; ext makes the register value of the bytes (R111, R112). It follows the stream reads of its location that have
issued (R113, R172). -/
def State.load (s : State) (n : Nat) (ext : Nat → Word) (rd rs1 : Reg) (imm : BitVec 10) (mode : AddrMode)
    (stl : Stall) : State :=
  s.issue { reads := [useX rs1], writes := [useX rd] } fun s =>
    let a := s.me.rx rs1.toNat + dispM imm n
    match s.reach mode .read a n with
    | .ok p =>
      s.afterFor p fun s => match s.readPlace a n 0 p with
      | .val v s => s.done stl fun c => c.varX rd.toNat (ext v)
      | .stop s => s
    | r => s.fail mode a r

/-- A store of the n low bytes of x[src] (R111, R112), after the stream reads of its location that have issued (R113, R172). -/
def State.store (s : State) (n : Nat) (src rs1 : Reg) (imm : BitVec 10) (mode : AddrMode) (stl : Stall) : State :=
  s.issue { reads := [useX rs1, useX src] } fun s =>
    let a := s.me.rx rs1.toNat + dispM imm n
    match s.reach mode .write a n with
    | .ok p =>
      if n < 4 && p.isWindow then s.trap 2 a
      else s.afterFor p fun s => match s.writePlace a n (s.me.rx src.toNat).toNat p with
        | some s => s.done stl id
        | none => s.trap 3 a
    | r => s.fail mode a r

/-- LB (R110, R111). -/
def execLb (rd rs1 : Reg) (imm : BitVec 10) (mode : AddrMode) (stl : Stall) (s : State) : Result :=
  .next (s.load 1 (sextN 8) rd rs1 imm mode stl)

/-- LH (R110, R111). -/
def execLh (rd rs1 : Reg) (imm : BitVec 10) (mode : AddrMode) (stl : Stall) (s : State) : Result :=
  .next (s.load 2 (sextN 16) rd rs1 imm mode stl)

/-- LW (R110, R111). -/
def execLw (rd rs1 : Reg) (imm : BitVec 10) (mode : AddrMode) (stl : Stall) (s : State) : Result :=
  .next (s.load 4 (sextN 32) rd rs1 imm mode stl)

/-- LD (R110, R111). -/
def execLd (rd rs1 : Reg) (imm : BitVec 10) (mode : AddrMode) (stl : Stall) (s : State) : Result :=
  .next (s.load 8 (BitVec.ofNat 64) rd rs1 imm mode stl)

/-- LBU (R110, R111). -/
def execLbu (rd rs1 : Reg) (imm : BitVec 10) (mode : AddrMode) (stl : Stall) (s : State) : Result :=
  .next (s.load 1 (BitVec.ofNat 64) rd rs1 imm mode stl)

/-- LHU (R110, R111). -/
def execLhu (rd rs1 : Reg) (imm : BitVec 10) (mode : AddrMode) (stl : Stall) (s : State) : Result :=
  .next (s.load 2 (BitVec.ofNat 64) rd rs1 imm mode stl)

/-- LWU (R110, R111). -/
def execLwu (rd rs1 : Reg) (imm : BitVec 10) (mode : AddrMode) (stl : Stall) (s : State) : Result :=
  .next (s.load 4 (BitVec.ofNat 64) rd rs1 imm mode stl)

/-- SB (R110, R111). -/
def execSb (src rs1 : Reg) (imm : BitVec 10) (mode : AddrMode) (stl : Stall) (s : State) : Result :=
  .next (s.store 1 src rs1 imm mode stl)

/-- SH (R110, R111). -/
def execSh (src rs1 : Reg) (imm : BitVec 10) (mode : AddrMode) (stl : Stall) (s : State) : Result :=
  .next (s.store 2 src rs1 imm mode stl)

/-- SW (R110, R111). -/
def execSw (src rs1 : Reg) (imm : BitVec 10) (mode : AddrMode) (stl : Stall) (s : State) : Result :=
  .next (s.store 4 src rs1 imm mode stl)

/-- SD (R110, R111). -/
def execSd (src rs1 : Reg) (imm : BitVec 10) (mode : AddrMode) (stl : Stall) (s : State) : Result :=
  .next (s.store 8 src rs1 imm mode stl)

end Sys2Proof.Machine
end

