-- ==== Sys2Proof/Machine/Atomic.lean ====
section
/-!
DEFINITION. Atomics and fences: majors AMO and FENCE (R130 to R141). Every LS access of the model but a stream read is
performed at its issue in one order (log 6), so orderings and scopes ask nothing more of LS accesses; a fence or a release
waits for what is still under way: stream reads that have issued, stores to another package, engine requests, matrix operations
and event sends.
-/

namespace Sys2Proof.Machine

/-- The new memory value of an AMO at width 8n (R131). -/
abbrev AmoFn := (n : Nat) → BitVec n → BitVec n → BitVec n

/-- The holder at which an atomic of a scope executes (R133). -/
def amoHolder (sc : AmoScope) (k : Nat) : Nat :=
  match sc with
  | .pkg => ioHolder
  | _ => vdnOf k

/-- An atomic's result from bytes: sext(old, 8n) (R132). -/
def amoOld (wide : Bool) (v : Nat) : Word := if wide then BitVec.ofNat 64 v else sextN 32 v

/-- Whether an atomic is a release (R133). -/
def amoReleases : AmoOrd → Bool
  | .rel => true
  | .ar => true
  | _ => false

/-- An AMO of Op 0x00 to 0x08 (R132, R136); a release follows every stream read that has issued (R133, R172). -/
def State.amo (s : State) (f : AmoFn) (rd rs1 rs2 : Reg) (ord : AmoOrd) (wide : Bool) (scope : AmoScope) (stl : Stall) : State :=
  s.issue { reads := [useX rs1, useX rs2], writes := [useX rd] } fun s =>
    let n := if wide then 8 else 4
    let a := s.me.rx rs1.toNat
    match s.reachAt (amoHolder scope s.focus) .flat .readWrite a n with
    | .ok (.mem pa) =>
      if poisonedAt s.poison pa n then s.poisonTrap (.mem pa) a
      else s.after (amoReleases ord) fun s =>
        let old := s.memRead pa n
        let new := (f (8 * n) (BitVec.ofNat _ old) (BitVec.ofNat _ (s.me.rx rs2.toNat).toNat)).toNat
        ((s.tlbCopy s.focus s.me.asid a).lsWrite (amoHolder scope s.focus) pa n new).done stl
          fun c => c.varX rd.toNat (amoOld wide old)
    | .ok _ => s.trap 3 a
    | r => s.fail .flat a r

/-- The issuing context's LR, performed by holder h, keeps the line's tokens there, all 64 of them, for the sequence up to its SC (R133,
R135; log 13). -/
def State.keepLine (s : State) (h pa : Nat) : State :=
  let l := lineOf pa
  let s := s.tokenWrite h pa
  { s with lines := s.lines.set l { s.line l with
      held := { holder := h, core := s.focus, ctx := s.active, since := s.cycles.get (vdnOf s.focus) 0 } :: (s.line l).held } }

/-- The issuing context no longer keeps the tokens of a line (R135). -/
def State.unhold (s : State) : State := s.letGo s.focus s.active

/-- A read of n bytes of memory by an LR of the issuing context, through the holder that performs it (R133, R269). -/
def State.reserveRead (s : State) (h : Nat) (a : Word) (n : Nat) (p : Place) : Got :=
  match p with
  | .mem pa => if s.placePoisoned p n then .stop (s.poisonTrap p a)
    else .val (s.memRead pa n) ((s.tlbCopy s.focus s.me.asid a).holderReads h [pa])
  | p => s.readPlace a n 0 p

/-- LR (R133 to R136): the value, and the reservation of the line in place of an earlier one; from a generator window the value
and none. -/
def execLr (rd rs1 : Reg) (ord : AmoOrd) (wide : Bool) (scope : AmoScope) (stl : Stall) (s : State) : Result :=
  .next (s.issue { reads := [useX rs1], writes := [useX rd] } fun s =>
    let n := if wide then 8 else 4
    let a := s.me.rx rs1.toNat
    let h := amoHolder scope s.focus
    match s.reachAt h .flat .read a n with
    | .ok (.remote _) => (s.looked .flat a).trap 3 a
    | .ok p => s.after (amoReleases ord) fun s =>
      match s.reserveRead h a n p with
      | .stop s => s
      | .val v t =>
        match p with
        | .mem pa =>
          if s.lineBlocked h (lineOf pa) true (some (s.focus, s.active)) then s.fail .flat a (.line h (lineOf pa) true)
          else (t.unhold.keepLine h pa).done stl fun c =>
            { c with reserve := some (lineOf pa) }.varX rd.toNat (amoOld wide v)
        | _ => t.unhold.done stl fun c => { c with reserve := none }.varX rd.toNat (amoOld wide v)
    | r => s.fail .flat a r)

/-- SC (R134 to R136): one that fails writes nothing, and like any SC ends the reservations of others on the line. -/
def execSc (rd rs1 rs2 : Reg) (ord : AmoOrd) (wide : Bool) (scope : AmoScope) (stl : Stall) (s : State) : Result :=
  .next (s.issue { reads := [useX rs1, useX rs2], writes := [useX rd] } fun s =>
    let n := if wide then 8 else 4
    let a := s.me.rx rs1.toNat
    match s.reachAt (amoHolder scope s.focus) .flat .readWrite a n with
    | .ok (.mem pa) => s.after (amoReleases ord) fun s =>
      let ok := s.me.reserve == some (lineOf pa)
      let s := s.tlbCopy s.focus s.me.asid a
      let s := if ok then s.lsWrite (amoHolder scope s.focus) pa n (s.me.rx rs2.toNat).toNat
        else s.breakLine (lineOf pa) (some (s.focus, s.active))
      s.unhold.done stl fun c => { c with reserve := none }.varX rd.toNat (if ok then 0 else 1)
    | .ok _ => s.trap 3 a
    | r => s.fail .flat a r)

/-- AMOSWAP (R131, R132). -/
def execAmoswap (rd rs1 rs2 : Reg) (ord : AmoOrd) (wide : Bool) (scope : AmoScope) (stl : Stall)
    (s : State) : Result := .next (s.amo (fun _ _ b => b) rd rs1 rs2 ord wide scope stl)

/-- AMOADD (R131, R132). -/
def execAmoadd (rd rs1 rs2 : Reg) (ord : AmoOrd) (wide : Bool) (scope : AmoScope) (stl : Stall)
    (s : State) : Result := .next (s.amo (fun _ a b => a + b) rd rs1 rs2 ord wide scope stl)

/-- AMOAND (R131, R132). -/
def execAmoand (rd rs1 rs2 : Reg) (ord : AmoOrd) (wide : Bool) (scope : AmoScope) (stl : Stall)
    (s : State) : Result := .next (s.amo (fun _ a b => a &&& b) rd rs1 rs2 ord wide scope stl)

/-- AMOOR (R131, R132). -/
def execAmoor (rd rs1 rs2 : Reg) (ord : AmoOrd) (wide : Bool) (scope : AmoScope) (stl : Stall)
    (s : State) : Result := .next (s.amo (fun _ a b => a ||| b) rd rs1 rs2 ord wide scope stl)

/-- AMOXOR (R131, R132). -/
def execAmoxor (rd rs1 rs2 : Reg) (ord : AmoOrd) (wide : Bool) (scope : AmoScope) (stl : Stall)
    (s : State) : Result := .next (s.amo (fun _ a b => a ^^^ b) rd rs1 rs2 ord wide scope stl)

/-- AMOMIN (R131, R132). -/
def execAmomin (rd rs1 rs2 : Reg) (ord : AmoOrd) (wide : Bool) (scope : AmoScope) (stl : Stall)
    (s : State) : Result := .next (s.amo (fun _ a b => if a.slt b then a else b) rd rs1 rs2 ord wide scope stl)

/-- AMOMAX (R131, R132). -/
def execAmomax (rd rs1 rs2 : Reg) (ord : AmoOrd) (wide : Bool) (scope : AmoScope) (stl : Stall)
    (s : State) : Result := .next (s.amo (fun _ a b => if a.slt b then b else a) rd rs1 rs2 ord wide scope stl)

/-- AMOMINU (R131, R132). -/
def execAmominu (rd rs1 rs2 : Reg) (ord : AmoOrd) (wide : Bool) (scope : AmoScope) (stl : Stall)
    (s : State) : Result := .next (s.amo (fun _ a b => if a.ult b then a else b) rd rs1 rs2 ord wide scope stl)

/-- AMOMAXU (R131, R132). -/
def execAmomaxu (rd rs1 rs2 : Reg) (ord : AmoOrd) (wide : Bool) (scope : AmoScope) (stl : Stall)
    (s : State) : Result := .next (s.amo (fun _ a b => if a.ult b then b else a) rd rs1 rs2 ord wide scope stl)

/-! ### Fences (R137 to R141) -/

/-- The path class of a request (R283). -/
def ReqKind.cls : ReqKind → BitVec 6
  | .copy => clsCP
  | .gather => clsGS | .scatadd => clsGS | .bin => clsGS
  | .get => clsNT | .put => clsNT | .redcopy => clsNT

/-- Whether a request stores to a package for R141 (R254). -/
def ReqKind.storesOut : ReqKind → Bool
  | .put => true | .redcopy => true
  | _ => false

/-- Whether a store to another package of a context is still unacknowledged (R141, R254). -/
def State.storesOutstanding (s : State) (k c : Nat) : Bool :=
  !(s.ctx k c).stores.isEmpty || (s.core k).reqs.any fun r => r.owned && r.ctx == c && r.kind.storesOut

/-- Field [hi:lo] of a flit (R175). -/
def flitField (p : BitVec 128) (hi lo : Nat) : Nat := (p.toNat >>> lo) % 2 ^ (hi + 1 - lo)
/-- The context that sent a flit (R175). -/
def flitCtx (p : BitVec 128) : Nat := flitField p 81 79
/-- The key of the core that sent a flit, in its package (R175). -/
def flitFrom (p : BitVec 128) : Nat := 256 * flitField p 61 57 + flitField p 69 62
/-- The key of the core that a flit goes to, in its package (R175). -/
def flitTo (p : BitVec 128) : Nat := 256 * flitField p 11 7 + flitField p 19 12
/-- Whether a flit was sent by a context of this package. -/
def State.sentBy (s : State) (k c : Nat) (p : BitVec 128) : Bool :=
  flitField p 56 50 == s.pkg && flitFrom p == k && flitCtx p == c

/-- Whether a row that awaits or runs its handler is still to be written when that ends: MDST's mode is 1 or 2 (R232). -/
def Slot.departs (t : Slot) : Bool := bits t.regs.mdst 63 62 != 0

/-- Whether an access of a class in S that a context issued is still to be performed (R140, R191): of a matrix operation's rows, also those
that await their handlers, but for the rows that only a handler reads (R231, R232; log 25). -/
def State.classBusy (s : State) (k c : Nat) (S : BitVec 6) : Bool :=
  let co := s.core k
  (co.reqs.any fun r => r.owned && r.ctx == c && (r.kind.cls &&& S) != 0) ||
  ((S &&& clsMX) != 0 && (co.mxq.any (fun o => o.owned && o.ctx == c)
    || co.slots.any fun t => t.2.owned && t.2.ctx == c && (t.2.ended || t.2.departs))) ||
  ((S &&& clsEV) != 0 && (co.outFlits.any (s.sentBy k c) || s.flitsOut.any (s.sentBy k c)
    || s.cores.any fun q => q.2.heldFlits.any (s.sentBy k c))) ||
  ((S &&& clsLS) != 0 && s.storesOutstanding k c)

/-- A fence that waits while accesses of the classes src are under way, reports the deferred faults that sel selects, and
else goes on: no later access of a class in dst finds what the writes of src replaced (R138, R140, R141). -/
def State.fenceOn (s : State) (src dst : BitVec 6) (sel : Deferred → Bool) (stl : Stall) : State :=
  s.after ((src &&& clsLS) != 0) fun s =>
    if s.classBusy s.focus s.active src then s.wait (.fence src)
    else match s.report sel with
      | some s => s
      | none => (s.ordered src dst).done stl id

/-- FENCE (R138, R141, R172): the stream reads that have issued are performed, where its scope holds more than the context; only domain
scope waits for stores to another package. -/
def execFence (scope : FenceScope) (stl : Stall) (s : State) : Result :=
  .next (if scope = .dom then s.fenceOn clsLS 0 Deferred.store stl else s.after (scope != .ctx) fun s => s.done stl id)

/-- FENCE.SC (R139): a fence of package scope; its place in the one order is that of its issue (log 6). -/
def execFenceSc (stl : Stall) (s : State) : Result := .next (s.after true fun s => s.done stl id)

/-- XFENCE (R140, R141): the accesses of the source classes are performed before it completes, and every later access of the
destination classes finds their writes. A zero mask is illegal (R137). -/
def execXfence (dst src : BitVec 6) (scope : FenceScope) (stl : Stall) (s : State) : Result :=
  .next (if dst = 0 ∨ src = 0 then s.illegal (.xfence dst src scope stl)
    else s.fenceOn src dst (fun d => (d.cls != clsMX && (d.cls &&& src) != 0) || ((src &&& clsLS) != 0 && d.store)) stl)

end Sys2Proof.Machine
end

