-- ==== Sys2Proof/Machine/Admit.lean ====
section
/-!
DEFINITION. Where a coach may be formed (R13, R15, R17, R179, R182, R304, R316, R317).
-/

namespace Sys2Proof.Machine

/-- The compute cores of a cluster. -/
def coresOf (cl : Nat) : List Nat := (List.range 4).map (coreOf cl)

/-- Whether context c of core k is free. -/
def State.freeCtx (s : State) (k c : Nat) : Bool :=
  !isSvc k && s.hasCtx k c && (s.ctx k c).run == .idle

/-- The class of a launch (R304). -/
def State.launchClass (s : State) (lid : BitVec 16) : Nat := ((s.launches.find? lid.toNat).map fun l => l.cls.toNat).getD 0

/-- How many clusters of a die hold a coach of a launch, resident or saved (R316). -/
def State.clustersHeld (s : State) (vdn : Nat) (lid : BitVec 16) : Nat :=
  (s.clusters.filter fun p => p.1 / 64 == vdn && p.2.coaches.any fun c => c.lid == lid).length

/-- The cluster keys of a die. -/
def clustersOf (vdn : Nat) : List Nat := (List.range 64).map (64 * vdn + ·)

/-- The coaches that are on a cluster and not saved from it. -/
def Cluster.here (x : Cluster) : List Coach := x.coaches.filter fun c => c.state != .saved

/-- Whether the launches that a cluster is reserved for, but one, are all placed: none is still gathering its clusters (R317). -/
def State.keptByPlaced (s : State) (cl : Nat) (but : BitVec 16) : Bool :=
  (s.cluster cl).reservedBy.all fun r => r == but || ((s.launches.find? r.toNat).map fun l => l.placement == .placed).getD true

/-- The empty clusters of a die that a placement may reserve: those that no launch has reserved, and those that only placed launches have
(R304, R317; log 30). -/
def State.emptyClusters (s : State) (vdn : Nat) (taken : Bool) : List Nat :=
  (clustersOf vdn).filter fun cl =>
    (s.cluster cl).here.isEmpty && (s.cluster cl).reservedBy.isEmpty != taken && s.keptByPlaced cl 0

/-- The coaches on a cluster when gone's has left it, apart from lid's. -/
def Cluster.others (x : Cluster) (lid : BitVec 16) (gone : Option (BitVec 16)) : List Coach :=
  x.here.filter fun c => c.lid != lid && gone != some c.lid

/-- Whether a cluster's reservations let a coach of a launch be there: there are none, or the launch has one, and no other launch is still
gathering its clusters with this one among them (R304, R316, R317; log 30). -/
def State.reservedFor (s : State) (cl : Nat) (lid : BitVec 16) : Bool :=
  ((s.cluster cl).reservedBy.isEmpty || (s.cluster cl).reservedBy.contains lid) && s.keptByPlaced cl lid

/-- Whether a cluster is of the kind that the layer of a launch asks for, where firmware has said which: narrow or wide (R11,
R13; log 75). -/
def State.kindOk (s : State) (lid cl : Nat) : Bool := ((s.layerKinds.find? lid).map fun w => w == isWide cl).getD true

/-- The lowest coach slot that no coach of the cluster but lid's holds, gone's counted as left (R182, R340). -/
def State.freeSlotOf (s : State) (cl : Nat) (lid : BitVec 16) (gone : Option (BitVec 16)) : Option Nat :=
  let holds (c : Coach) : Bool := c.lid != lid && ((c.state != .saved && gone != some c.lid) || s.bindsChannels c.lid)
  lowest 8 fun n => !(s.cluster cl).coaches.any fun c => c.slot == n && holds c

/-- What forming and readmitting a coach have in common: the cluster's kind, split and fuse, the tag grant, and the reservation
(R13, R316). -/
def State.mayHold (s : State) (cl : Nat) (lid : BitVec 16) (l : Launch) (gone : Option (BitVec 16)) : Bool :=
  let x := s.cluster cl
  let others := x.others lid gone
  (others.isEmpty || (x.split == l.split && x.fuse == l.fuse)) && others.all (fun c => c.grant &&& l.grant == 0)
    && s.reservedFor cl lid && s.kindOk lid.toNat cl && s.hasCluster cl

/-- The channel-table entry of a launch's channel for a coach slot (R178, R304). -/
def ChanEntry.word (e : ChanEntry) (slot : Nat) : Word :=
  BitVec.ofNat 64 (2 ^ 63 + e.cls * 2 ^ 61 + e.maxRun * 2 ^ 58 + e.part * 2 ^ 51 + slot * 2 ^ 48) ||| (e.pc &&& 0x0000FFFFFFFFFFFC#64)

/-- Whether the channels of a launch fit a core, and none is enabled there (R179, R316). -/
def Core.channelsFit (co : Core) (l : Launch) : Bool :=
  decide (partSum co.chtab + (l.chans.map ChanEntry.part).sum ≤ 256) &&
    l.chans.all fun e => !chEn (co.chtab.get e.channel 0)

/-- Whether a coach of a launch could be formed on a cluster, gone's coach counted as left (R315, R316). -/
def State.formable (s : State) (cl : Nat) (lid : BitVec 16) (gone : Option (BitVec 16)) : Bool :=
  match s.launches.find? lid.toNat with
  | none => false
  | some l =>
    l.placement == .placed && !s.jobFrozen lid.toNat && !(s.cluster cl).coaches.any (fun c => c.lid == lid)
      && !l.aborted && s.mayHold cl lid l gone && (s.freeSlotOf cl lid gone).isSome
      && (coresOf cl).all (fun k => (s.core k).channelsFit l)
      && decide (s.clustersHeld (cl / 64) lid < l.reserve.get (cl / 64) 0)

end Sys2Proof.Machine
end

