-- ==== Sys2Proof/Machine/Streams.lean ====
section
/-!
DEFINITION. Vector operands with their masks and streams (R142 to R144, R165 to R173), and major STREAM (R167).
-/

namespace Sys2Proof.Machine

/-! ### Masks (R143) -/

/-- Whether element e of width w is active. -/
def laneOn (w : Nat) (mask : MWord) (e : Nat) : Bool :=
  if w = 64 then mask.getLsbD (2 * e) else mask.getLsbD (e * w / 32)

/-- The bits of the elements that f accepts. -/
def enable (w : Nat) (f : Nat → Bool) : VWord := mkVec w fun e => if f e then 2 ^ w - 1 else 0

/-- Element width in bits of an integer code (R142, R146). -/
def wBits : IntW → Nat
  | .w32 => 32 | .w16 => 16 | .w8 => 8 | .w64 => 64

/-! ### Streams (R165 to R173) -/

/-- The stream of a v register, if it is bound. -/
def Ctx.stream (c : Ctx) (v : Nat) : Option Stream := if v < 24 then none else c.streams.find? (v - 24)

/-- TVAL of a stream fault (R171). -/
def streamTval (reason n : Nat) (a : Word) : Word :=
  BitVec.ofNat 64 (reason * 2 ^ 61 + n * 2 ^ 56 + (if reason = 4 then a.toNat % 2 ^ 48 else 0))

/-- What a stream check finds. -/
inductive StreamCheck where
  | fine
  | fault (mode : AddrMode) (va : Word) (tval : Word)
  | wait (mode : AddrMode) (va : Word) (r : Reach)
  | absent (va : Word)
  deriving DecidableEq, Repr

/-- The check of a vector's address (R171 reason 4, R348). -/
def State.vecCheck (s : State) (n : Nat) (mode : AddrMode) (acc : Access) (a : Word) : StreamCheck :=
  let p := s.vecParts mode acc a
  match s.reachElems mode acc p.1 p.2 with
  | .ok _ => .fine
  | .bad b (.miss acc va) => .wait mode b (.miss acc va)
  | .bad b (.line h m write) => .wait mode b (.line h m write)
  | .bad _ (.absent va) => .absent va
  | .bad b _ => .fault mode b (streamTval 4 n a)

/-- A stream fault that looks no translation up (R171). -/
def plainFault (tval : Word) : StreamCheck := .fault .own 0 tval

/-- The check of a v register as a source: reasons 3, 2, 4 (R168 to R171). -/
def State.srcCheck (s : State) (v : Nat) : StreamCheck :=
  match s.me.stream v with
  | none => .fine
  | some t =>
    if t.isWrite then plainFault (streamTval 3 (v - 24) 0)
    else if t.exhausted then (if s.me.dryZero then .fine else plainFault (streamTval 2 (v - 24) 0))
    else if (t.fetched.find? t.cursor).isSome then .fine
    else s.vecCheck (v - 24) t.mode .read t.here

/-- The check of a v register as a destination: reasons 3, 5, 4 (R170, R171). -/
def State.destCheck (s : State) (v : Nat) : StreamCheck :=
  match s.me.stream v with
  | none => .fine
  | some t =>
    if !t.isWrite then plainFault (streamTval 3 (v - 24) 0)
    else if t.exhausted then plainFault (streamTval 5 (v - 24) 0)
    else s.vecCheck (v - 24) t.mode .write t.here

/-- The v registers of an instruction in the order of its checks: sources vs1 and vs2, vd where it is also read, and the
destination (R170). -/
structure VUse where
  srcs : List Nat := []
  dest : Option Nat := none
  deriving DecidableEq, Repr

/-- The first check that is neither fine nor an absent page (R170). -/
def State.vecFault (s : State) (u : VUse) : StreamCheck :=
  let checks := u.srcs.map s.srcCheck ++ u.dest.toList.map s.destCheck
  (checks.find? fun c => match c with | .fault _ _ _ => true | .wait _ _ _ => true | _ => false).getD .fine

/-- The first absent page that a stream vector of the instruction lies in (R170, R171). -/
def State.vecAbsent (s : State) (u : VUse) : Option Word :=
  (u.srcs.map s.srcCheck ++ u.dest.toList.map s.destCheck).findSome? fun c =>
    match c with | .absent va => some va | _ => none

/-- The vector that a read of register 24 + n, bound to a read stream, delivers: prefetched, or read now; zero when it is exhausted (R168,
R169, R172). A poisoned word met now is an LS read of one: the access-fault trap, with the vector's address (R370; log 77). -/
def State.streamRead (s : State) (n : Nat) (t : Stream) : GotAll :=
  if t.exhausted then .vals [(0, 0)] s
  else match t.fetched.find? t.cursor with
    | some w => .vals [(0, w.toNat)] s
    | none =>
      let p := s.vecParts t.mode .read t.here
      match s.reachElems t.mode .read p.1 p.2 with
      | .bad a r => .stop (s.fail t.mode a r)
      | .ok l =>
        if l.any fun e => e.2.2.isRemote then
          match s.fetchFar n t.cursor t l false with
          | .stop s => .stop s
          | .on s =>
            .vals [(0, ((((s.me.streams.find? n).bind fun t => t.fetched.find? t.cursor).map BitVec.toNat).getD 0))] s
        else match s.readElems p.1 0 l with
          | .stop s => .stop s
          | .vals l s => .vals [(0, joinParts l)] s

/-- The values of v registers as an instruction reads them, one vector for each bound register (R168). -/
def State.readVecs (s : State) : List Nat → GotAll
  | [] => .vals [] s
  | v :: r =>
    let got := match s.me.stream v with
      | none => GotAll.vals [(0, (s.me.rv v).toNat)] s
      | some t => s.streamRead (v - 24) t
    match got with
    | .stop s => .stop s
    | .vals l s =>
      match State.readVecs s r with
      | .stop s => .stop s
      | .vals l' s => .vals ((v, (l.headD (0, 0)).2) :: l') s

/-- The value read for a v register. -/
def vecOf (l : List (Nat × Nat)) (v : Nat) : VWord :=
  BitVec.ofNat 512 (((l.find? fun p => p.1 == v).map Prod.snd).getD 0)

/-- A read stream's cursor moves past the vector delivered; an exhausted one stays (R168, R169). -/
def Ctx.consume (c : Ctx) (v : Nat) (w : VWord) : Ctx :=
  match c.stream v with
  | none => c
  | some t =>
    if t.isWrite || t.exhausted then c
    else
      let t' : Stream := { t with cursor := t.cursor + 1, fetched := t.fetched.erase t.cursor
                                  windowed := t.windowed.filter (· != t.cursor)
                                  skipped := t.skipped.filter (· != t.cursor), last := w }
      { c with streams := c.streams.set (v - 24) t' }

/-- Whether an instruction writes a vector to another package. -/
def State.farDest (s : State) (u : VUse) : Bool :=
  (u.dest.bind s.me.stream).any fun t => t.isWrite && (s.vecParts t.mode .write t.here).1 == 8

/-- The state in which an instruction looks its destination's address up again, where its reads displaced the translation from the TLB. -/
def State.destLost (s : State) (u : VUse) : Option State :=
  match u.dest.map s.destCheck with
  | some (.wait mode va r) => some (s.fail mode va r)
  | _ => none

/-- Runs an instruction with vector operands in the order of R170: stream faults, the instruction's own traps and waits
(own), absent pages of streams, and then the instruction with the values it read; one that writes a vector to another package follows
every stream read that has issued (R172, R277). Where a source's page is absent, `early` finds the own traps that need no such
value. -/
def State.vec (s : State) (u : VUse) (early : State → Option State) (own : State → (Nat → VWord) → ReadsDone)
    (run : State → (Nat → VWord) → State) : State :=
  match s.vecFault u with
  | .fault mode va t => (s.looked mode va).trap 7 t
  | .wait mode va r => s.fail mode va r
  | _ =>
    let srcs := u.srcs.dedup
    let absent := s.vecAbsent u
    match absent with
    | some va => (early s).getD (s.fail .flat va (.absent va))
    | none =>
      match s.readVecs srcs with
      | .stop s => s
      | .vals l s =>
        match if s.farDest u then s.finishReads else .on s with
        | .stop s => s
        | .on s => match own s (vecOf l) with
          | .stop s => s
          | .on s => (s.destLost u).getD (run (s.setMe (srcs.foldl (fun c v => c.consume v (vecOf l v)) s.me)) (vecOf l))

/-- No traps that are found before the sources are read. -/
def noEarly : State → Option State := fun _ => none

/-- No traps of its own. -/
def noOwn : State → (Nat → VWord) → ReadsDone := fun s _ => .on s

/-- A write of some bytes of an aligned 4-byte word in another package: one store (R170, R172, R277). -/
def State.writeFarWord (s : State) (q : Nat) (a : Word) (mask v : Nat) : State :=
  let s := s.looked .flat a
  let c := s.me
  let ord := match c.stores.getLast? with
    | some r => if r.pos = c.pos then r.ord else c.storeIds
    | none => c.storeIds
  (s.send q (.flatWord (s.netSrc 0) c.asid.toNat a.toNat c.storeIds mask (toBytes 4 v))).setMe
    { c with stores := c.stores ++ [{ id := c.storeIds, asid := c.asid, va := a.toNat, ord := ord, pos := c.pos, pc := c.pc }], storeIds := c.storeIds + 1 }

/-- A stream's vector is stored in another package: each 4-byte word whose bytes are enabled in one store, two whole ones together
(R172, R277). -/
def State.writeFarVec (s : State) (q : Nat) (a : Word) (w en : VWord) : State :=
  let mask (i : Nat) : Nat := (List.range 4).foldl (fun n b => if elem 8 en (4 * i + b) = 0 then n else n + 2 ^ b) 0
  (List.range 8).foldl (fun s i =>
    let at' (j : Nat) : Word := a + BitVec.ofNat 64 (4 * j)
    if mask (2 * i) = 15 ∧ mask (2 * i + 1) = 15 then (s.writePlace (at' (2 * i)) 8 (elem 64 w i) (.remote q)).getD s
    else [2 * i, 2 * i + 1].foldl (fun s j =>
      if mask j = 0 then s
      else if mask j = 15 then (s.writePlace (at' j) 4 (elem 32 w j) (.remote q)).getD s
      else s.writeFarWord q (at' j) (mask j) (elem 32 w j)) s) s

/-- Writes the enabled bits of a vector to vd, with a fixed latency or, for 0, a variable one. A bound write stream stores the enabled
bytes at its cursor; at another package each 4-byte word in one store (R172), once every stream read that has issued is done. The
cursor's address was looked up at `seen`. Other bits of a register keep the value it has at the issue or, for a variable latency, after
every earlier write (R85, R143, R170; log 12). -/
def State.putVec (s : State) (vd lat : Nat) (w en : VWord) (seen : State := s) : State :=
  match s.me.stream vd with
  | some t =>
    let p := seen.vecParts t.mode .write t.here
    let u := s.fetchWindows
    let pieces := ((List.range 64).filter fun b => elem 8 en b != 0).map fun b => (b, t.here + BitVec.ofNat 64 b)
    let s' := match seen.reachElems t.mode .write p.1 p.2 with
      | .ok ((_, _, .remote q) :: _) => u.writeFarVec q t.here w en
      | _ => match seen.reachElems t.mode .write 1 pieces with
        | .ok l => u.writeElems 1 (elem 8 w) l
        | .bad _ _ => u
    let t' : Stream := { t with cursor := t.cursor + 1, last := (t.last &&& ~~~en) ||| (w &&& en) }
    s'.setMe { s'.me with streams := s'.me.streams.set (vd - 24) t' }
  | none =>
    let merge (c : Ctx) := (c.rv vd &&& ~~~en) ||| (w &&& en)
    s.setMe (if lat = 0 then s.me.writeVar .v vd (merge (s.me.settle .v vd)) else s.me.writeFixed .v vd lat (merge s.me))

/-! ### Major STREAM (R167) -/

/-- The first vector of a descriptor fails R16 in a scratchpad mode (R171). -/
def State.firstBad (s : State) (t : Stream) : Bool :=
  t.mode != .flat && (s.padPlace s.focus t.mode t.here.toNat).isNone

/-- Whether a sampled descriptor is valid (R171). -/
def State.streamValid (s : State) (t : Stream) : Bool :=
  t.count != 0 && bits t.w0 47 0 % 64 == 0 && bits t.w2 31 0 % 64 == 0 && bits t.w2 63 32 % 64 == 0 && !s.firstBad t

/-- SBIND (R167, R171). -/
def execSbind (n : BitVec 3) (stl : Stall) (s : State) : Result :=
  .next (s.onCompute (.sbind n stl) fun s =>
    let k := n.toNat
    let c := s.me
    let t : Stream := { w0 := c.sdesc.get (4 * k) 0, w1 := c.sdesc.get (4 * k + 1) 0, w2 := c.sdesc.get (4 * k + 2) 0,
                        w3 := c.sdesc.get (4 * k + 3) 0 }
    if (c.streams.find? k).isSome then s.trap 7 (streamTval 1 k 0)
    else if !s.streamValid t then s.trap 7 (streamTval 0 k 0)
    else s.done stl fun c => { c.writeVar .v (24 + k) (c.rv (24 + k)) with streams := c.streams.set k t })

/-- A bound register is unbound and holds the last vector delivered or accepted (R167). -/
def Ctx.closeStream (c : Ctx) (k : Nat) : Ctx :=
  match c.streams.find? k with
  | none => c
  | some t => { c with streams := c.streams.erase k }.writeVar .v (24 + k) t.last

/-- SCLOSE (R167): every written vector has been stored at its writing instruction. -/
def execSclose (n : BitVec 3) (stl : Stall) (s : State) : Result :=
  .next (s.onCompute (.sclose n stl) fun s => s.done stl fun c => c.closeStream n.toNat)

/-- STREAM_PREFETCH (R172): a read stream fetches the next vector it has not fetched, at most eight ahead of the one
that was last consumed. A vector that cannot be read now is left to its consuming instruction. -/
def execStreamPrefetch (s : State) : Result :=
  match s.agenda with
  | .streamPrefetch k c n :: _ =>
    let s := s.pop
    let x := s.ctx k c
    match x.streams.find? n with
    | none => .next s
    | some t =>
      match (List.range 8).find? fun j => (t.fetched.find? (t.cursor + j)).isNone with
      | none => .next s
      | some j =>
        if s.isFrozen k x then .next s
        else .next { { s with focus := k, active := c }.fetchAhead n (t.cursor + j) with focus := s.focus, active := s.active }
  | _ => .next s

end Sys2Proof.Machine
end

