-- ==== Sys2Proof/Machine/Tasks.lean ====
section
/-!
DEFINITION. Tasks: where a free context's next work comes from (R189), starting and ending a task (R202 to R205, R306,
R314), the end of coaches and macro bindings (R217, R315), and major TASK (R201 to R209).
-/

namespace Sys2Proof.Machine

/-! ### Barriers (R211, R214) -/

/-- A barrier whose every member has arrived completes (R211). -/
def Barrier.settle (b : Barrier) : Barrier :=
  if b.members != 0 && b.arrived == b.members then { b with arrived := 0, phase := !b.phase } else b

/-- A slot leaves a barrier that its task's launch owns (R214). -/
def Barrier.leave (b : Barrier) (lid : BitVec 16) (slot : Nat) : Barrier :=
  if b.owner == lid then
    let keep : BitVec 32 := ~~~(1 <<< slot)
    { b with members := b.members &&& keep, arrived := b.arrived &&& keep }.settle
  else b

/-- A context that waits on a barrier that f names is released from it; where the save of its coach has begun it goes on after that (R211,
R339). -/
def Ctx.release (x : Ctx) (f : Nat → Bool) (saving : Bool := false) : Ctx :=
  match x.run with
  | .waiting (.barrier b _) => if f b then { x with run := if saving then .stopped else .ready, released := true } else x
  | _ => x

/-- The barriers of a cluster replaced; every waiter of one that completed is released, a saved one too (R211, R340). -/
def State.putBars (s : State) (cl : Nat) (bars : SMap Barrier) : State :=
  let old := (s.cluster cl).bars
  let f (b : Nat) : Bool := (old.get b {}).phase != (bars.get b {}).phase
  let t := s.updCluster cl fun x =>
    { x with bars := bars
             coaches := x.coaches.map fun co =>
               { co with saved := { co.saved with ctxs := co.saved.ctxs.mapVal fun _ y => y.release f } } }
  ([coreOf cl 0, coreOf cl 1, coreOf cl 2, coreOf cl 3, svcOf cl]).foldl
    (fun t k => t.updCore k fun co =>
      { co with ctxs := co.ctxs.mapVal fun _ y => y.release f (s.beingSaved k y)
                gated := co.gated && !co.ctxs.any fun p => p.2.release f != p.2 }) t

/-! ### Coaches and bindings -/

/-- Whether a context of a core runs a task of a coach slot. -/
def Core.hosts (co : Core) (slot : Nat) : Bool := co.ctxs.any fun p => p.2.coach == some slot && p.2.run != .idle

/-- Whether a request is halted (R254). -/
def Req.halted (r : Req) : Bool :=
  match r.state with
  | .halted _ => true
  | _ => false

/-- Whether a core keeps a coach in being: tasks, undispatched entries, records passed over, the record that it was formed for,
drained rows, matrix operations that are still to run and may drain rows, and halted requests (R217, R315; log 43). -/
def Core.keeps (co : Core) (c : Coach) : Bool :=
  co.hosts c.slot || co.holdsEntry c.slot || co.arrivals.any (fun r => r.lid == c.lid && (r.passed || c.fresh))
    || co.slots.any (fun p => p.2.lid == c.lid) || co.mxq.any (fun o => o.lid == c.lid)
    || co.reqs.any fun r => r.lid == c.lid && r.halted

/-- Whether a cluster keeps a resident coach in being (R315). -/
def State.coachKept (s : State) (cl : Nat) (c : Coach) : Bool :=
  (coresOf cl).any (fun k => (s.core k).keeps c) || (s.cluster cl).staged.any fun g => g.record.lid == c.lid

/-- The channel-table entries that an admission or an end of a coach writes are the last ones of their channels (R181). -/
def noteDue (due entries : List (Nat × Word)) : List (Nat × Word) :=
  due.filter (fun d => !entries.any fun e => e.1 == d.1) ++ entries

/-- A core without the channels that a coach slot owns (R181). -/
def Core.dropChannels (co : Core) (slot : Nat) : Core :=
  let mine (w : Word) : Bool := chEn w && bits w 50 48 == slot
  { co with chtab := co.chtab.filter fun p => !mine p.2
            due := noteDue co.due ((co.chtab.filter fun p => mine p.2).map fun p => (p.1, 0))
            weightsOf := co.weightsOf.filter fun p => !mine (co.chtab.get p.1 0) }

/-- Every resident coach of a cluster that nothing keeps ends, and its channels are disabled (R181, R315). -/
def State.endCoaches (s : State) (cl : Nat) : State :=
  let gone := (s.cluster cl).coaches.filter fun c =>
    (c.state == .resident || c.state == .preempted) && !s.coachKept cl c
  gone.foldl (fun s c =>
    ((coresOf cl).foldl (fun s k => s.updCore k fun co => co.dropChannels c.slot) s).updCluster cl fun x =>
      { x with coaches := x.coaches.filter fun d => !(d.lid == c.lid) }) s

/-- A core's macro unbinds when no task, row or operation of its coach remains, resident or saved (R217). -/
def State.endBinding (s : State) (k : Nat) : State :=
  let co := s.core k
  let tasks := co.ctxs.any fun p => p.2.lid == co.boundLid && p.2.coach.isSome && p.2.run != .idle
  let saved := (s.cluster (clusterOf k)).coaches.any fun c => c.lid == co.boundLid && c.state == .saved
  if co.bound.isNone || tasks || saved || !co.slots.isEmpty || !co.mxq.isEmpty then s
  else s.setCore k { co with bound := none, boundLid := 0, mx := {} }

/-! ### Ending a task (R127, R203, R205, R214) -/

/-- A context without a task. The number of its next request stays. -/
def Ctx.freed (x : Ctx) : Ctx := { storeIds := x.storeIds }

/-- A core whose context c has ended its task: its requests, operations and rows have no task any more, its stores to another package
are still to be acknowledged, and the row whose handler it ran is to depart (R126, R203, R232, R254). Rows of another launch are those of
a saved coach, and stay its own (R340). -/
def Core.orphan (co : Core) (c : Nat) : Core :=
  let x := co.ctxs.get c {}
  { co with
    reqs := co.reqs.map fun r => if r.owned && r.ctx == c then { r with owned := false, gens := some x.gens } else r
    mxq := co.mxq.map fun o =>
      if o.owned && o.ctx == c then { o with owned := false, gens := some x.gens, ended := co.tasksEnded } else o
    tasksEnded := co.tasksEnded + 1
    slots := co.slots.mapVal fun n t =>
      let t := if t.ctx = c ∧ t.lid = x.lid then { t with owned := false } else t
      if x.drainSlot = some n then { t with handler := none, ended := true } else t
    sendQ := co.sendQ.filter (· != c)
    orphans := co.orphans ++ x.stores.map fun r => (c, r)
    ctxs := co.ctxs.set c x.freed }

/-- An access fault of a task that has ended is only logged, under the Kind and words that R375 does not list (R254; log 28). -/
def State.logLost (s : State) (k : Nat) (lid : BitVec 16) : State :=
  let e := Config.unlistedLog s.free
  (s.logOn 0 (vdnOf k) (e.1 % 256) lid.toNat (targetWord s.pkg k) e.2.1 e.2.2).tick

/-- Whether a failure is an access fault: the others are logged where they arise (R235, R254). -/
def Failure.isAccess : Failure → Bool
  | .access _ => true
  | _ => false

/-- The task of context c of core k ends (R203): its pending access faults are logged (R254), then barriers, requests, rows, and
what its end makes end. -/
def State.endTask (s : State) (k c : Nat) : State :=
  let lid := (s.ctx k c).lid
  let s := ((s.ctx k c).deferred.filter fun d => d.why.isAccess).foldl (fun s _ => s.logLost k lid) s
  let s := s.putBars (clusterOf k) ((s.cluster (clusterOf k)).bars.mapVal fun _ b => b.leave lid (slotOf k c))
  ((s.updCore k fun co => co.orphan c).endBinding k).endCoaches (clusterOf k)

/-! ### Job-card counters (R209) -/

/-- The end of one card task on its card: a card whose N tasks have ended frees its place. -/
def State.cardEnd (s : State) (cl card : Nat) : State :=
  s.updCluster cl fun x =>
    match x.cards.find? card with
    | none => x
    | some j =>
      if j.ended + 1 = bits j.w2 63 32 then { x with cards := x.cards.erase card }
      else { x with cards := x.cards.set card { j with ended := j.ended + 1 } }

/-- The counter address of a card; 0 for none. -/
def Card.counter (j : Card) : Nat := bits j.w3 63 16

/-- The 1 that a card task's end adds to its card's counter, as a package-scope AMOADD with the card's ASID, for a place
already found. -/
def State.cardAdd (s : State) (pa : Nat) : State :=
  s.memWrite ioHolder none pa 8 ((s.memRead pa 8 + 1) % 2 ^ 64)

/-- The counter of the card that context c of core k runs a task of, if it has one. -/
def State.cardCounter (s : State) (k c : Nat) : Option Nat :=
  (s.ctx k c).card.bind fun p => ((s.cluster p.1).cards.find? p.2).bind fun j =>
    if j.counter = 0 then none else some j.counter

/-- The end of a task as EXIT and MIGR make it: a card task's counter first, with the checks of an AMO (R136, R209). -/
def State.finish (s : State) (go : State → State) : State :=
  let card := s.me.card
  let last (s : State) : State := match card with | some p => s.cardEnd p.1 p.2 | none => s
  match s.cardCounter s.focus s.active with
  | none => last (go s)
  | some a =>
    let va := BitVec.ofNat 64 a
    match s.reachAt ioHolder .flat .readWrite va 8 with
    | .ok (.mem pa) =>
      if poisonedAt s.poison pa 8 then s.poisonTrap (.mem pa) va
      else s.after true fun s => last (go ((s.tlbCopy s.focus s.me.asid va).cardAdd pa))
    | .ok _ => (s.looked .flat va).trap 3 va
    | r => s.fail .flat va r

/-- A counter that the end of a killed task adds 1 to receives it, or is still owed it while its translation misses, its page is absent or
its tokens are away; one that is denied or poisoned receives nothing (R209, R349, R350; log 42). -/
def State.payCounter (s : State) (cl : Nat) (o : Nat × BitVec 13 × Word) : State :=
  let keep (s : State) : State := s.updCluster cl fun x => { x with owed := x.owed ++ [o] }
  let seen := s.tlbCopy o.1 o.2.1 o.2.2
  match s.withTokens ioHolder .readWrite (s.reachFor o.1 o.2.1 false .flat .readWrite o.2.2) with
  | .ok (.mem pa) => if poisonedAt s.poison pa 8 then seen else seen.cardAdd pa
  | .miss acc va => keep (s.postMiss o.1 o.2.1 acc va.toNat)
  | .absent _ => keep seen
  | .line h n write => keep (seen.want h n write (.owed cl))
  | _ => seen

/-- Every counter that a cluster owes is tried. -/
def State.payOwed (s : State) (cl : Nat) : State :=
  (s.cluster cl).owed.foldl (fun s o => s.payCounter cl o) (s.updCluster cl fun x => { x with owed := [] })

/-- The same for a task that KILL ends: it has ended, and its counter receives its 1 when it can be reached. -/
def State.killCard (s : State) (k c : Nat) : State :=
  match (s.ctx k c).card with
  | none => s
  | some card =>
    (match s.cardCounter k c with
      | none => s
      | some a => s.payCounter (clusterOf k) (k, (s.ctx k c).asid, BitVec.ofNat 64 a)).cardEnd card.1 card.2

/-! ### Starting a task (R188, R189, R231, R306, R314) -/

/-- A context with task-start values (R306); args fill a0 upwards. -/
def Coach.taskStart (co : Coach) (x : Ctx) (pc : Word) (args : List Word) (cls : Nat) (tile : BitVec 48) : Ctx :=
  let base : Ctx :=
    { storeIds := x.storeIds, pc := pc, lid := co.lid, asid := co.asid, tile := tile, run := .ready, coach := some co.slot
      cls := BitVec.ofNat 2 (Nat.min cls co.cap.toNat), cap := co.cap, predl := co.predl }
  args.zipIdx.foldl (fun c p => c.setX (10 + p.2) p.1) (base.setX 4 co.kp)

/-- Whether a coach may start a task: resident, no pre-emption asked, not frozen (R343, R344). -/
def State.startable (s : State) (c : Coach) : Bool := c.state == .resident && !s.jobFrozen c.lid.toNat

/-- The coach of a launch on a cluster, if it may start a task. -/
def State.startCoach (s : State) (cl : Nat) (lid : BitVec 16) : Option Coach :=
  ((s.cluster cl).coachOf lid).filter s.startable

/-- Work that waits for a context (R189): record i of the arrival queue, or record i that a job card dealt. -/
inductive Work where
  | drain (slot : Nat)
  | event (ch : Nat)
  | record (i : Nat)
  | card (i : Nat)
  deriving DecidableEq, Repr

/-- How many handlers of a channel run on a core (R188). -/
def Core.running (co : Core) (ch : Nat) : Nat :=
  (co.ctxs.filter fun p => p.2.run != .idle && p.2.handlerOf == some ch).length

/-- The drained row that is next for dispatch on core k, with its class (R231). -/
def State.drainWork (s : State) (k : Nat) : Option (Nat × Work) :=
  (s.core k).drainQ.head?.bind fun n =>
    ((s.core k).slots.find? n).bind fun t =>
      (s.startCoach (clusterOf k) t.lid).map fun c => (Nat.min (bits t.regs.mdrh 62 61) c.cap.toNat, .drain n)

/-- The dispatch that channel ch of core k has waiting, with its class (R188). -/
def State.eventWork (s : State) (k ch : Nat) : Option (Nat × Work) :=
  let co := s.core k
  let w := co.chtab.get ch 0
  if !chEn w || bits w 47 2 == 0 || !(co.queue.any fun e => e.channel.toNat == ch)
      || decide (bits w 60 58 < co.running ch) then none
  else
    (((s.cluster (clusterOf k)).coachIn (bits w 50 48)).filter s.startable).map fun c =>
      (Nat.min (bits w 62 61) c.cap.toNat, .event ch)

/-- The addresses of the words of the record of a card at an address (R208). -/
def Card.wordsAt (j : Card) (base : Word) : List Word :=
  (List.range (bits j.w2 5 0 / 8)).map fun i => base + BitVec.ofNat 64 (8 * i)

/-- The words of a record of a card as a read of core k finds them, at user privilege; the first obstacle otherwise. A generator
window, another package and a poisoned word fault as the record (R209, R370; log 16). -/
def State.cardWords (s : State) (k : Nat) (asid : BitVec 13) : List Word → Sum Reach (List Word)
  | [] => .inr []
  | a :: r =>
    match s.withTokens (vdnOf k) .read (s.reachFor k asid false .flat .read a) with
    | .ok (.mem pa) =>
      if poisonedAt s.poison pa 8 then .inl (.trap 3 a)
      else match State.cardWords s k asid r with
        | .inl e => .inl e
        | .inr l => .inr (BitVec.ofNat 64 (s.memRead pa 8) :: l)
    | .ok _ => .inl (.trap 3 a)
    | e => .inl e

/-- The words of a record that was in an absent page when it was dealt, as core k reads them now; none for any other record. -/
def State.lateWords (s : State) (k : Nat) (r : Record) : Option (Sum Reach (List Word)) :=
  r.late.bind fun a => ((s.cluster (clusterOf k)).cards.find? r.card.toNat).map fun j =>
    s.cardWords k j.asid (j.wordsAt a)

/-- Whether a record's words are there, or can be read now (R209). -/
def State.recordReady (s : State) (k : Nat) (r : Record) : Bool :=
  match s.lateWords k r with
  | some (.inl (.absent _)) => false
  | some (.inl (.miss _ _)) => false
  | some (.inl (.line _ _ _)) => false
  | _ => true

/-- The first record, among some of core k with their places, that can start, with its class. A record whose coach could be formed
now is not passed over (R209, R314). -/
def State.firstRecord (s : State) (k : Nat) : List (Record × Nat) → Option (Nat × Work)
  | [] => none
  | (r, i) :: rest =>
    match s.startCoach (clusterOf k) r.lid with
    | some c =>
      if s.recordReady k r then
        some (Nat.min r.cls.toNat c.cap.toNat, if r.origin = 3 then .card i else .record i)
      else State.firstRecord s k rest
    | none => if s.formable (clusterOf k) r.lid none then none else State.firstRecord s k rest

/-- How many records of a queue of core k a free context reaches: up to the first that can start or whose coach could be formed now
(R314). -/
def State.reached (s : State) (k : Nat) : List Record → Nat
  | [] => 0
  | r :: rest =>
    match s.startCoach (clusterOf k) r.lid with
    | some _ => if s.recordReady k r then 1 else 1 + State.reached s k rest
    | none => if s.formable (clusterOf k) r.lid none then 1 else 1 + State.reached s k rest

/-- A coach of a launch is about to come to a cluster: the launch's records that free contexts have reached without it have been passed
over (R314, R315). -/
def State.notePassed (s : State) (cl : Nat) (lid : BitVec 16) : State :=
  let upto (k : Nat) : Nat :=
    if (List.range 8).any (fun c => s.freeCtx k c) then s.reached k (s.core k).arrivals else 0
  (coresOf cl).foldl (fun t k => t.updCore k fun co =>
    { co with arrivals := co.arrivals.mapIdx fun n r => if n < upto k ∧ r.lid = lid then { r with passed := true } else r }) s

/-- The record of core k's arrival queue that starts next, with its class (R314). -/
def State.recordWork (s : State) (k : Nat) : Option (Nat × Work) := s.firstRecord k (s.core k).arrivals.zipIdx

/-- The work of the highest class, the first of equal ones in the order of the list. -/
def bestOf (l : List (Nat × Work)) : Option Work :=
  (l.foldl (fun (acc : Option (Nat × Work)) w =>
    match acc with
    | none => some w
    | some b => if b.1 < w.1 then some w else some b) none).map Prod.snd

/-- The work that a free context of core k goes to (R189). -/
def State.nextWork (s : State) (k : Nat) : Option Work :=
  bestOf ((s.drainWork k).toList ++ (List.range 64).filterMap (s.eventWork k) ++ (s.recordWork k).toList)

/-- A core whose i-th record has left its bank. -/
def Core.takeRecord (co : Core) (i : Nat) : Core := { co with arrivals := co.arrivals.eraseIdx i }

/-- The i-th record of core k leaves its bank to start: those before it that have no coach have been passed over (R314). -/
def State.leaveBank (s : State) (k i : Nat) : State :=
  s.updCore k fun co => { co with arrivals := (co.arrivals.mapIdx fun n r =>
    if n < i ∧ (s.startCoach (clusterOf k) r.lid).isNone then { r with passed := true } else r).eraseIdx i }

/-- A coach has started a task (R315). -/
def State.notFresh (s : State) (cl : Nat) (lid : BitVec 16) : State :=
  s.updCluster cl fun x => { x with coaches := x.coaches.map fun c => if c.lid == lid then { c with fresh := false } else c }

/-- Record i of core k starts in context c, its words as given (R306, R314). -/
def State.startRecord (s : State) (k c i : Nat) (r : Record) (co : Coach) (args : List Word) : State :=
  ((s.leaveBank k i).updCtx k c fun x =>
    { co.taskStart x r.pc args r.cls.toNat r.tile with
      card := if r.origin = 3 then some (clusterOf k, r.card.toNat) else none }).notFresh (clusterOf k) r.lid

/-- RECORD_START (R314): a free context starts the first record whose coach can run it. -/
def execRecordStart (s : State) : Result :=
  match s.agenda with
  | .recordStart k c :: _ =>
    let s := s.pop
    match s.nextWork k with
    | some (.record i) =>
      match (s.core k).arrivals[i]? with
      | none => .next s
      | some r =>
        match s.startCoach (clusterOf k) r.lid with
        | none => .next s
        | some co => .next (if s.freeCtx k c then s.startRecord k c i r co r.args else s)
    | _ => .next s
  | _ => .next s

/-- Whether a record of core k waits in the spill buffer or in the ring (R207, R313). -/
def State.spilled (s : State) (k : Nat) : Bool :=
  let x := s.cluster (clusterOf k)
  x.ring.any (fun r => r.core == k) || x.spill.any fun r => r.1 == k

/-- Whether an arriving record of core k finds a bank place: fewer than 48 wait and none of the core's is in the ring
(R207). -/
def State.bankFree (s : State) (k : Nat) : Bool := decide ((s.core k).arrivals.length < 48) && !s.spilled k

/-- Whether the spill buffer of a cluster takes n records more, each with a ring slot to go to (R312, R313). -/
def Cluster.spillRoom (x : Cluster) (n : Nat) : Bool :=
  decide (x.spill.length + n < 256) && decide (x.ring.length + x.spill.length + n < x.ringSlots)

/-- Whether a record for core k can be taken, those on their way counted (R207, R313). -/
def State.recordRoom (s : State) (k : Nat) : Bool :=
  (s.cluster (clusterOf k)).spillRoom (s.records.filter fun r => clusterOf r.1 == clusterOf k).length
    || (s.bankFree k && decide ((s.core k).arrivals.length + (s.records.filter fun r => r.1 == k).length < 48))

/-- A record joins core k's arrival queue, in its bank or by the spill buffer; none when there is no room (R207, R312, R313). -/
def State.enqueueRecord (s : State) (k : Nat) (r : Record) : Option State :=
  let x := s.cluster (clusterOf k)
  let r := { r with since := s.ptc }
  if s.bankFree k then some (s.updCore k fun co => { co with arrivals := co.arrivals ++ [r], gated := false })
  else if x.spillRoom 0 then some (s.setCluster (clusterOf k) { x with spill := x.spill ++ [(k, r)] })
  else none

/-- RECORD_ARRIVAL (R207): the oldest record on its way to core k arrives. -/
def execRecordArrival (s : State) : Result :=
  match s.agenda with
  | .recordArrival k :: _ =>
    let s := s.pop
    match takeFirst (fun r => r.1 == k) s.records with
    | none => .next s
    | some (r, rest) =>
      match s.enqueueRecord k r.2 with
      | none => .next s
      | some s => .next { s with records := rest }
  | _ => .next s

/-- Word 0 of a record (R307, R311). -/
def Record.word0 (r : Record) : Word :=
  BitVec.ofNat 64 (r.pc.toNat % 2 ^ 48 / 4 * 2 ^ 18 + r.lid.toNat * 4 + r.cls.toNat)

/-- The companion word of a record (R311). -/
def Record.companion (r : Record) : Word :=
  BitVec.ofNat 64 ((if r.cardCnt then 2 ^ 54 else 0) + r.card.toNat * 2 ^ 52 + r.origin.toNat * 2 ^ 48 + r.tile.toNat)

/-- A launch is marked failed (R313). -/
def State.failLaunch (s : State) (lid : Nat) : State :=
  match s.launches.find? lid with
  | none => s
  | some l => { s with launches := s.launches.set lid { l with failed := true } }

/-- A record of core k is lost to an uncorrectable error: it is logged and its launch marked failed (R313, R370). The card that dealt it
counts it among its tasks that have ended, and adds nothing to its counter: the spec does not say so (log 42). -/
def State.withdraw (s : State) (k : Nat) (r : Record) : State :=
  let s := if r.origin = 3 then s.cardEnd (clusterOf k) r.card.toNat else s
  ((s.logCore k 10 r.lid r.word0 r.companion).failLaunch r.lid.toNat).endCoaches (clusterOf k)

/-- The nine words of a record and its companion word (R311, R313). -/
def Record.words (r : Record) : List Word :=
  r.word0 :: (List.range 7).map (fun n => r.args.getD n 0) ++ [r.companion]

/-- A record as nine words hold it (R307, R311). -/
def Record.ofWords (l : List Word) (g : RingSlot) (poisoned : Bool) : Record :=
  let w := l.getD 0 0
  let m := l.getD 8 0
  { pc := BitVec.ofNat 64 (4 * bits w 63 18), lid := BitVec.ofNat 16 (bits w 17 2), cls := BitVec.ofNat 2 (bits w 1 0)
    args := (l.drop 1).take 7, cardCnt := bit m 54, card := BitVec.ofNat 2 (bits m 53 52)
    origin := BitVec.ofNat 3 (bits m 50 48), tile := BitVec.ofNat 48 (bits m 47 0), poisoned := poisoned
    since := g.since, late := g.late, fault := g.fault }

/-- The address of a slot of a cluster's ring: where firmware has placed the ring, else 4,096 slots for each cluster downwards
from the top of package memory (R313; log 61). -/
def State.slotAddr (s : State) (cl slot : Nat) : Nat :=
  (s.cluster cl).ringBase.getD (memorySize - 524288 * (cl + 1)) + 128 * slot

/-- The spill engine writes a record to a slot: the record, the companion word, zeros (R313). -/
def State.writeSlot (s : State) (cl slot : Nat) (r : Record) : State :=
  let l : List Word := r.words ++ List.replicate 7 0
  l.zipIdx.foldl (fun s p =>
    s.memWrite (cl / 64) none (s.slotAddr cl slot + 8 * p.2) 8 p.1.toNat) s

/-- The record in a slot, as the spill engine reads it back (R313, R370). -/
def State.readSlot (s : State) (cl : Nat) (g : RingSlot) : Record :=
  let a := s.slotAddr cl g.slot
  Record.ofWords ((List.range 9).map fun n => BitVec.ofNat 64 (s.memRead (a + 8 * n) 8)) g (poisonedAt s.poison a 72)

/-- The oldest record of the spill buffer goes to the lowest free slot of the ring, once its line's tokens can be had (R272, R312, R313). -/
def State.spillOne (s : State) (cl : Nat) : State :=
  let x := s.cluster cl
  match x.spill with
  | [] => s
  | (k, r) :: rest =>
    match lowest x.ringSlots fun n => !x.ring.any fun g => g.slot == n with
    | none => s
    | some n =>
      if s.lineBlocked (cl / 64) (lineOf (s.slotAddr cl n)) true then s.want (cl / 64) (lineOf (s.slotAddr cl n)) true (.spill cl)
      else (s.setCluster cl { x with spill := rest, ring := x.ring ++ [⟨k, n, r.since, r.late, r.fault⟩] }).writeSlot cl n r

/-- RING_RETURN (R207, R313): the oldest record of core k that spilled takes a free bank place, from the ring or straight from the spill
buffer, once its line's tokens can be had; a poisoned one is withdrawn instead (R272, R370). Where there is none to return, the spill
engine writes the next record of the buffer to the ring. -/
def execRingReturn (s : State) : Result :=
  match s.agenda with
  | .ringReturn k :: _ =>
    let s := s.pop
    let cl := clusterOf k
    let full := decide (48 ≤ (s.core k).arrivals.length)
    let bank (s : State) (r : Record) : State :=
      s.updCore k fun co => { co with arrivals := co.arrivals ++ [r], gated := false }
    match if full then none else takeFirst (fun g => g.core == k) (s.cluster cl).ring with
    | some (g, rest) =>
      let r := s.readSlot cl g
      let line := lineOf (s.slotAddr cl g.slot)
      if s.lineBlocked (cl / 64) line false then .next (s.want (cl / 64) line false (.ring cl))
      else
        let s := (s.updCluster cl fun x => { x with ring := rest }).holderReads (cl / 64) [s.slotAddr cl g.slot]
        .next (if r.poisoned then s.withdraw k r else bank s r)
    | none =>
      match if full then none else takeFirst (fun p => p.1 == k) (s.cluster cl).spill with
      | some (p, rest) => .next (bank (s.updCluster cl fun x => { x with spill := rest }) p.2)
      | none => .next (s.spillOne cl)
  | _ => .next s

/-- BANK_RECORD_WITHDRAWN (R313, R370): record i of core k's bank, of the cluster's staged places or of its spill buffer is lost to
an uncorrectable error; it is logged and its launch marked failed. -/
def execBankRecordWithdrawn (s : State) : Result :=
  match s.agenda with
  | .bankRecordWithdrawn k place i :: _ =>
    let s := s.pop
    let cl := clusterOf k
    match place with
    | .arrival =>
      match (s.core k).arrivals[i]? with
      | none => .next s
      | some r => .next ((s.updCore k fun x => x.takeRecord i).withdraw k r)
    | .staged =>
      match (s.cluster cl).staged[i]? with
      | none => .next s
      | some g => .next ((s.updCluster cl fun x => { x with staged := x.staged.eraseIdx i }).withdraw g.core g.record)
    | .spill =>
      match (s.cluster cl).spill[i]? with
      | none => .next s
      | some p => .next ((s.updCluster cl fun x => { x with spill := x.spill.eraseIdx i }).withdraw p.1 p.2)
  | _ => .next s

/-! ### Tasks of a job card (R208, R209) -/

/-- What a record of core k, dealt with its page absent, still lacks: its miss notice is sent, or it waits for a line's tokens (R209, R272,
R350). -/
def State.seekLate (s : State) (k : Nat) : State :=
  let cl := clusterOf k
  match (s.core k).arrivals.findSome? fun r =>
      match s.lateWords k r with
      | some (.inl (.miss acc va)) => some (r, Reach.miss acc va)
      | some (.inl (.line h n write)) => some (r, Reach.line h n write)
      | _ => none with
  | some (r, .miss acc va) => (((s.cluster cl).cards.find? r.card.toNat).map fun j => s.postMiss k j.asid acc va.toNat).getD s
  | some (r, .line h n write) => s.want h n write (.card cl r.card.toNat)
  | _ => s

/-- CARD_TASK_START (R209): a free context starts the next record that a job card dealt. A record that faults starts its task
trapped; one in an absent page delays its own task only. -/
def execCardTaskStart (s : State) : Result :=
  match s.agenda with
  | .cardTaskStart k _ c :: _ =>
    let s := s.pop.payOwed (clusterOf k)
    match s.nextWork k with
    | some (.card i) =>
      match (s.core k).arrivals[i]? with
      | none => .next s
      | some r =>
        match s.startCoach (clusterOf k) r.lid with
        | none => .next s
        | some co =>
          let trapped (a : Word) : State := (s.startRecord k c i r co []).trapCtx k c 3 false r.pc a
          if !s.freeCtx k c then .next s
          else match r.fault, s.lateWords k r with
            | some a, _ => .next (trapped a)
            | none, none => .next (s.startRecord k c i r co r.args)
            | none, some (.inr args) =>
              let pas := ((r.late.bind fun a => ((s.cluster (clusterOf k)).cards.find? r.card.toNat).map fun j =>
                memsOf ((j.wordsAt a).map (s.reachFor k j.asid false .flat .read))).getD [])
              .next ((s.startRecord k c i r co args).holderReads (vdnOf k) pas)
            | none, some (.inl _) => .next (trapped (r.late.getD 0))
    | _ => .next (s.seekLate k)
  | _ => .next s

/-! ### Major TASK (R201 to R209) -/

/-- EXIT (R203). -/
def execExit (stl : Stall) (s : State) : Result :=
  .next (s.onCompute (.exit stl) fun s => s.finish fun s => s.endTask s.focus s.active)

/-- x[n] with bits [1:0] cleared, as a pc. -/
def Ctx.pcOf (c : Ctx) (n : Reg) : Word := c.rx n.toNat &&& ~~~(3 : Word)

/-- The first n argument registers, a0 upwards (R80). -/
def Ctx.argRegs (c : Ctx) (n : Nat) : List Word := (List.range n).map fun i => c.rx (10 + i)

/-- The record of a SPAWN or MIGR: it holds Pc [47:2] (R204, R205, R311). -/
def Ctx.taskRecord (c : Ctx) (pc : Word) (args : List Word) (origin : BitVec 3) : Record :=
  { pc := pc &&& 0x0000FFFFFFFFFFFC#64, lid := c.lid, cls := c.cls, args := args, origin := origin, tile := c.tile }

/-- Runs f on the compute core that a target word names, of the own package (R174, R201). -/
def State.onTarget (s : State) (w : Word) (f : State → Nat → State) : State :=
  if targetPkg w = s.pkg ∧ s.targetOk w then f s (targetCore w) else s.trap 3 w

/-- SPAWN (R204, R287): it follows every stream read that has issued; the target takes the record into its bank, or the child runs
inline. R109 names a branch or jump only: the model takes an inline start for one, so a denied fetch there reports the SPAWN's pc in
TVAL (log 72). -/
def execSpawn (rs1 rs2 : Reg) (stl : Stall) (s : State) : Result :=
  .next (s.onCompute (.spawn rs1 rs2 stl) fun s =>
    s.issue { reads := [useX rs1, useX rs2, (.x, 10), (.x, 11), (.x, 12), (.x, 13)], writes := [(.x, 1)] } fun s =>
      s.onTarget (s.me.rx rs1.toNat) fun s k =>
        let child := s.me.pcOf rs2
        s.after true fun s =>
        if s.bankFree k then
          (s.updCore k fun co => { co with
              arrivals := co.arrivals ++ [{ s.me.taskRecord child (s.me.argRegs 4) 1 with since := s.ptc }]
              gated := false }).done stl id
        else s.setMe { (s.me.varX 1 (s.me.pc + 4)).goto stl child with branch := some s.me.pc })

/-- MIGR (R205, R287): after every stream read that has issued, the record goes to the target's arrival queue, and the task ends here. -/
def execMigr (rs1 rs2 : Reg) (stl : Stall) (s : State) : Result :=
  .next (s.onCompute (.migr rs1 rs2 stl) fun s =>
    s.issue { reads := [useX rs1, useX rs2] ++ (List.range 7).map fun i => (.x, 10 + i) } fun s =>
      s.onTarget (s.me.rx rs1.toNat) fun s k =>
        if !s.recordRoom k then s.wait (.ring k)
        else s.after true fun s => s.finish fun s =>
          let r := s.me.taskRecord (s.me.pcOf rs2) (s.me.argRegs 7) 2
          { s with records := s.records ++ [(k, r)] }.endTask s.focus s.active)

/-- YIELD (R206): stops for a pre-emption, or lets the scheduler pass the context over once. The reservation is lost
(R135). R86 lists a yield among the stops, and R206 stops the context with Req = 1 only: the model leaves pending writes pending
where it does not stop (log 71). -/
def execYield (stl : Stall) (s : State) : Result :=
  .next (s.onCompute (.yield stl) fun s =>
    if s.me.preq then s.setMe { (s.me.next stl).flush with run := .yielded, stall := 0, reserve := none }
    else s.setMe { s.me.next stl with passed := true, reserve := none })

/-- Whether the words of a card are refused with busy code 2 (R208). -/
def cardBad (w1 w2 w3 : Word) : Bool :=
  let size := bits w2 5 0
  size == 0 || size % 8 != 0 || decide (56 < size) || bits w3 3 0 == 0 || w1.toNat % 8 != 0 || bits w3 63 16 % 8 != 0

/-- JOBCARD (R208): one that is accepted follows every stream read that has issued, as a release does (R172, R287). -/
def execJobcard (rd : Reg) (rs1 rs2 : Pair) (stl : Stall) (s : State) : Result :=
  .next (s.onCompute (.jobcard rd rs1 rs2 stl) fun s =>
    s.issue { reads := usePairs rs1 rs2, writes := [useX rd] } fun s =>
      let c := s.me
      let w1 := c.rx (pairReg rs1 + 1)
      let w2 := c.rx (pairReg rs2)
      let w3 := c.rx (pairReg rs2 + 1)
      let answer (s : State) (n : Nat) : State := s.done stl fun c => c.varX rd.toNat (BitVec.ofNat 64 n)
      if cardBad w1 w2 w3 then answer s 2
      else if bits w2 63 32 = 0 then s.after true fun s => answer s 0
      else match lowest 4 fun n => (s.myCluster.cards.find? n).isNone with
        | none => answer s 1
        | some n =>
          let card : Card := { w0 := c.rx (pairReg rs1), w1 := w1, w2 := w2, w3 := w3, lid := c.lid, asid := c.asid,
                               tile := c.tile, cls := c.cls, coach := c.coach.getD 0 }
          s.after true fun s => answer (s.updCluster (clusterOf s.focus) fun x => { x with cards := x.cards.set n card }) 0)

/-- A core's part of a card with its first record taken. -/
def Card.take (j : Card) (core : Nat) : Card :=
  { j with chunks := j.chunks.map fun ch => if ch.1 = core then (ch.1, ch.2.1 + 1, ch.2.2) else ch }

/-- The record that a card deals from an address, with what its read finds (R209, R311). -/
def Card.record (j : Card) (n : Nat) (args : List Word) (late fault : Option Word) : Record :=
  { pc := j.w0 &&& 0x0000FFFFFFFFFFFC#64, lid := j.lid, cls := j.cls, args := args, cardCnt := j.counter != 0
    card := BitVec.ofNat 2 n, origin := 3, tile := j.tile, late := late, fault := fault }

/-- The first undealt record of core j's chunk of card n is read and joins the core's arrival queue; without room, while its
translation is looked up, or while its line's tokens are away, it waits undealt (R207, R209, R272, R313). A hit of its lookup in the cluster
TLB is copied (R349). -/
def State.dealRecord (s : State) (cl n j : Nat) (card : Card) (i : Nat) : State :=
  let k := coreOf cl j
  let base := BitVec.ofNat 64 (card.w1.toNat + bits card.w2 5 0 * i)
  let pas := memsOf ((card.wordsAt base).map (s.reachFor k card.asid false .flat .read))
  let words := s.cardWords k card.asid (card.wordsAt base)
  let s := (card.wordsAt base).foldl (fun s a => s.tlbCopy k card.asid a) s
  let put (r : Record) : State :=
    match s.enqueueRecord k r with
    | none => s
    | some s => s.updCluster cl fun x => { x with cards := x.cards.set n (card.take j) }
  match words with
  | .inr args => (put (card.record n args none none)).holderReads (vdnOf k) pas
  | .inl (.miss acc va) => s.postMiss k card.asid acc va.toNat
  | .inl (.absent _) => put (card.record n [] (some base) none)
  | .inl (.line h m write) => s.want h m write (.card cl n)
  | .inl _ => put (card.record n [] none (some base))

/-- JOB_CARD_DEAL (R209): the next undealt record of core j's chunk of a card is dealt; an enabled core with a free context and no
undealt record of the card is given the next chunk (log 17). What the cluster owes to counters is tried first (R209). -/
def execJobCardDeal (s : State) : Result :=
  match s.agenda with
  | .jobCardDeal cl n j :: _ =>
    let s := s.pop.payOwed cl
    match (s.cluster cl).cards.find? n with
    | none => .next s
    | some card =>
      let total := bits card.w2 63 32
      let cores := bits card.w3 3 0
      let free := (List.range 8).any fun c => s.freeCtx (coreOf cl j) c
      if s.jobFrozen card.lid.toNat then .next s
      else match card.chunks.find? fun ch => ch.1 == j && decide (ch.2.1 < ch.2.2) with
        | some ch => .next (s.dealRecord cl n j card ch.2.1)
        | none =>
          if total ≤ card.next ∨ !free ∨ 4 ≤ j ∨ !cores.testBit j ∨ !s.recordRoom (coreOf cl j) then .next s
          else
            let size := Nat.max 1 (ceilDiv (total - card.next) (2 * countBelow 4 cores.testBit))
            let upto := Nat.min total (card.next + size)
            let card' := { card with next := upto
                                     chunks := (card.chunks.filter fun ch => ch.1 != j) ++ [(j, card.next, upto)] }
            .next (s.updCluster cl fun x => { x with cards := x.cards.set n card' })
  | _ => .next s

end Sys2Proof.Machine
end

