-- ==== Sys2Proof/Machine/Requests.lean ====
section
/-!
DEFINITION. Requests of the command FIFO: their words (R243 to R245, R256, R259), their checks at issue (R247), tags
(R248 to R252) and counters (R253). Majors COPY, SLICE and NET as they issue, and the tag and counter instructions of
major SYNC.
-/

namespace Sys2Proof.Machine

/-! ### The completion word (R243) -/

/-- The counter address; 0 for none. -/
def cntAddr (w3 : Word) : Nat := 8 * bits w3 63 19
/-- Shape (R245). -/
def shapeOf (w3 : Word) : Nat := bits w3 18 17
/-- RemoteCnt. -/
def remoteCnt (w3 : Word) : Bool := bit w3 16
/-- ROp of REDCOPY. -/
def ropOf (w3 : Word) : Nat := bits w3 15 14
/-- RType of REDCOPY. -/
def rtypeOf (w3 : Word) : Nat := bits w3 13 12
/-- TagEn. -/
def tagEn (w3 : Word) : Bool := bit w3 7
/-- Tag. -/
def tagOf (w3 : Word) : Nat := bits w3 5 0

/-! ### Box geometry (R245) -/

/-- The bytes of a box. -/
def boxBytes (w2 : Word) : Nat := boxLen0 w2 * boxCount1 w2 * boxCount2 w2

/-- The offset of byte n of a box on a strided or a packed side (R245). -/
def boxOff (w2 : Word) (strided : Bool) (n : Nat) : Nat :=
  if strided then
    n % boxLen0 w2 + boxStride1 w2 * (n / boxLen0 w2 % boxCount1 w2)
      + boxStride2 w2 * (n / (boxLen0 w2 * boxCount1 w2))
  else n

/-- Whether Shape makes the source strided. -/
def srcStrided (shape : Nat) : Bool := shape == 0 || shape == 1
/-- Whether Shape makes the destination strided. -/
def dstStrided (shape : Nat) : Bool := shape == 0 || shape == 2

/-- The counts are within their limits. -/
def boxOk (w2 : Word) : Bool := boxLen0 w2 != 0 && boxCount1 w2 != 0 && boxCount2 w2 != 0

/-- A strided destination does not overlap itself (R245). -/
def boxApart (w2 : Word) : Bool :=
  (decide (boxCount1 w2 ≤ 1) || decide (boxLen0 w2 ≤ boxStride1 w2))
    && (decide (boxCount2 w2 ≤ 1)
      || decide (boxStride1 w2 * (boxCount1 w2 - 1) + boxLen0 w2 ≤ boxStride2 w2))

/-! ### Address words (R244, R259) -/

/-- The mode of a local address word. -/
def wordMode (w : Word) : AddrMode := AddrMode.ofBits (BitVec.ofNat 2 (bits w 49 48))
/-- The address of an address word. -/
def wordAddr (w : Word) : Nat := bits w 47 0
/-- Mcast of a destination word. -/
def mcast (w1 : Word) : Bool := bit w1 63
/-- The package of a remote address word. -/
def wordPkg (w : Word) : Nat := bits w 62 56

/-- A source word's reserved bits are 0. -/
def srcWordOk (w : Word) : Bool := bits w 63 50 == 0
/-- A destination word's reserved bits are 0, and a multicast names a core. -/
def dstWordOk (w : Word) : Bool :=
  if mcast w then bits w 62 60 == 0 && bits w 55 17 == 0 && bits w 59 56 != 0 else bits w 62 50 == 0
/-- A remote word's reserved bits are 0. -/
def farWordOk (w : Word) : Bool := !bit w 63 && bits w 55 48 == 0

/-- The receivers of a local destination word for core k (R247). -/
def receiversOf (k : Nat) (w1 : Word) : List Nat :=
  if mcast w1 then ((List.range 4).filter fun j => bit w1 (56 + j)).map (coreOf (clusterOf k)) else [k]

/-! ### What a request moves -/

/-- Count of a SLICE request. -/
def sliceCount (w2 : Word) : Nat := bits w2 63 48
/-- NB of BIN. -/
def binNb (w2 : Word) : Nat := bits w2 44 32
/-- Shift of BIN. -/
def binShift (w2 : Word) : Nat := bits w2 20 16

/-- The bytes that a request of a kind posts (R245, R256). -/
def postedBytes (kind : ReqKind) (w2 : Word) : Nat :=
  match kind with
  | .gather => sliceCount w2 * gatherSize w2
  | .scatadd => sliceCount w2 * elemSize (scatType w2)
  | .bin => 4 * (binNb w2 + 1 + sliceCount w2)
  | _ => boxBytes w2

/-- The receivers of a request of core k: those that its bytes and tags go to. -/
def reqReceivers (k : Nat) (kind : ReqKind) (w1 : Word) : List Nat :=
  match kind with
  | .copy => receiversOf k w1
  | .get => receiversOf k w1
  | _ => [k]

/-! ### Tags (R248 to R250) -/

/-- A tag that has just received a post (R250). -/
def Tag.settle (t : Tag) : Tag := if t.armed && t.arrived.toNat == t.expected then { t with ready := true } else t
/-- A post of n bytes (R249). -/
def Tag.post (t : Tag) (n : Nat) : Tag := { t with expected := (t.expected + n) % 2 ^ 31 }.settle
/-- How many bytes are to be counted until Arrived next meets Expected (R250). -/
def Tag.short (t : Tag) : Nat :=
  let d := (t.expected + (2 ^ 31 - t.arrived.toNat)) % 2 ^ 31
  if d = 0 then 2 ^ 31 else d
/-- n counted bytes: the tag is evaluated at each of them (R249, R250). -/
def Tag.count (t : Tag) (n : Nat) : Tag :=
  { t with arrived := t.arrived + BitVec.ofNat 31 n, ready := t.ready || (t.armed && decide (t.short ≤ n)) }
/-- Tag n of a core. -/
def Core.tag (co : Core) (n : Nat) : Tag := co.tags.get n {}
/-- The core with tag n changed by f; one that becomes Ready wakes the core (R194). -/
def Core.updTag (co : Core) (n : Nat) (f : Tag → Tag) : Core :=
  { co with tags := co.tags.set n (f (co.tag n)), gated := co.gated && !(f (co.tag n)).ready }

/-- n bytes of a request are counted on each receiver's tag, if it has one; with its Fault bit when the request failed. -/
def State.countTags (s : State) (k : Nat) (kind : ReqKind) (w1 w3 : Word) (n : Nat) (failed : Bool) : State :=
  if tagEn w3 then
    (reqReceivers k kind w1).foldl (fun s r => s.updCore r fun co => co.updTag (tagOf w3) fun t =>
      { t.count n with fault := t.fault || failed }) s
  else s

/-- Posts that reach their tags (R249). -/
def State.landPosts (s : State) (l : List Post) : State :=
  l.foldl (fun s p => s.updCore p.dst fun co => co.updTag p.tag fun t => t.post p.bytes) s

/-- TAG_POST (R249): the oldest post on its way from core k to core dst reaches its tag. -/
def execTagPost (s : State) : Result :=
  match s.agenda with
  | .tagPost k dst :: _ =>
    let s := s.pop
    match takeFirst (fun p : Post => p.src == k && p.dst == dst) s.posts with
    | none => .next s
    | some (p, rest) =>
      .next ({ s with posts := rest }.updCore dst fun co => co.updTag p.tag fun t => t.post p.bytes)
  | _ => .next s

/-! ### The checks of a request at issue (R247, R256, R259, R260) -/

/-- Whether the completion word's unused and reserved fields are 0 for a kind (R243). -/
def doneWordOk (kind : ReqKind) (w3 : Word) : Bool :=
  bits w3 11 8 == 0 && !bit w3 6 &&
  match kind with
  | .copy => bits w3 16 12 == 0
  | .get => bits w3 16 12 == 0
  | .put => bits w3 15 12 == 0
  | .redcopy => ropOf w3 != 3
  | _ => bits w3 18 12 == 0

/-- Whether every field of a request is within its limits (R244, R245, R256, R259, R260). -/
def fieldsOk (kind : ReqKind) (w0 w1 w2 w3 : Word) : Bool :=
  doneWordOk kind w3 &&
  let box := boxOk w2 && (!dstStrided (shapeOf w3) || boxApart w2)
  let flat (w : Word) := wordMode w == .flat && srcWordOk w
  match kind with
  | .copy => box && srcWordOk w0 && dstWordOk w1
  | .get => box && farWordOk w0 && dstWordOk w1
  | .put => box && srcWordOk w0 && farWordOk w1
  | .redcopy =>
    let e := elemSize (rtypeOf w3)
    box && srcWordOk w0 && farWordOk w1 && boxLen0 w2 % e == 0 && boxStride1 w2 % e == 0 && wordAddr w0 % e == 0
      && wordAddr w1 % e == 0
  | .gather =>
    let lg := bits w2 47 44
    flat w0 && srcWordOk w1 && sliceCount w2 != 0 && decide (2 ≤ lg) && decide (lg ≤ 10) && bits w2 43 17 == 0
      && wordAddr w0 % gatherSize w2 == 0 && wordAddr w1 % 4 == 0
  | .scatadd =>
    let t := scatType w2
    flat w0 && srcWordOk w1 && sliceCount w2 != 0 && decide (t ≤ 3) && bits w2 43 17 == 0
      && wordAddr w0 % elemSize t == 0 && wordAddr w1 % 4 == 0
  | .bin =>
    srcWordOk w0 && srcWordOk w1 && sliceCount w2 != 0 && decide (1 ≤ binNb w2) && decide (binNb w2 ≤ 4096)
      && bits w2 47 45 == 0 && bits w2 31 21 == 0 && bits w2 15 0 == 0 && wordAddr w0 % 4 == 0 && wordAddr w1 % 4 == 0

/-- Whether the first and last byte of a scratchpad region of n bytes pass R16; FLAT regions always do. -/
def State.regionOk (s : State) (k : Nat) (mode : AddrMode) (a last : Nat) : Bool :=
  mode == .flat || ((s.padPlace k mode a).isSome && (s.padPlace k mode (a + last)).isSome)

/-- The scratchpad sides of a request pass R16 (R247 condition 3, R256). -/
def State.sidesOk (s : State) (k : Nat) (kind : ReqKind) (w0 w1 w2 w3 : Word) : Bool :=
  let last (strided : Bool) := boxOff w2 strided (boxBytes w2 - 1)
  let src := s.regionOk k (wordMode w0) (wordAddr w0) (last (srcStrided (shapeOf w3)))
  let dst :=
    if mcast w1 then (receiversOf k w1).all fun r => s.regionOk r .own (bits w1 16 0) (last (dstStrided (shapeOf w3)))
    else s.regionOk k (wordMode w1) (wordAddr w1) (last (dstStrided (shapeOf w3)))
  let list (w : Word) (n : Nat) := s.regionOk k (wordMode w) (wordAddr w) (n - 1)
  match kind with
  | .copy => src && dst
  | .get => dst
  | .put => src
  | .redcopy => src
  | .bin => list w0 (4 * sliceCount w2) && list w1 (postedBytes .bin w2)
  | k' => list w1 (4 * sliceCount w2) && s.regionOk k .own (bits w2 16 0) (postedBytes k' w2 - 1)

/-- What the check of a request at issue finds: a busy code, or a translation to wait for. -/
inductive ReqCheck where
  | code (n : Nat)
  | miss (va : Word)
  deriving DecidableEq, Repr

/-- The package that a NET request names, if it names one. -/
def farPkg (kind : ReqKind) (w0 w1 : Word) : Option Nat :=
  match kind with
  | .get => some (wordPkg w0)
  | .put => some (wordPkg w1)
  | .redcopy => some (wordPkg w1)
  | _ => none

/-- The address whose first byte must not lie in a generator window: a FLAT destination, the FLAT base of GATHER and SCATADD, and the
destination of a PUT or REDCOPY in the own package (R247 condition 4, R256, R302; log 47). -/
def State.flatBase (s : State) (kind : ReqKind) (w0 w1 : Word) : Option Nat :=
  match kind with
  | .scatadd => some (wordAddr w0)
  | .gather => some (wordAddr w0)
  | .put => if wordPkg w1 = s.pkg then some (wordAddr w1) else none
  | .redcopy => if wordPkg w1 = s.pkg then some (wordAddr w1) else none
  | _ => if mcast w1 || wordMode w1 != .flat then none else some (wordAddr w1)

/-- What a request does at that address. -/
def ReqKind.baseAccess : ReqKind → Access
  | .gather => .read
  | .scatadd => .readWrite
  | .redcopy => .readWrite
  | _ => .write

/-- Whether a core's FIFO has none of its eight places free: halted requests keep theirs, failed ones have ended (R241, R254; log 39). -/
def Core.fifoFull (co : Core) : Bool := decide (8 ≤ co.reqs.countP fun r => !r.failed)

/-- The check of a request of the issuing context, in the order of R247; code 0 when it is accepted. A destination page
that no TLB holds is waited for. -/
def State.reqCheck (s : State) (kind : ReqKind) (w0 w1 w2 w3 : Word) : ReqCheck :=
  let k := s.focus
  let foreign := match farPkg kind w0 w1 with | some p => !s.domain.contains p | none => false
  if !fieldsOk kind w0 w1 w2 w3 || foreign then .code 2
  else if tagEn w3 && !bit s.myGrant (tagOf w3) then .code 2
  else if !s.sidesOk k kind w0 w1 w2 w3 then .code 2
  else
    let late : ReqCheck :=
      if tagEn w3 && (reqReceivers k kind w1).any fun r =>
          decide (2 ^ 31 ≤ ((s.core r).tag (tagOf w3)).expected + postedBytes kind w2) then .code 3
      else if s.myCore.fifoFull then .code 1
      else .code 0
    match s.flatBase kind w0 w1 with
    | none => late
    | some a =>
      match s.tlbHit k s.me.asid a with
      | none => .miss (BitVec.ofNat 64 a)
      | some pte => if bits pte 63 62 = 1 then .code 2 else late

/-- The four words of a request: its two register pairs (R241). -/
def Ctx.reqWords (c : Ctx) (p q : Pair) : Word × Word × Word × Word :=
  (c.rx (pairReg p), c.rx (pairReg p + 1), c.rx (pairReg q), c.rx (pairReg q + 1))

/-- A request is accepted: it enters the FIFO, and its posts leave for the tags (R247, R249). -/
def State.accept (s : State) (kind : ReqKind) (w0 w1 w2 w3 : Word) : State :=
  let k := s.focus
  let c := s.me
  let co := s.myCore
  let far := (farPkg kind w0 w1).isSome
  let r : Req := { num := co.reqNum, kind := kind, ctx := s.active, lid := c.lid, asid := c.asid, sup := c.sup, pc := c.pc
                   ord := c.storeIds, w0 := w0, w1 := w1, w2 := w2, w3 := w3, reqId := if far then co.netId else 0
                   seq := s.reqSeq }
  let netId := if far then (if co.netId = 65535 then 1 else co.netId + 1) else co.netId
  let s := { s with reqSeq := s.reqSeq + 1 }.setCore k { co with reqs := co.reqs ++ [r], reqNum := co.reqNum + 1, netId := netId }
  let s := ((s.flatBase kind w0 w1).map fun a => s.looked .flat (BitVec.ofNat 64 a)).getD s
  let s := s.setMe { s.me with storeIds := c.storeIds + 1 }
  if tagEn w3 then
    { s with posts := s.posts ++ (reqReceivers k kind w1).map fun d =>
        { src := k, req := r.num, dst := d, tag := tagOf w3, bytes := postedBytes kind w2 } }
  else s

/-- A non-blocking request: its busy code goes to rd (R91, R247). -/
def State.request (s : State) (i : Instr) (kind : ReqKind) (rd : Reg) (p q : Pair) (stl : Stall) : State :=
  s.onCompute i fun s =>
    s.issue { reads := usePairs p q, writes := [useX rd] } fun s =>
      let (w0, w1, w2, w3) := s.me.reqWords p q
      match s.reqCheck kind w0 w1 w2 w3 with
      | .miss va => s.wait (.tlb kind.baseAccess va)
      | .code n =>
        let s := if n = 0 then s.accept kind w0 w1 w2 w3 else s
        s.done stl fun c => c.varX rd.toNat (BitVec.ofNat 64 n)

/-- CPUSH (R247). -/
def execCpush (rs1 rs2 : Pair) (stl : Stall) (s : State) : Result :=
  .next (s.onCompute (.cpush rs1 rs2 stl) fun s =>
    s.issue { reads := usePairs rs1 rs2 } fun s =>
      let (w0, w1, w2, w3) := s.me.reqWords rs1 rs2
      match s.reqCheck .copy w0 w1 w2 w3 with
      | .miss va => s.wait (.tlb ReqKind.copy.baseAccess va)
      | .code 0 => (s.accept .copy w0 w1 w2 w3).done stl id
      | .code 1 => s.wait .fifo
      | .code n => s.trap 3 (BitVec.ofNat 64 n))

/-- CPUSHNB (R247). -/
def execCpushnb (rd : Reg) (rs1 rs2 : Pair) (stl : Stall) (s : State) : Result :=
  .next (s.request (.cpushnb rd rs1 rs2 stl) .copy rd rs1 rs2 stl)

/-- GATHER (R256, R258). -/
def execGather (rd : Reg) (rs1 rs2 : Pair) (stl : Stall) (s : State) : Result :=
  .next (s.request (.gather rd rs1 rs2 stl) .gather rd rs1 rs2 stl)

/-- SCATADD (R256, R258). -/
def execScatadd (rd : Reg) (rs1 rs2 : Pair) (stl : Stall) (s : State) : Result :=
  .next (s.request (.scatadd rd rs1 rs2 stl) .scatadd rd rs1 rs2 stl)

/-- BIN (R256, R258). -/
def execBin (rd : Reg) (rs1 rs2 : Pair) (stl : Stall) (s : State) : Result :=
  .next (s.request (.bin rd rs1 rs2 stl) .bin rd rs1 rs2 stl)

/-- GET (R259). -/
def execGet (rd : Reg) (rs1 rs2 : Pair) (stl : Stall) (s : State) : Result :=
  .next (s.request (.get rd rs1 rs2 stl) .get rd rs1 rs2 stl)

/-- PUT (R259). -/
def execPut (rd : Reg) (rs1 rs2 : Pair) (stl : Stall) (s : State) : Result :=
  .next (s.request (.put rd rs1 rs2 stl) .put rd rs1 rs2 stl)

/-- REDCOPY (R259, R260). -/
def execRedcopy (rd : Reg) (rs1 rs2 : Pair) (stl : Stall) (s : State) : Result :=
  .next (s.request (.redcopy rd rs1 rs2 stl) .redcopy rd rs1 rs2 stl)

/-! ### Tag instructions (R251, R252, R329) -/

/-- The tags below 64 of a mask that f accepts, as a mask. -/
def tagMask (mask : Word) (f : Nat → Bool) : Word := bitMask 64 fun n => bit mask n && f n

/-- Runs a tag instruction whose mask passes the grant check (R251). -/
def State.onTags (s : State) (rs1 : Reg) (run : State → Word → State) : State :=
  let mask := s.me.rx rs1.toNat
  if (mask &&& ~~~s.myGrant) != 0 then s.trap 3 mask else run s mask

/-- Runs a tag wait after its checks: FIFO misuse, then the deferred faults that it observes (R251, R254, R329). -/
def State.onTagWait (s : State) (rs1 : Reg) (run : State → Word → State) : State :=
  s.onTags rs1 fun s mask =>
    let past := tagMask mask fun n => let t := s.myCore.tag n; decide (t.expected < t.arrived.toNat)
    if past != 0 then s.trap 8 past
    else match s.report fun d => match d.tag with | some n => bit mask n | none => false with
      | some s => s
      | none => run s mask

/-- The lowest ready tag of a mask (R251). -/
def State.readyTag (s : State) (mask : Word) : Option Nat :=
  lowest 64 fun n => bit mask n && (s.myCore.tag n).ready

/-- A tag number as a result; −1 for none (R251). -/
def tagResult : Option Nat → Word
  | some n => BitVec.ofNat 64 n
  | none => BitVec.allOnes 64

/-- The core with the tags of a mask changed by f. -/
def Core.updTags (co : Core) (mask : Word) (f : Tag → Tag) : Core :=
  (List.range 64).foldl (fun co n => if bit mask n then co.updTag n f else co) co

/-- TARM (R251). -/
def execTarm (rs1 : Reg) (stl : Stall) (s : State) : Result :=
  .next (s.issue { reads := [useX rs1] } fun s => s.onTags rs1 fun s mask =>
    (s.updCore s.focus fun co => co.updTags mask fun t => { t with armed := true }).done stl id)

/-- TCLR (R251). -/
def execTclr (rs1 : Reg) (stl : Stall) (s : State) : Result :=
  .next (s.issue { reads := [useX rs1] } fun s => s.onTags rs1 fun s mask =>
    (s.updCore s.focus fun co => co.updTags mask fun _ => {}).done stl id)

/-- TWANY (R251). -/
def execTwany (rd rs1 : Reg) (stl : Stall) (s : State) : Result :=
  .next (s.issue { reads := [useX rs1], writes := [useX rd] } fun s => s.onTagWait rs1 fun s mask =>
    match s.readyTag mask with
    | none =>
      if mask = 0 then s.done stl fun c => c.varX rd.toNat (tagResult none) else s.wait (.tagAny mask)
    | some n => s.done stl fun c => c.varX rd.toNat (tagResult (some n)))

/-- TWALL (R251). -/
def execTwall (rs1 : Reg) (stl : Stall) (s : State) : Result :=
  .next (s.issue { reads := [useX rs1] } fun s => s.onTagWait rs1 fun s mask =>
    if tagMask mask (fun n => !(s.myCore.tag n).ready) = 0 then s.done stl id else s.wait (.tagAll mask))

/-- TFFR (R251). -/
def execTffr (rd rs1 : Reg) (stl : Stall) (s : State) : Result :=
  .next (s.issue { reads := [useX rs1], writes := [useX rd] } fun s => s.onTagWait rs1 fun s mask =>
    s.done stl fun c => c.varX rd.toNat (tagResult (s.readyTag mask)))

/-- CNTWAITGE (R253). -/
def execCntwaitge (rs1 rs2 : Reg) (stl : Stall) (s : State) : Result :=
  .next (s.issue { reads := [useX rs1, useX rs2] } fun s =>
    let a := s.me.rx rs1.toNat
    let target := s.me.rx rs2.toNat
    match s.reach .flat .read a 8 with
    | .ok p =>
      match s.report fun d => d.counter == a.toNat && d.counter != 0 with
      | some s => s
      | none =>
        s.after p.isRemote fun s => match s.readPlace a 8 0 p with
        | .stop s => s
        | .val v s =>
          if target.toNat ≤ v then s.done stl id
          else s.setMe { s.me with run := .waiting (.counter a target), remoteVals := [], remoteAsked := false }
    | r => s.fail .flat a r)

end Sys2Proof.Machine
end

