-- ==== Sys2Proof/Machine/Engines.lean ====
section
/-!
DEFINITION. What the engines do with the requests of a command FIFO, step by step (R241, R247, R253 to R258): starting,
moving bytes, gathering, adding, counting, halting, resuming and failing.
-/

namespace Sys2Proof.Machine

/-! ### Requests of a core -/

/-- Request num of core k. -/
def State.req (s : State) (k num : Nat) : Option Req := (s.core k).reqs.find? fun r => r.num == num
/-- Request num of core k changed by f. -/
def State.updReq (s : State) (k num : Nat) (f : Req → Req) : State :=
  s.updCore k fun co => { co with reqs := updFirst (fun r => r.num == num) f co.reqs }
/-- Request num of core k has left. -/
def State.dropReq (s : State) (k num : Nat) : State :=
  s.updCore k fun co => { co with reqs := co.reqs.filter fun r => r.num != num }

/-- The bytes that a request posts. -/
def Req.bytes (r : Req) : Nat := postedBytes r.kind r.w2
/-- The receivers of a request of core k. -/
def Req.receivers (r : Req) (k : Nat) : List Nat := reqReceivers k r.kind r.w1
/-- Whether byte n of a request has been performed. -/
def Req.isDone (r : Req) (n : Nat) : Bool := r.dones.any fun d => decide (d.1 ≤ n) && decide (n < d.1 + d.2)
/-- The generator descriptors that a request reads with (R301). -/
def Req.descs (r : Req) (s : State) (k : Nat) : SMap Word := r.gens.getD (s.ctx k r.ctx).gens
/-- What a request is still to add to its counter (R253). -/
def Req.toAdd (r : Req) (k : Nat) : Nat :=
  if cntAddr r.w3 = 0 || (farPkg r.kind r.w0 r.w1).isSome && remoteCnt r.w3 then 0
  else r.delivered * (r.receivers k).length - r.added

/-- The core from which a request issued. -/
def Req.home (r : Req) (k : Nat) : Nat := (r.moved.map Prod.fst).getD k

/-- Who a request of core k is in a message: where it issued, also when its coach has moved since (R260). -/
def State.reqSrc (s : State) (k : Nat) (r : Req) : NetSrc :=
  { pkg := s.pkg, core := r.home k, ctx := (r.moved.map Prod.snd).getD r.ctx, lid := r.lid.toNat, req := r.reqId, sup := r.sup }

/-- Whether a request of core k is over: its bytes are all delivered and counted, or it has failed, each part that it sent has been
answered, but for those of a GET, which deliver nothing more, and its delivered bytes are all counted (R241, R253, R254). -/
def Req.over (r : Req) (k : Nat) : Bool :=
  r.toAdd k == 0 && if r.failed then r.kind == .get || decide (r.sent.length ≤ r.dones.length + r.nacks)
    else decide (r.bytes ≤ r.delivered)

/-- Request num of core k leaves, with the record of its blocks at this package, if it is over (R241, R253, R260). -/
def State.retireReq (s : State) (k num : Nat) : State :=
  match s.req k num with
  | none => s
  | some r =>
    if r.over k then { s.dropReq k num with applied := s.applied.filter fun p => p.1 != s.reqSrc k r } else s

/-- Whether a post of a request is on its way (R249). -/
def State.posting (s : State) (k : Nat) (r : Req) : Bool := s.posts.any fun p => p.src == k && p.req == r.num

/-- Whether a request may move bytes: it runs, its job is not frozen, and its posts have reached their tags (R249, R344). -/
def State.canMove (s : State) (k : Nat) (r : Req) : Bool :=
  r.state == .running && !r.failed && !s.frozenAt k r.lid.toNat && !s.posting k r

/-- Bytes of a request have been performed: they are counted on its tags and toward its counter (R247). The tags of a failed request
have counted them already (R254). -/
def State.deliver (s : State) (k : Nat) (r : Req) (lo len : Nat) : State :=
  let s := s.updReq k r.num fun r => { r with dones := r.dones ++ [(lo, len)], delivered := r.delivered + len }
  (if r.failed then s else s.countTags k r.kind r.w1 r.w3 len false).retireReq k r.num

/-! ### Where a request's accesses go -/

/-- An access of an engine, and what it meets. -/
structure Meet where
  mode : AddrMode
  va : Word
  met : Reach
  deriving DecidableEq, Repr

/-- What an engine's access finds, tokens apart: a package, a window with an invalid descriptor, or a poisoned word is an access
fault (R254, R293, R370). -/
def State.engPlace (s : State) (k : Nat) (r : Req) (mode : AddrMode) (acc : Access) (a : Word) (n : Nat) : Reach :=
  match s.reachFor k r.asid r.sup mode acc a with
  | .ok (.remote _) => .trap 3 a
  | .ok (.gen d) => if (genDesc (r.descs s k) d).valid (s.padSize k) then .ok (.gen d) else .trap 3 a
  | .ok p => if acc != .write && s.placePoisoned p n then .trap 3 a else .ok p
  | .trap _ t => .trap 3 t
  | x => x

/-- An engine's access through the slices of its die (R269). -/
def State.engMeet (s : State) (k : Nat) (r : Req) (mode : AddrMode) (acc : Access) (a : Word) (n : Nat) : Meet :=
  ⟨mode, a, s.withTokens (vdnOf k) acc (s.engPlace k r mode acc a n)⟩

/-- The place of an engine's access whose tokens are seen to apart. -/
def State.engAt (s : State) (k : Nat) (r : Req) (mode : AddrMode) (acc : Access) (a : Word) (n : Nat) : Option Place :=
  match s.engPlace k r mode acc a n with
  | .ok p => some p
  | _ => none

/-- n bytes read by an engine at a place: what a write left there, or what it replaced where nothing orders the two (R263, R282, R283). -/
def State.engRead (s : State) (k : Nat) (r : Req) (a : Word) (n : Nat) (p : Place) : Nat :=
  match p with
  | .mem pa => s.memSeen r.kind.cls pa n
  | .pad j off => s.padSeen r.kind.cls j off n
  | .gen d => genBytes (genDesc (r.descs s k) d) (s.freqOf k (genDesc (r.descs s k) d)) a.toNat n
  | _ => 0

/-- The value that an atomic update of n bytes at a place replaces: that of the update before it (R280). -/
def State.engOld (s : State) (n : Nat) (p : Place) : Nat :=
  match p with
  | .mem pa => s.memRead pa n
  | .pad j off => s.padRead j off n
  | _ => 0

/-- The engine classes whose accesses are not ordered after a write of a class: the matrix engine's own are (R238, R283). -/
def unordered (cls : BitVec 6) : BitVec 6 := if cls = clsMX then clsCP ||| clsGS ||| clsNT else clsEngines

/-- A write of n bytes of package memory by an engine's access of a class, through holder h. -/
def State.engMem (s : State) (h : Nat) (cls : BitVec 6) (a n v : Nat) : State :=
  (s.memWrite h none a n v).aged (s.oldOf cls (unordered cls) a n (s.memRead a n)) (poisonedAt s.poison a n)

/-- The same at core k's scratchpad. -/
def State.engPad (s : State) (cls : BitVec 6) (k off n v : Nat) : State :=
  (s.padWrite k off n v).aged (s.oldOf cls (unordered cls) (padLoc k + off) n (s.padRead k off n))
    (poisonedAt (s.core k).padPoison off n)

/-- n bytes written at a place by an engine of core k. -/
def State.engWrite (s : State) (k : Nat) (cls : BitVec 6) (n v : Nat) (p : Place) : State :=
  match p with
  | .mem pa => s.engMem (vdnOf k) cls pa n v
  | .pad j off => s.engPad cls j off n v
  | _ => s

/-- An address of a request as a word. -/
def addrAt (base off : Nat) : Word := BitVec.ofNat 64 (base + off)

/-- The source address of byte n of a box. -/
def Req.srcAddr (r : Req) (n : Nat) : Word := addrAt (wordAddr r.w0) (boxOff r.w2 (srcStrided (shapeOf r.w3)) n)
/-- The destination address of byte n of a box that is not multicast. -/
def Req.dstAddr (r : Req) (n : Nat) : Word := addrAt (wordAddr r.w1) (boxOff r.w2 (dstStrided (shapeOf r.w3)) n)

/-- The source of byte n of a box. -/
def State.boxSrc (s : State) (k : Nat) (r : Req) (n : Nat) : Meet :=
  s.engMeet k r (wordMode r.w0) .read (r.srcAddr n) 1

/-- The destinations of byte n of a box, one for each receiver. -/
def State.boxDsts (s : State) (k : Nat) (r : Req) (n : Nat) : List Meet :=
  if mcast r.w1 then
    (r.receivers k).map fun j =>
      s.engMeet j r .own .write (addrAt (bits r.w1 16 0) (boxOff r.w2 (dstStrided (shapeOf r.w3)) n)) 1
  else [s.engMeet k r (wordMode r.w1) .write (r.dstAddr n) 1]

/-- The places of byte n of a box at its receivers. -/
def State.boxPlaces (s : State) (k : Nat) (r : Req) (n : Nat) : List Place :=
  if mcast r.w1 then
    (r.receivers k).filterMap fun j => s.engAt j r .own .write (addrAt (bits r.w1 16 0) (boxOff r.w2 (dstStrided (shapeOf r.w3)) n)) 1
  else (s.engAt k r (wordMode r.w1) .write (r.dstAddr n) 1).toList

/-- Entry i of the index list of GATHER or SCATADD, or of the key list of BIN. -/
def State.listEntry (s : State) (k : Nat) (r : Req) (i : Nat) : Meet :=
  let w := if r.kind = .bin then r.w0 else r.w1
  s.engMeet k r (wordMode w) .read (addrAt (wordAddr w) (4 * i)) 4

/-- The value of a list entry: read once and kept (R257). -/
def State.listValue (s : State) (k : Nat) (r : Req) (i : Nat) : Option Nat :=
  match r.keys.find? i with
  | some v => some v
  | none =>
    match (s.listEntry k r i).met with
    | .ok p => some (s.engRead k r (s.listEntry k r i).va 4 p)
    | _ => none

/-- The element size of a slice request. -/
def Req.esize (r : Req) : Nat :=
  match r.kind with
  | .gather => gatherSize r.w2
  | .scatadd => elemSize (scatType r.w2)
  | .redcopy => elemSize (rtypeOf r.w3)
  | _ => 1

/-- The list entries that byte n of a request needs and has not read yet (R257). -/
def State.listNeeds (s : State) (k : Nat) (r : Req) (n : Nat) : List (Nat × Meet) :=
  let need (i : Nat) : List (Nat × Meet) := if (r.keys.find? i).isSome then [] else [(i, s.listEntry k r i)]
  match r.kind with
  | .gather => need (n / r.esize)
  | .scatadd => need (n / r.esize)
  | .bin => (List.range (sliceCount r.w2)).flatMap need
  | _ => []

/-- The list entries among some that can be read are read, once, and kept (R257). -/
def State.readKeys (s : State) (k : Nat) (r : Req) (l : List (Nat × Meet)) : State :=
  let got := l.filterMap fun p => match p.2.met with | .ok q => some (p.1, p.2.va, q) | _ => none
  let pas := got.filterMap fun p => match p.2.2 with | .mem pa => some pa | _ => none
  (s.holderReads (vdnOf k) pas).updReq k r.num fun r =>
    { r with keys := got.foldl (fun m p => m.set p.1 (s.engRead k r p.2.1 4 p.2.2)) r.keys }

/-- The address of the element that index v names (R258). -/
def Req.elemAddr (r : Req) (v : Nat) : Word := addrAt (wordAddr r.w0) (v * r.esize)

/-- What the accesses of byte n of a request meet, in order (R247, R254, R258). -/
def State.byteMeets (s : State) (k : Nat) (r : Req) (n : Nat) : List Meet :=
  let i := n / r.esize
  let listed (f : Nat → List Meet) : List Meet :=
    (s.listNeeds k r n).map Prod.snd ++ match s.listValue k r i with
      | some v => f v
      | none => []
  match r.kind with
  | .copy => s.boxSrc k r n :: s.boxDsts k r n
  | .put => [s.boxSrc k r n]
  | .redcopy => [s.boxSrc k r n]
  | .get => s.boxDsts k r n
  | .gather =>
    listed fun v =>
      [s.engMeet k r .flat .read (r.elemAddr v + BitVec.ofNat 64 (n % r.esize)) 1,
       s.engMeet k r .own .write (addrAt (bits r.w2 16 0) n) 1]
  | .scatadd =>
    listed fun v =>
      [s.engMeet k r .own .read (addrAt (bits r.w2 16 0) (i * r.esize)) r.esize,
       s.engMeet k r .flat .readWrite (r.elemAddr v) r.esize]
  | .bin =>
    (s.listNeeds k r n).map Prod.snd ++ [s.engMeet k r (wordMode r.w1) .write (addrAt (wordAddr r.w1) n) 1]

/-- The access of a request's next counter add, at the atomic engine of BX-IO (R253). -/
def State.counterMeet (s : State) (k : Nat) (r : Req) : List Meet :=
  let a := BitVec.ofNat 64 (cntAddr r.w3)
  if r.toAdd k = 0 then [] else [⟨.flat, a, s.withTokens ioHolder .readWrite (s.engPlace k r .flat .readWrite a 8)⟩]

/-- Whether an access reaches its place. -/
def Reach.isOk : Reach → Bool
  | .ok _ => true
  | _ => false

/-- The byte of a request, of those that are not performed, at which f first picks an access, and what it picks. -/
def State.bytePicks (s : State) (k : Nat) (r : Req) (f : Reach → Option Word) : Option (Nat × Word) :=
  if r.failed then none
  else (List.range r.bytes).findSome? fun n =>
    if r.isDone n then none else ((s.byteMeets k r n).findSome? fun m => f m.met).map fun va => (n, va)

/-- The first access that f picks among those of a request's bytes that are not performed, and of its counter. -/
def State.reqMeets (s : State) (k : Nat) (r : Req) (f : Reach → Option Word) : Option Word :=
  match s.bytePicks k r f with
  | some p => some p.2
  | none => (s.counterMeet k r).findSome? fun m => f m.met

/-- An absent page. -/
def Reach.absentVa : Reach → Option Word
  | .absent va => some va
  | _ => none

/-- An access fault. -/
def Reach.faultVa : Reach → Option Word
  | .trap _ t => some t
  | _ => none

/-- The code of an access that misses both TLBs. -/
def Reach.missCode : Reach → Option Word
  | .miss acc _ => some (BitVec.ofNat 64 acc.code)
  | _ => none

/-- The access of a code in a miss notice (R350). -/
def Access.ofCode (n : Nat) : Access := if n = 0 then .read else if n = 1 then .write else if n = 2 then .fetch else .readWrite

/-- Some accesses of an engine of core k look their translations up: hits in the cluster TLB are copied (R349). -/
def State.lookUp (s : State) (k : Nat) (asid : BitVec 13) (l : List Meet) : State :=
  l.foldl (fun s m => if m.mode = .flat then s.tlbCopy k asid m.va else s) s

/-- The physical addresses of accesses that reach memory. -/
def meetPas (l : List Meet) : List Nat := memsOf (l.map Meet.met)

/-- Runs f when every access of a step reaches its place; the holder that performs them then has the lines' tokens (R269). A first
access that misses both TLBs sends its notice instead (R350), one that lacks tokens waits for them (R272); any other obstacle is
left to the step that deals with it. Every access has looked its translation up. -/
def State.whenOk (s : State) (h k : Nat) (r : Req) (l : List Meet) (f : State → State) : State :=
  let found (t : State) : State := t.lookUp k r.asid l
  match l.find? fun x => !x.met.isOk with
  | none => found (f (s.holderReads h (meetPas l)))
  | some m =>
    match m.met with
    | .miss acc va => (found s).postMiss k r.asid acc va.toNat
    | .line h n write => (found s).want h n write (.req k r.num)
    | _ => found s

/-! ### Steps -/

/-- ENGINE_REQUEST_START (R241): the oldest request that has not started, up to four in progress. -/
def execEngineRequestStart (s : State) : Result :=
  match s.agenda with
  | .engineRequestStart k :: _ =>
    let s := s.pop
    let rs := (s.core k).reqs
    match rs.find? fun r => r.state == .queued with
    | none => .next s
    | some r =>
      if 4 ≤ (rs.filter fun r => r.state == .running).length ∨ s.frozenAt k r.lid.toNat then .next s
      else .next (s.updReq k r.num fun r => { r with state := .running, begun := true })
  | _ => .next s

/-- A halted request goes on: at once while fewer than four are in progress, else in its place of the FIFO (R241, R254). -/
def Core.goOn (co : Core) (num : Nat) : Core :=
  let room := decide ((co.reqs.filter fun r => r.state == .running).length < 4)
  { co with reqs := updFirst (fun r => r.num == num) (fun r => { r with state := if room then .running else .queued }) co.reqs }

/-- Byte n of a box's source: kept, where another part has computed the window element that it belongs to (R300, R301). -/
def State.boxByte (s : State) (k : Nat) (r : Req) (n : Nat) : Nat :=
  (r.kept.find? n).getD (((s.engAt k r (wordMode r.w0) .read (r.srcAddr n) 1).map (s.engRead k r (r.srcAddr n) 1)).getD 0)

/-- The bytes of a box's source from lo on. -/
def State.boxRead (s : State) (k : Nat) (r : Req) (lo len : Nat) : List Byte :=
  (List.range len).map fun j => BitVec.ofNat 8 (s.boxByte k r (lo + j))

/-- The descriptor's window and the element of it in which byte n of a box's source lies, and the byte's place there (R289). -/
def State.windowElem (s : State) (k : Nat) (r : Req) (n : Nat) : Option (Nat × Nat × Nat) :=
  match (s.boxSrc k r n).met with
  | .ok (.gen d) =>
    let g := genDesc (r.descs s k) d
    let o := ((r.srcAddr n).toNat + 2 ^ 48 - bits g.w0 47 0) % 2 ^ 48
    some (d, o / g.size, o % g.size)
  | _ => none

/-- Whether bytes m and n of a box's source are bytes of one window element, in its order. -/
def State.oneElem (s : State) (k : Nat) (r : Req) (m n : Nat) : Bool :=
  match s.windowElem k r m, s.windowElem k r n with
  | some (d, e, i), some (d', e', i') => d == d' && e == e' && i + n == i' + m
  | _, _ => false

/-- A part of a request that ends inside a window element keeps the element's other bytes: each element is computed from one state of its
descriptor (R300, R301). -/
def State.keepElems (s : State) (k : Nat) (r : Req) (lo len : Nat) : State :=
  let more := ((List.range 3).map (lo + len + ·)).filter fun n => decide (n < r.bytes) && s.oneElem k r (lo + len - 1) n
  let less := ((List.range 3).filter fun i => decide (i < lo) && s.oneElem k r (lo - 1 - i) lo).map (lo - 1 - ·)
  s.updReq k r.num fun q => { q with kept := (less ++ more).foldl (fun m n => m.set n (s.boxByte k r n)) q.kept }

/-- One byte of a box is written to each receiver (R247). -/
def State.putByte (s : State) (k : Nat) (r : Req) (n : Nat) (b : Byte) : State :=
  (s.boxPlaces k r n).foldl (fun s q => s.engWrite k r.kind.cls 1 b.toNat q) s

/-- Bytes of a box from lo on are written to each receiver (R247). -/
def State.putBytes (s : State) (k : Nat) (r : Req) (lo : Nat) (bytes : List Byte) : State :=
  let dsts := (List.range bytes.length).flatMap fun j => s.boxPlaces k r (lo + j)
  (bytes.zipIdx.foldl (fun s p => s.putByte k r (lo + p.2) p.1) s).cleanPlaces (dsts.map fun q => (q, 1))

/-- The keys of BIN, each read once (R257). -/
def State.binKeys (s : State) (k : Nat) (r : Req) : List Nat :=
  (List.range (sliceCount r.w2)).map fun i => (s.listValue k r i).getD 0

/-- Output word j of BIN (R258). -/
def binWord (keys : List Nat) (nb sh j : Nat) : Nat :=
  let bin (i : Nat) := keys.getD i 0 / 2 ^ sh
  let idx := List.range keys.length
  if j < nb then (idx.filter fun i => bin i == j).length
  else if j = nb then (idx.filter fun i => decide (nb ≤ bin i)).length
  else
    let listed := (List.range nb).flatMap fun b => idx.filter fun i => bin i == b
    (listed[j - nb - 1]?).getD 0xFFFFFFFF

/-- Bytes lo … lo + len - 1 of BIN's output are written (R258). -/
def State.binWrite (s : State) (k : Nat) (r : Req) (lo len : Nat) : State :=
  let vals := s.binKeys k r
  let dst (n : Nat) : Option Place := s.engAt k r (wordMode r.w1) .write (addrAt (wordAddr r.w1) n) 1
  ((List.range len).foldl (fun t j =>
    let n := lo + j
    match dst n with
    | some p => t.engWrite k clsGS 1 (binWord vals (binNb r.w2) (binShift r.w2) (n / 4) / 256 ^ (n % 4) % 256) p
    | none => t) s).cleanPlaces ((List.range len).filterMap fun j => (dst (lo + j)).map fun p => (p, 1))

/-- The active-message window (R309). -/
def inMessageWindow (va : Nat) : Bool := decide (0xFFFFFFE00000 ≤ va) && decide (va < 2 ^ 48)

/-- The counter address that a message carries: the one at the destination, if it is there (R259). -/
def Req.farCnt (r : Req) : Nat := if remoteCnt r.w3 then cntAddr r.w3 else 0

/-- Whether a PUT is made of whole active messages (R309). -/
def Req.whole (r : Req) : Bool := !dstStrided (shapeOf r.w3) && wordAddr r.w1 % 64 == 0 && r.bytes % 64 == 0

/-- The elements of bytes lo … lo + len - 1 of a REDCOPY: destination address and value (R260). -/
def State.redElems (s : State) (k : Nat) (r : Req) (lo len : Nat) : List (Nat × Word) :=
  let e := r.esize
  (List.range (len / e)).map fun j =>
    ((r.dstAddr (lo + e * j)).toNat, BitVec.ofNat 64 (ofBytes (s.boxRead k r (lo + e * j) e)))

/-- A part of a GET, PUT or REDCOPY is sent to its package (R259, R260). -/
def State.sendPart (s : State) (k : Nat) (r : Req) (lo len : Nat) : State :=
  let src := s.reqSrc k r
  let m : NetMsg := match r.kind with
    | .get => .getBytes src r.asid.toNat (r.srcAddr lo).toNat lo len
    | .put => .putBytes src r.asid.toNat (r.dstAddr lo).toNat lo r.farCnt r.whole (s.boxRead k r lo len)
    | _ => .redBlock src (lo / 128) r.asid.toNat (ropOf r.w3) (rtypeOf r.w3) lo len r.farCnt (s.redElems k r lo len)
  (s.send ((farPkg r.kind r.w0 r.w1).getD s.pkg) m).updReq k r.num fun r => { r with sent := r.sent ++ [(lo, len)] }

/-- Whether a part of a request may end before byte n: not inside an aligned 4-byte word of a destination, which a copy writes whole
(R247). -/
def State.mayCut (s : State) (k : Nat) (r : Req) (n : Nat) : Bool :=
  let joined (a b : Word) : Bool := b == a + 1 && b.toNat % 4 != 0
  n == 0 || n == r.bytes ||
    !((r.kind == .copy || r.kind == .get) &&
        ((s.boxDsts k r (n - 1)).zip (s.boxDsts k r n)).any fun p => joined p.1.va p.2.va)

/-- Whether bytes lo … lo + len - 1 may be one part of a request: one run at the far side, whole active messages of a PUT made of
them (R309), a whole block of a REDCOPY (R260), and no word of a destination cut (R247). -/
def State.partOk (s : State) (k : Nat) (r : Req) (lo len : Nat) : Bool :=
  let run (strided : Bool) := !strided || lo / boxLen0 r.w2 == (lo + len - 1) / boxLen0 r.w2
  let cuts := s.mayCut k r lo && s.mayCut k r (lo + len)
  match r.kind with
  | .get => run (srcStrided (shapeOf r.w3)) && cuts
  | .put =>
    run (dstStrided (shapeOf r.w3)) && cuts
      && (!(r.whole && inMessageWindow (wordAddr r.w1)) || (lo % 64 == 0 && len % 64 == 0))
  | .redcopy => lo % 128 == 0 && len == Nat.min 128 (r.bytes - lo)
  | .copy => cuts
  | .bin => lo % 4 == 0 && len % 4 == 0
  | _ => false

/-- The ranges of a request that a new part must not overlap: of a request to a package those sent, but for a block of a REDCOPY,
which its source may send again until it is acknowledged (R260). -/
def Req.taken (r : Req) (lo len : Nat) : List (Nat × Nat) :=
  if (farPkg r.kind r.w0 r.w1).isNone then r.dones
  else if r.kind = .redcopy then r.dones ++ r.sent.filter (· != (lo, len))
  else r.sent

/-- COPY_BYTES_WRITTEN (R247, R258, R259): bytes lo … lo + len - 1 of a copy or of BIN's output are written and counted; of
a request to a package, they are sent. BIN reads its keys first, as they can be read (R257). -/
def execCopyBytesWritten (s : State) : Result :=
  match s.agenda with
  | .copyBytesWritten k num lo len :: _ =>
    let s := s.pop
    match s.req k num with
    | none => .next s
    | some r =>
      let far := (farPkg r.kind r.w0 r.w1).isSome
      if len = 0 ∨ r.bytes < lo + len ∨ !s.canMove k r ∨ !s.partOk k r lo len
          ∨ (r.taken lo len).any (fun d => overlaps d.1 d.2 lo len) then .next s
      else
        let meets := if r.kind = .get then [] else (List.range len).flatMap fun j => s.byteMeets k r (lo + j)
        let s := s.readKeys k r (s.listNeeds k r lo)
        .next (s.whenOk (vdnOf k) k r meets fun s =>
          let r := (s.req k num).getD r
          if far then (if r.kind = .get then s else s.keepElems k r lo len).sendPart k r lo len
          else if r.kind = .bin then (s.binWrite k r lo len).deliver k r lo len
          else ((s.keepElems k r lo len).putBytes k r lo (s.boxRead k r lo len)).deliver k r lo len)
  | _ => .next s

/-- GATHER_SNAPSHOT (R258): the part-th line that element i touches is read as one snapshot and packed into the
scratchpad. The list entry is read first, once (R257). -/
def execGatherSnapshot (s : State) : Result :=
  match s.agenda with
  | .gatherSnapshot k num i part :: _ =>
    let s := s.pop
    match s.req k num with
    | none => .next s
    | some r =>
      if r.kind ≠ .gather ∨ sliceCount r.w2 ≤ i ∨ !s.canMove k r then .next s
      else
        match s.listValue k r i with
        | none => .next (s.whenOk (vdnOf k) k r [s.listEntry k r i] id)
        | some v =>
          let e := r.esize
          let a := r.elemAddr v
          let bs := (List.range e).filter fun b => (a.toNat + b) / 128 - a.toNat / 128 == part
          match bs.head? with
          | none => .next s
          | some b0 =>
            let lo := i * e + b0
            if r.isDone lo then .next s
            else
              let meets := bs.flatMap fun b => s.byteMeets k r (i * e + b)
              let dst (s : State) (b : Nat) : Option Place := s.engAt k r .own .write (addrAt (bits r.w2 16 0) (i * e + b)) 1
              let s := s.readKeys k r (s.listNeeds k r (i * e))
              .next (s.whenOk (vdnOf k) k r meets fun s =>
                let put (t : State) (b : Nat) : State :=
                  let ab := a + BitVec.ofNat 64 b
                  match s.engAt k r .flat .read ab 1, dst s b with
                  | some p, some q => t.engWrite k clsGS 1 (s.engRead k r ab 1 p) q
                  | _, _ => t
                ((bs.foldl put s).cleanPlaces (bs.filterMap fun b => (dst s b).map fun q => (q, 1))).deliver k r lo bs.length)
  | _ => .next s

/-- An element type's sum (R258): integers wrap, floating-point sums are rounded once. -/
def addElem (t a b : Nat) : Nat :=
  if t = 0 then (a + b) % 2 ^ 32
  else if t = 1 then (a + b) % 2 ^ 64
  else if t = 2 then (fpAdd fp32 a b).1
  else (fpAdd bf16 a b).1

/-- SCATADD_UPDATE (R258): element i is added to its target, atomically. The list entry is read first, once (R257). -/
def execScataddUpdate (s : State) : Result :=
  match s.agenda with
  | .scataddUpdate k num i :: _ =>
    let s := s.pop
    match s.req k num with
    | none => .next s
    | some r =>
      let e := r.esize
      if r.kind ≠ .scatadd ∨ sliceCount r.w2 ≤ i ∨ !s.canMove k r ∨ r.isDone (i * e) then .next s
      else
        let meets := s.byteMeets k r (i * e)
        let v := s.listValue k r i
        let s := s.readKeys k r (s.listNeeds k r (i * e))
        .next (s.whenOk (vdnOf k) k r meets fun s =>
          let from' := addrAt (bits r.w2 16 0) (i * e)
          match v.map fun v => (s.engAt k r .own .read from' e, s.engAt k r .flat .readWrite (r.elemAddr v) e) with
          | some (some p, some q) =>
            let sum := addElem (scatType r.w2) (s.engOld e q) (s.engRead k r from' e p)
            (s.engWrite k clsGS e sum q).deliver k r (i * e) e
          | _ => s)
  | _ => .next s

/-- COUNTER_ADD (R253): a part of the delivered bytes is added to the request's counter. -/
def execCounterAdd (s : State) : Result :=
  match s.agenda with
  | .counterAdd k num n :: _ =>
    let s := s.pop
    match s.req k num with
    | none => .next s
    | some r =>
      if n = 0 ∨ r.toAdd k < n ∨ r.state ≠ .running ∨ s.frozenAt k r.lid.toNat then .next s
      else
        .next (s.whenOk ioHolder k r (s.counterMeet k r) fun s =>
          match (s.counterMeet k r).map Meet.met with
          | [.ok (.mem pa)] =>
            ((s.memWrite ioHolder none pa 8 ((s.memRead pa 8 + n) % 2 ^ 64)).updReq k num fun r =>
              { r with added := r.added + n }).retireReq k num
          | _ => s)
  | _ => .next s

/-- Whether a message inside the package is of a request of core k. -/
def NetMsg.isOf (m : NetMsg) (k : Nat) (r : Req) : Bool :=
  let mine (src : NetSrc) : Bool := src.core == r.home k && src.req == r.reqId && src.lid == r.lid.toNat
  match m with
  | .putBytes src _ _ _ _ _ _ => mine src
  | .getBytes src _ _ _ _ => mine src
  | .redBlock src _ _ _ _ _ _ _ _ => mine src
  | _ => false

/-- An address in each page that n bytes from va reach. -/
def pagesOf (va n : Nat) : List Nat := va :: ((List.range ((va % 1024 + n + 1023) / 1024)).drop 1).map fun i => va / 1024 * 1024 + 1024 * i

/-- The virtual pages, by an address in each, that a message to a package accesses there: its counter's among them (R254, R259). -/
def NetMsg.pages : NetMsg → List Nat
  | .putBytes _ _ va _ cnt _ bytes =>
    (if inMessageWindow va then [] else pagesOf va bytes.length) ++ if cnt = 0 then [] else [cnt]
  | .getBytes _ _ va _ len => pagesOf va len
  | .redBlock _ _ _ _ _ _ _ cnt elems => elems.map Prod.fst ++ if cnt = 0 then [] else [cnt]
  | _ => []

/-- The first byte, element or block of its request that a message to a package carries. -/
def NetMsg.first : NetMsg → Option Nat
  | .putBytes _ _ _ lo _ _ _ => some lo
  | .getBytes _ _ _ lo _ => some lo
  | .redBlock _ _ _ _ _ lo _ _ _ => some lo
  | _ => none

/-- An absent page that a part of a request meets at the package that it names, where that is the own package (R254). -/
def State.farAbsent (s : State) (k : Nat) (r : Req) : Option Word :=
  (s.net.filter fun m => m.isOf k r).findSome? fun m => m.pages.findSome? fun va =>
    (s.tlbHit k r.asid va).bind fun pte =>
      if bits pte 63 62 == 0 && bit pte 4 then some (BitVec.ofNat 64 va) else none

/-- REQUEST_HALT (R254): a request that meets an absent page halts, with the list entries that it read on the way (R257); its task
parks at the next instruction it would issue. -/
def execRequestHalt (s : State) : Result :=
  match s.agenda with
  | .requestHalt k num :: _ =>
    let s := s.pop
    match s.req k num with
    | none => .next s
    | some r =>
      let at' := s.bytePicks k r Reach.absentVa
      if r.state ≠ .running then .next s
      else match (s.reqMeets k r Reach.absentVa).or (s.farAbsent k r) with
        | none => .next s
        | some va =>
          let s := (at'.map fun p => s.readKeys k r (s.listNeeds k r p.1)).getD s
          let s := (s.updReq k num fun r => { r with state := .halted va }).lookUp k r.asid [⟨.flat, va, .absent va⟩]
          .next (if r.owned && (s.ctx k r.ctx).run != .trapped then
            s.updCtx k r.ctx fun c => { c with parkNext := some va } else s)
  | _ => .next s

/-- Whether the page of an address is present for core k, absent, or in no TLB (R335, R350). -/
def State.pagePresent (s : State) (k : Nat) (asid : BitVec 13) (va : Word) : Option Bool :=
  (s.tlbHit k asid va.toNat).map fun pte => !(bits pte 63 62 == 0 && bit pte 4)

/-- The miss that an access makes, as its code, where it is one of the page of an address. -/
def State.missAt (s : State) (k : Nat) (asid : BitVec 13) (va : Word) (m : Reach) : Option Word :=
  let of (v : Word) : Miss := missOf asid v.toNat ((s.core k).inRegion v.toNat)
  match m with
  | .miss acc v => if of v = of va then some (BitVec.ofNat 64 acc.code) else none
  | _ => none

/-- What a request does at an address of the package that it names (R253, R259, R260). -/
def Req.farAccess (r : Req) (va : Word) : Access :=
  if remoteCnt r.w3 && va.toNat == cntAddr r.w3 then .readWrite
  else match r.kind with
    | .put => .write
    | .redcopy => .readWrite
    | _ => .read

/-- The page of a halted request is in no TLB any more: its access looks it up again, and misses (R350). -/
def State.seekHalted (s : State) (k : Nat) (r : Req) (va : Word) : State :=
  s.postMiss k r.asid (((s.reqMeets k r (s.missAt k r.asid va)).map fun code => Access.ofCode code.toNat).getD (r.farAccess va)) va.toNat

/-- Whether what a re-executed instruction waits for may hang on the context's halted requests, so that they resume while it waits: events,
barriers, tags, counters, fences and a place in the FIFO (R336; log 49). -/
def Wait.needsRequests : Wait → Bool
  | .event _ => true
  | .barrier _ _ => true
  | .tagAny _ => true
  | .tagAll _ => true
  | .counter _ _ => true
  | .fifo => true
  | .fence _ => true
  | _ => false

/-- Whether a context's halted requests may resume now: after its re-executed instruction, or while that waits for what may hang on them
(R336). -/
def Ctx.mayResume (c : Ctx) : Bool :=
  match c.run with
  | .ready => c.resumeHalted == some true
  | .waiting w => w.needsRequests
  | _ => false

/-- REQUEST_RESUME (R254, R336): a halted request whose page is present goes on, the earliest of its task first; one
without a task as soon as its page is present. -/
def execRequestResume (s : State) : Result :=
  match s.agenda with
  | .requestResume k num :: _ =>
    let s := s.pop
    match s.req k num with
    | none => .next s
    | some r =>
      match r.state with
      | .halted va =>
        let first := (sortBy Req.seq (s.core k).reqs).find? fun q => q.halted && q.owned == r.owned && (!r.owned || q.ctx == r.ctx)
          && (r.owned || (match q.state with | .halted v => s.pagePresent k q.asid v == some true | _ => false))
        if (first.map Req.num) ≠ some num ∨ s.frozenAt k r.lid.toNat then .next s
        else match s.pagePresent k r.asid va with
          | none =>
            .next (s.seekHalted k r va)
          | some false => .next s
          | some true =>
            if r.owned && !(s.ctx k r.ctx).mayResume then .next s
            else .next ((s.updCore k fun co => co.goOn num).endCoaches (clusterOf k))
      | _ => .next s
  | _ => .next s

/-- The engine reports a failure of a request to its task, or logs an access fault that has no task any more (R254). -/
def State.reportReq (s : State) (k : Nat) (r : Req) (why : Failure) : State :=
  if r.owned then
    s.updCtx k r.ctx fun c =>
      { c with deferred := c.deferred ++ [{ ord := r.ord, why := why, tag := if tagEn r.w3 then some (tagOf r.w3) else none,
                                            counter := cntAddr r.w3, cls := r.kind.cls, store := r.kind.storesOut }] }
  else if why.isAccess then s.logLost k r.lid
  else s

/-- A request ends as a failure: its remaining bytes count as arrived, each tag's Fault bit is set, and the fault waits for
an observing instruction of its task (R254). It stays until the parts that it sent are answered and its counter has the bytes that it
delivered (R253), unless the counter is what failed. -/
def State.failReq (s : State) (k : Nat) (r : Req) (why : Failure) : State :=
  let s := s.countTags k r.kind r.w1 r.w3 (r.bytes - r.delivered) true
  let s := if (s.counterMeet k r).any (fun m => m.met.faultVa.isSome) then s.dropReq k r.num
    else (s.updReq k r.num fun r => { r with failed := true, state := .running }).retireReq k r.num
  s.reportReq k r why

/-- REQUEST_ACCESS_FAULT (R254): an access fault of a request ends it. -/
def execRequestAccessFault (s : State) : Result :=
  match s.agenda with
  | .requestAccessFault k num :: _ =>
    let s := s.pop
    match s.req k num with
    | none => .next s
    | some r =>
      if r.state ≠ .running ∨ s.frozenAt k r.lid.toNat ∨ s.posting k r then .next s
      else match s.reqMeets k r Reach.faultVa with
        | none => .next s
        | some va =>
          let looks := ((s.bytePicks k r Reach.faultVa).map fun p => s.byteMeets k r p.1).getD (s.counterMeet k r)
          .next (((if r.failed then s.dropReq k r.num else s.failReq k r (.access va)).lookUp k r.asid looks).endCoaches (clusterOf k))
  | _ => .next s

/-- A request that has not started is discarded: the bytes that it posts count as arrived, with Fault (R127). -/
def State.discardReq (s : State) (k : Nat) (r : Req) : State :=
  (s.countTags k r.kind r.w1 r.w3 r.bytes true).dropReq k r.num

/-- KILL discards what the task of a context has not started, once the posts on their way have reached their tags (R127, R249). -/
def State.discardQueued (s : State) (k c : Nat) : State :=
  let gone := (s.core k).reqs.filter fun r => r.owned && r.ctx == c && !r.begun && r.state == .queued
  let s := if gone.isEmpty then s
    else ({ s with posts := s.posts.filter fun p => p.src != k }).landPosts (s.posts.filter fun p => p.src == k)
  let s := gone.foldl (fun s r => s.discardReq k r) s
  s.updCore k fun co => { co with mxq := co.mxq.filter fun o => !(o.owned && o.ctx == c && !o.started) }

end Sys2Proof.Machine
end

