-- ==== Sys2Proof/Machine/MatrixMath.lean ====
section
/-!
DEFINITION. The arithmetic of the matrix engine (R39 to R41, R53 to R63): FX48 accumulators, 4-bit blocks with their
scales, and the sums of narrow and wide macros.
-/

namespace Sys2Proof.Machine

/-- An exact value of which zero has no sign. -/
def Fp.plain : Fp → Fp
  | .zero _ => .zero false
  | x => x

/-! ### FX48 (R39 to R41) -/

/-- A quantity enters an FX48 element with F fraction bits (R40). -/
def fxEnter (F : Nat) (acc : Nat) (q : Fp) : Nat :=
  match q with
  | .nan _ => acc % 2 ^ 49 ||| 2 ^ 48
  | .inf _ => acc % 2 ^ 49 ||| 2 ^ 48
  | .zero _ => acc % 2 ^ 49
  | .fin m e =>
    let n := (roundAt .rne 0 (decide (m < 0)) m.natAbs e (-(F : Int))).1
    let v : Int := if m < 0 then -(n : Int) else n
    acc / 2 ^ 48 % 2 * 2 ^ 48 + ofSigned 48 (toSigned 48 acc + v)

/-- The exact value of an FX48 element (R41). -/
def fxValue (F : Nat) (acc : Nat) : Fp :=
  if acc / 2 ^ 48 % 2 = 1 then .nan false else Fp.ofInt (toSigned 48 acc) (-(F : Int))

/-! ### Blocks of 4-bit codes (R53 to R57) -/

/-- A signed multiple of a power of two. -/
def signedElem (neg : Bool) (m : Nat) (e : Int) : Fp := Fp.ofInt (if neg then -(m : Int) else m) e

/-- The element that a code of a type stands for (R55). -/
def blockElem (type code : Nat) : Fp :=
  let neg := decide (8 ≤ code)
  let c := code % 8
  let steps := [0, 1, 2, 3, 4, 6, 8, 12]
  if type = 0 then Fp.ofInt (toSigned 4 code) 0
  else if type = 1 then signedElem neg (steps.getD c 0) (-1)
  else if type = 2 then
    if code = 8 then .nan false
    else if c = 7 then .inf neg
    else if c = 0 then .zero false
    else signedElem neg 1 ((c : Int) - 4)
  else if code = 8 then .nan false else signedElem neg (steps.getD c 0) 0

/-- The scale of a block (R54); B is MBASE. -/
def blockScale (byte : Nat) (B : Int) : Fp :=
  let expd := byte / 4 % 16
  let frac := byte % 4
  if expd = 0 then (if frac = 0 then .zero false else .nan false)
  else .fin (4 + (frac : Int)) (B + expd - 10)

/-- A sum of products under a scale (R57). -/
def underScale (P scale : Fp) : Fp := (P.mul scale).1.plain

/-- The exact sum of a list of exact products (R57, R61): a NaN among them, or infinities of both signs, give a NaN. -/
def exactSum (l : List Fp) : Fp := (l.foldl (fun acc x => (Fp.add acc x).1) (.zero false)).plain

/-- acc := rne(acc + x, FP32), as encodings. -/
def fp32Add (acc : Nat) (x : Fp) : Nat := rneBits fp32 ((Fp.decode fp32 acc).add x).1

/-- A block's contribution enters an accumulator, FX48 or FP32 (R59). -/
def accEnter (fx : Bool) (F acc : Nat) (x : Fp) : Nat := if fx then fxEnter F acc x else fp32Add acc x

/-! ### Narrow macros (R58 to R60) -/

/-- A block's product sum P: codes and activations row by row, and the row scale of int8 (R59). -/
def blockSum (type : Nat) (codes : List Nat) (acts : List Fp) (rowScale : Option Fp) : Fp :=
  let sum := exactSum ((codes.zip acts).map fun p => ((blockElem type p.1).mul p.2).1)
  match rowScale with
  | none => sum
  | some s => (sum.mul s).1.plain

/-- One column of a narrow MMUL row: nb blocks in order (R59). code k is the code of weight row k, scaleByte b that of
block b, act k the activation. -/
def narrowColumn (K : Nat) (B : Int) (fx : Bool) (F : Nat) (code : Nat → Nat) (scaleByte : Nat → Nat) (act : Nat → Fp)
    (rowScale : Option Fp) (acc : Nat) : Nat :=
  (List.range (ceilDiv K 32)).foldl (fun acc b =>
    let rows := (List.range (Nat.min 32 (K - 32 * b))).map (· + 32 * b)
    let sc := scaleByte b
    let P := blockSum (sc / 64) (rows.map code) (rows.map act) rowScale
    accEnter fx F acc (underScale P (blockScale sc B))) acc

/-- One event on one column of a narrow EVMAC (R60). -/
def narrowEvent (B : Int) (F code scaleByte : Nat) (delta : Int) (acc : Nat) : Nat :=
  match underScale (blockElem (scaleByte / 64) code) (blockScale scaleByte B) with
  | .nan _ => acc % 2 ^ 49 ||| 2 ^ 48
  | .inf _ => acc % 2 ^ 49 ||| 2 ^ 48
  | .zero _ => acc % 2 ^ 49
  | .fin m e =>
    let n := (roundAt .rne 0 (decide (m < 0)) m.natAbs e (-(F : Int))).1
    let q : Int := if m < 0 then -(n : Int) else n
    acc / 2 ^ 48 % 2 * 2 ^ 48 + ofSigned 48 (toSigned 48 acc + delta * q)

/-! ### Wide macros (R61, R62) -/

/-- floor(log2) of a nonzero value's magnitude. -/
def topBit (m e : Int) : Int := e + Nat.log2 m.natAbs

/-- A magnitude truncated toward zero to a multiple of 2^u, its sign kept. -/
def truncAt (m e u : Int) : Int :=
  let n := (roundAt .rtz 0 false m.natAbs e u).1
  if m < 0 then -(n : Int) else n

/-- The sum of a K-group's products (R61). -/
def groupSum (l : List Fp) : Fp :=
  match exactSum (l.map fun p => match p with | .fin _ _ => .zero false | x => x) with
  | .zero _ =>
    let tops := l.filterMap fun p => match p with | .fin m e => some (topBit m e) | _ => none
    match tops with
    | [] => .zero false
    | t :: r =>
      let u := r.foldl (fun a b => if a < b then b else a) t - 40
      Fp.ofInt ((l.map fun p => match p with | .fin m e => truncAt m e u | _ => 0).foldl (· + ·) 0) u
  | x => x

/-- One column of a wide MMUL row (R61). -/
def wideColumn (K : Nat) (weight act : Nat → Fp) (acc : Nat) : Nat :=
  (List.range (ceilDiv K 32)).foldl (fun acc g =>
    let rows := (List.range (Nat.min 32 (K - 32 * g))).map (· + 32 * g)
    fp32Add acc (groupSum (rows.map fun k => ((act k).mul (weight k)).1))) acc

/-- One event on one column of a wide EVMAC (R62): x = Δ × 2^EvExp. -/
def wideEvent (weight : Fp) (delta evExp : Int) (acc : Nat) : Nat :=
  fp32Add acc (groupSum [((Fp.ofInt delta evExp).mul weight).1])

end Sys2Proof.Machine
end

