-- ==== Sys2Proof/Machine/Matrix.lean ====
section
/-!
DEFINITION. The matrix engine: its registers, bindings and checks (R216 to R222), major MATRIX, and the steps of the
engine: groups, rows, drain dispatch and departure (R223 to R240).
-/

namespace Sys2Proof.Machine

/-! ### Engine registers (R218) -/

/-- M. -/
def MxRegs.M (r : MxRegs) : Nat := bits r.mgeo 63 48
/-- N. -/
def MxRegs.N (r : MxRegs) : Nat := bits r.mgeo 47 37
/-- Col0. -/
def MxRegs.col0 (r : MxRegs) : Nat := bits r.mgeo 36 27
/-- K. -/
def MxRegs.K (r : MxRegs) : Nat := bits r.mgeo 26 17
/-- Row0. -/
def MxRegs.row0 (r : MxRegs) : Nat := bits r.mgeo 16 8
/-- EvExp, signed. -/
def MxRegs.evExp (r : MxRegs) : Int := toSigned 8 (bits r.mfmt 23 16)
/-- ActFmt. -/
def MxRegs.actFmt (r : MxRegs) : Nat := bits r.mfmt 10 8
/-- WFmt. -/
def MxRegs.wFmt (r : MxRegs) : Nat := bits r.mfmt 1 0
/-- The tile base exponent B. -/
def MxRegs.base (r : MxRegs) : Int := toSigned 8 (bits r.mbase 7 0)
/-- MSCP.Off. -/
def MxRegs.scp (r : MxRegs) : Nat := bits r.mscp 16 0
/-- Fx. -/
def MxRegs.fx (r : MxRegs) : Bool := bit r.macc 31
/-- FracBits. -/
def MxRegs.frac (r : MxRegs) : Nat := bits r.macc 29 24
/-- MACC.Off. -/
def MxRegs.accOff (r : MxRegs) : Nat := bits r.macc 16 0
/-- The size of an accumulator element. -/
def MxRegs.accSize (r : MxRegs) : Nat := if r.fx then 8 else 4
/-- The offset of accumulator row i. -/
def MxRegs.accRow (r : MxRegs) (i : Nat) : Nat := r.accOff + i * r.N * r.accSize
/-- OutFmt. -/
def MxRegs.outFmt (r : MxRegs) : Nat := bits r.mdrh 57 56
/-- The size of an output element. -/
def MxRegs.outSize (r : MxRegs) : Nat :=
  if r.outFmt = 0 then r.accSize else if r.outFmt = 1 then 4 else 2
/-- The bytes of an output row. -/
def MxRegs.outRow (r : MxRegs) : Nat := r.N * r.outSize
/-- The bytes of a slot. -/
def MxRegs.slotSize (r : MxRegs) : Nat := ceilDiv r.outRow 64 * 64
/-- The number of slots. -/
def MxRegs.slotCount (r : MxRegs) : Nat := bits r.mdrh 60 58 + 1
/-- The offset of slot n. -/
def MxRegs.slotAt (r : MxRegs) (n : Nat) : Nat := 1024 * bits r.mdrh 55 49 + n * r.slotSize
/-- The epilogue handler's pc; 0 for none. -/
def MxRegs.handler (r : MxRegs) : Nat := 4 * bits r.mdrh 47 2
/-- MDST.Mode. -/
def MxRegs.dstMode (r : MxRegs) : Nat := bits r.mdst 63 62

/-- The bytes of an activation element (R226). -/
def MxRegs.actSize (r : MxRegs) : Nat := if r.actFmt < 3 then 1 else 2

/-- MSET of a register: reserved bits read as 0 (R218, R220). -/
def MxRegs.write (r : MxRegs) (e : EngReg) (v : Word) : MxRegs :=
  match e with
  | .mgeo => { r with mgeo := v &&& 0xFFFFFFFFFFFFFF00#64 }
  | .mfmt => { r with mfmt := v &&& 0x0000000000FF0703#64 }
  | .mbase => { r with mbase := v &&& 0x00000000000000FF#64 }
  | .mscp => { r with mscp := v &&& 0x000000000001FFFF#64 }
  | .macc => { r with macc := v &&& 0x00000000BF01FFFF#64 }
  | .mdrh => { r with mdrh := v &&& 0x7FFEFFFFFFFFFFFC#64 }
  | .mdst => { r with mdst := v &&& 0xC000FFFFFFFFFFFF#64 }

/-- MGET of a register (R220). -/
def MxRegs.read (r : MxRegs) : EngReg → Word
  | .mgeo => r.mgeo
  | .mfmt => r.mfmt
  | .mbase => r.mbase
  | .mscp => r.mscp
  | .macc => r.macc
  | .mdrh => r.mdrh
  | .mdst => r.mdst

/-! ### Entering the major (R216, R236) -/

/-- Runs an instruction of major MATRIX for the coach that the macro is or becomes bound to, after its pending fault
(R216, R236). The spec does not say whether an instruction that then returns a nonzero busy code, which leaves no effect beyond rd
(R91), is the first that issues (R216): in the model it binds the macro (log 74). -/
def State.onMatrix (s : State) (run : State → State) : State :=
  let co := s.myCore
  match s.me.coach with
  | none => s.trap 3 0x100
  | some n =>
    if co.bound.isSome && co.boundLid != s.me.lid then s.trap 3 0x100
    else
      let s := s.setCore s.focus { co with bound := some n, boundLid := s.me.lid }
      match s.report fun d => d.cls == clsMX with
      | some s => s
      | none => run s

/-- The issuing context writes a busy code and goes on (R91). -/
def State.busy (s : State) (rd : Reg) (n : Nat) (stl : Stall) : State :=
  s.done stl fun c => c.varX rd.toNat (BitVec.ofNat 64 n)

/-- MSET (R220). -/
def execMset (er : EngReg) (rs1 : Reg) (stl : Stall) (s : State) : Result :=
  .next (s.onCompute (.mset er rs1 stl) fun s =>
    s.issue { reads := [useX rs1] } fun s => s.onMatrix fun s =>
      (s.updCore s.focus fun co => { co with mx := co.mx.write er (s.me.rx rs1.toNat) }).done stl id)

/-- MGET (R220). -/
def execMget (rd : Reg) (er : EngReg) (stl : Stall) (s : State) : Result :=
  .next (s.onCompute (.mget rd er stl) fun s =>
    s.issue { writes := [useX rd] } fun s => s.onMatrix fun s =>
      s.done stl fun c => c.varX rd.toNat (s.myCore.mx.read er))

/-! ### Checks at issue (R222) -/

/-- Geometry: K, N, Row0 and Col0 within the macro of core k. -/
def geoOk (k : Nat) (r : MxRegs) : Bool :=
  r.K != 0 && r.N != 0 && r.row0 % 32 == 0 && decide (r.row0 + r.K ≤ 512) && decide (r.col0 + r.N ≤ macroCols k)
/-- N alone within the macro of core k. -/
def colsOk (k : Nat) (r : MxRegs) : Bool := r.N != 0 && decide (r.N ≤ macroCols k)
/-- The kind of core k holds WFmt (R13). -/
def wFmtOk (k : Nat) (r : MxRegs) : Bool :=
  if isWide (clusterOf k) then r.wFmt == 1 || r.wFmt == 2 else r.wFmt == 0
/-- ActFmt for the kind of core k. -/
def actFmtOk (k : Nat) (r : MxRegs) : Bool :=
  if isWide (clusterOf k) then r.actFmt == 4 || r.actFmt == 5 else decide (r.actFmt ≤ 2)
/-- Fx and FracBits for the kind of core k, and MACC.Off a multiple of 8. -/
def accOk (k : Nat) (r : MxRegs) (events : Bool) : Bool :=
  (if isWide (clusterOf k) then !r.fx else r.fx || !events) && (!r.fx || decide (r.frac ≤ 47)) && r.accOff % 8 == 0

/-- A region of a scratchpad: offset and length. -/
abbrev Region := Nat × Nat

/-- Regions of which no two share a byte. -/
def apart : List Region → Bool
  | [] => true
  | a :: r => r.all (fun b => !overlaps a.1 a.2 b.1 b.2) && apart r

/-- Whether a region fits a scratchpad of size S (R222). -/
def fits (S : Nat) (g : Region) : Bool := decide (g.1 + g.2 ≤ S)

/-- The scale table of a narrow core, from MSCP.Off up to the last column that an operation names (R222); none on a wide one. -/
def scaleTable (k : Nat) (r : MxRegs) : List Region :=
  if isWide (clusterOf k) then [] else [(r.scp, 16 * (r.col0 + r.N))]

/-- The part of the scale table that an operation reads: its own columns'. -/
def scalesRead (k : Nat) (r : MxRegs) : List Region :=
  if isWide (clusterOf k) then [] else [(r.scp + 16 * r.col0, 16 * r.N)]

/-- The slots. -/
def slotRegions (r : MxRegs) : List Region := (List.range r.slotCount).map fun n => (r.slotAt n, r.slotSize)

/-- The accumulator rows first … stop - 1, as one region. -/
def accRegion (r : MxRegs) (first stop : Nat) : List Region :=
  if first < stop then [(r.accRow first, (stop - first) * r.N * r.accSize)] else []

/-- The number of the first register whose check fails, or 7 for a region (R222). -/
def firstFail (l : List (Nat × Bool)) : Option Nat := (l.find? fun p => !p.2).map Prod.fst

/-- Checks of MLOADW (R222). -/
def State.checkLoad (s : State) (k : Nat) (r : MxRegs) : Option Nat :=
  firstFail [(0, geoOk k r), (1, wFmtOk k r), (3, isWide (clusterOf k) || r.scp % 16 == 0),
    (7, (scaleTable k r).all (fits (s.padSize k)))]

/-- Checks of EVMAC (R222). -/
def State.checkEvmac (s : State) (k : Nat) (r : MxRegs) : Option Nat :=
  firstFail [(0, geoOk k r), (1, wFmtOk k r), (4, accOk k r true), (3, isWide (clusterOf k) || r.scp % 16 == 0),
    (7, (scaleTable k r ++ accRegion r 0 1).all (fits (s.padSize k)))]

/-- Checks of MZERO for rows first … stop - 1 (R222). -/
def State.checkZero (s : State) (k : Nat) (r : MxRegs) (first stop : Nat) : Option Nat :=
  firstFail [(0, colsOk k r), (4, accOk k r false), (7, (accRegion r first stop).all (fits (s.padSize k)))]

/-- Checks of MDRAIN for rows first … stop - 1 (R222): only slots are held against the scale table. -/
def State.checkDrain (s : State) (k : Nat) (r : MxRegs) (first stop : Nat) : Option Nat :=
  let regions := slotRegions r ++ accRegion r first stop
  firstFail [(0, colsOk k r), (4, accOk k r false),
    (7, regions.all (fits (s.padSize k)) && apart regions && apart (slotRegions r ++ scaleTable k r)),
    (6, r.dstMode != 3), (5, r.dstMode != 1 || r.outFmt != 0)]

/-- Checks of MMUL; act are its activation rows and row scales in the scratchpad (R222). -/
def State.checkMul (s : State) (k : Nat) (r : MxRegs) (act : List Region) (srcOk : Bool) : Option Nat :=
  let regions := act ++ slotRegions r ++ accRegion r 0 r.M ++ scaleTable k r
  firstFail [(0, geoOk k r), (0, r.M != 0), (1, wFmtOk k r), (1, actFmtOk k r), (4, accOk k r false),
    (3, isWide (clusterOf k) || r.scp % 16 == 0), (7, srcOk), (7, regions.all (fits (s.padSize k)) && apart regions)]

/-! ### Issuing operations -/

/-- The f7 of an operation (R219, R236). -/
def MxKind.f7 : MxKind → Nat
  | .mloadw => 2 | .mmul => 3 | .evmac => 4 | .mdrain => 5 | .mzero => 6 | .scrub => 7

/-- An operation of the issuing context with the registers as they stand (R221). -/
def State.mxOp (s : State) (kind : MxKind) (a b : Word) : MxOp :=
  let c := s.me
  { kind := kind, ctx := s.active, lid := c.lid, asid := c.asid, sup := c.sup, coach := c.coach.getD 0, tile := c.tile
    pc := c.pc, ord := c.storeIds, regs := s.myCore.mx, a := a, b := b }

/-- An operation enters the engine queue (R221). -/
def State.enqueueMx (s : State) (o : MxOp) : State :=
  (s.updCore s.focus fun co => { co with mxq := co.mxq ++ [o] }).setMe { s.me with storeIds := s.me.storeIds + 1 }

/-- Whether the engine queue is full: its four places hold operations (R221). -/
def State.mxFull (s : State) : Bool := decide (4 ≤ s.myCore.mxq.length)

/-- A checked operation is queued with busy code 0, or refused with 1 (R221, R222). -/
def State.queueMx (s : State) (o : MxOp) (rd : Reg) (stl : Stall) : State :=
  if s.mxFull then s.busy rd 1 stl else (s.enqueueMx o).busy rd 0 stl

/-- What an access of the engine for a context meets (R224): only memory, scratchpad and valid windows are reached. -/
def State.mxReach (s : State) (k : Nat) (asid : BitVec 13) (sup : Bool) (gens : SMap Word) (mode : AddrMode)
    (acc : Access) (a : Word) : Reach :=
  match s.reachFor k asid sup mode acc a with
  | .ok (.remote _) => .trap 3 a
  | .ok (.gen d) => if (genDesc gens d).valid (s.padSize k) then .ok (.gen d) else .trap 3 a
  | .trap _ t => .trap 3 t
  | x => x

/-- The bytes at which a run's places change: every byte of a scratchpad run, the first byte of each page of a FLAT run. -/
def runSteps (mode : AddrMode) (a : Word) (len : Nat) : List Word :=
  ((List.range len).filter fun j => mode != .flat || j == 0 || (a + BitVec.ofNat 64 j).toNat % 1024 == 0).map fun j =>
    a + BitVec.ofNat 64 j

/-- What the first byte of a run that does not reach its place meets. R224 gives no order between an absent page and an access
fault at a later address: the model takes the obstacle at the lowest address (log 74). -/
def State.runBad (s : State) (k : Nat) (asid : BitVec 13) (sup : Bool) (gens : SMap Word) (mode : AddrMode) (acc : Access)
    (a : Word) (len : Nat) : Option Reach :=
  (runSteps mode a len).findSome? fun b =>
    let r := s.mxReach k asid sup gens mode acc b
    if r.isOk then none else some r

/-- The pages of some runs are looked up: hits in the cluster TLB are copied (R349). -/
def State.mxLook (s : State) (k : Nat) (asid : BitVec 13) (l : List (AddrMode × Word × Nat)) : State :=
  l.foldl (fun s q => if q.1 = .flat then (runSteps .flat q.2.1 q.2.2).foldl (fun s a => s.tlbCopy k asid a) s else s) s

/-- The runs of MLOADW's source: one for each column (R223). -/
def MxOp.columns (o : MxOp) (wide : Bool) : List (Word × Nat) :=
  let len := if wide then 2 * o.regs.K else 17 * ceilDiv o.regs.K 32
  let pitch : Word := if o.b = 0 then BitVec.ofNat 64 len else o.b
  (List.range o.regs.N).map fun j => (BitVec.ofNat 64 (wordAddr o.a) + pitch * BitVec.ofNat 64 j, len)

/-- The runs of MLOADW's source with their mode. -/
def MxOp.runs (o : MxOp) (k : Nat) : List (AddrMode × Word × Nat) :=
  (o.columns (isWide (clusterOf k))).map fun p => (wordMode o.a, p)

/-- What the source of MLOADW meets, if not all of it reaches its place. -/
def State.loadBad (s : State) (k : Nat) (o : MxOp) (gens : SMap Word) : Option Reach :=
  (o.columns (isWide (clusterOf k))).findSome? fun p => s.runBad k o.asid o.sup gens (wordMode o.a) .read p.1 p.2

/-- MLOADW (R222 to R224). -/
def execMloadw (rd rs1 rs2 : Reg) (stl : Stall) (s : State) : Result :=
  .next (s.onCompute (.mloadw rd rs1 rs2 stl) fun s =>
    s.issue { reads := [useX rs1, useX rs2], writes := [useX rd] } fun s => s.onMatrix fun s =>
      let o := s.mxOp .mloadw (s.me.rx rs1.toNat) (s.me.rx rs2.toNat)
      if (s.checkLoad s.focus o.regs).isSome ∨ (wordMode o.a ≠ .flat ∧ wordMode o.a ≠ .own) then s.busy rd 2 stl
      else match s.loadBad s.focus o s.me.gens with
        | some r => s.fail (wordMode o.a) r.va r
        | none => (s.mxLook s.focus o.asid (o.runs s.focus)).queueMx o rd stl)

/-- Whether MMUL's source is a stream (R226). -/
def MxOp.streamed (o : MxOp) : Bool := bit o.a 63
/-- Pitch of MMUL. -/
def MxOp.pitch (o : MxOp) : Nat := bits o.b 63 48
/-- ScaleOff of MMUL. -/
def MxOp.scaleOff (o : MxOp) : Nat := bits o.b 16 0
/-- The vectors of a row of a stream source (R227). -/
def MxRegs.rowVecs (r : MxRegs) : Nat := ceilDiv (r.K * r.actSize) 64

/-- The activation rows and row scales of MMUL in the scratchpad (R222, R226). -/
def MxOp.actRegions (o : MxOp) : List Region :=
  (if o.streamed then []
   else (List.range o.regs.M).map fun i => (bits o.a 16 0 + i * o.pitch, o.regs.K * o.regs.actSize))
    ++ if o.regs.actFmt = 0 then [(o.scaleOff, 4 * o.regs.M)] else []

/-- The alignment of MMUL's scratchpad source (R222). -/
def MxOp.srcOk (o : MxOp) : Bool :=
  (o.streamed || (o.pitch % 4 == 0 && decide (o.regs.K * o.regs.actSize ≤ o.pitch)))
    && (o.regs.actFmt != 0 || o.scaleOff % 4 == 0)

/-- The vectors that an MMUL claims of a stream: fetched values, or addresses to read (R227). -/
def claimsOf (t : Stream) (n : Nat) : List (Option VWord × Word × BitVec 2) :=
  (List.range n).map fun j =>
    let i := t.cursor + j
    if !t.wrap && decide (t.count ≤ i) then (some 0, 0, 0)
    else (t.fetched.find? i, t.addr i, BitVec.ofNat 2 (bits t.w0 49 48))

/-- The accesses of the claimed vectors that are still to be read. -/
def claimRuns (l : List (Option VWord × Word × BitVec 2)) : List (AddrMode × Word × Nat) :=
  l.filterMap fun q => if q.1.isSome then none else some (AddrMode.ofBits q.2.2, q.2.1, 64)

/-- The parts of a claimed vector's access: words in the interleaved mode, else its bytes as a whole. -/
def claimBytes (mode : AddrMode) (a : Word) : List Word :=
  if mode = .clust then (List.range 16).map fun j => a + BitVec.ofNat 64 (4 * j) else [a]

/-- What the first claimed vector still to be read that fails meets, with its address. -/
def State.claimsBad (s : State) (k : Nat) (o : MxOp) (gens : SMap Word) (l : List (Option VWord × Word × BitVec 2)) :
    Option (Reach × Word) :=
  l.findSome? fun q =>
    if q.1.isSome then none
    else
      let mode := AddrMode.ofBits q.2.2
      (claimBytes mode q.2.1).findSome? fun a =>
        let r := s.mxReach k o.asid o.sup gens mode .read a
        if r.isOk then none else some (r, q.2.1)

/-- MMUL (R222, R226, R227). -/
def execMmul (rd rs1 rs2 : Reg) (stl : Stall) (s : State) : Result :=
  .next (s.onCompute (.mmul rd rs1 rs2 stl) fun s =>
    s.issue { reads := [useX rs1, useX rs2], writes := [useX rd] } fun s => s.onMatrix fun s =>
      let o := s.mxOp .mmul (s.me.rx rs1.toNat) (s.me.rx rs2.toNat)
      let n := bits o.a 2 0
      if (s.checkMul s.focus o.regs o.actRegions o.srcOk).isSome then s.busy rd 2 stl
      else if !o.streamed then s.queueMx o rd stl
      else match s.me.streams.find? n with
        | none => s.busy rd 2 stl
        | some t =>
          let want := o.regs.M * o.regs.rowVecs
          if t.isWrite ∨ (!t.wrap ∧ t.count < t.cursor + want ∧ !s.me.dryZero) then s.busy rd 2 stl
          else
            let claims := claimsOf t want
            match s.claimsBad s.focus o s.me.gens claims with
            | some (.miss acc va, _) => s.wait (.tlb acc va)
            | some (.absent va, _) => s.fail .flat va (.absent va)
            | some (_, a) => (s.mxLook s.focus o.asid (claimRuns claims)).trap 7 (streamTval 4 n a)
            | none =>
              let s := s.mxLook s.focus o.asid (claimRuns claims)
              if s.mxFull then s.busy rd 1 stl
              else
                let t' : Stream := { t with
                  cursor := if t.wrap then t.cursor + want else Nat.min t.count (t.cursor + want)
                  fetched := t.fetched.filter fun p => decide (t.cursor + want ≤ p.1) }
                ((s.setMe { s.me with streams := s.me.streams.set n t' }).enqueueMx { o with claims := claims }).busy rd 0 stl)

/-- The rows that MZERO or MDRAIN names (R229, R230). -/
def rowsNamed (r : MxRegs) (a : Word) : Nat × Nat :=
  let first := bits a 15 0
  let count := bits a 31 16
  (first, if count = 0 then r.M else first + count)

/-- The rows that MDRAIN drains: those below M (R230). The rows that it names from M on are skipped, and the checks of R222 pass them
over too; the spec does not say whether they count there (log 74). -/
def rowsDrained (r : MxRegs) (a : Word) : Nat × Nat := ((rowsNamed r a).1, Nat.min (rowsNamed r a).2 r.M)

/-- MZERO (R222, R229). -/
def execMzero (rd rs1 : Reg) (stl : Stall) (s : State) : Result :=
  .next (s.onCompute (.mzero rd rs1 stl) fun s =>
    s.issue { reads := [useX rs1], writes := [useX rd] } fun s => s.onMatrix fun s =>
      let o := s.mxOp .mzero (s.me.rx rs1.toNat) 0
      let rows := rowsNamed o.regs o.a
      if (s.checkZero s.focus o.regs rows.1 rows.2).isSome then s.busy rd 2 stl else s.queueMx o rd stl)

/-- The destination address of output row i (R232). -/
def MxRegs.dstRow (r : MxRegs) (i : Nat) : Word := BitVec.ofNat 64 (bits r.mdst 47 0 + i * r.outRow)

/-- MDRAIN (R222, R230, R232, R302). -/
def execMdrain (rd rs1 : Reg) (stl : Stall) (s : State) : Result :=
  .next (s.onCompute (.mdrain rd rs1 stl) fun s =>
    s.issue { reads := [useX rs1], writes := [useX rd] } fun s => s.onMatrix fun s =>
      let o := s.mxOp .mdrain (s.me.rx rs1.toNat) 0
      let rows := rowsDrained o.regs o.a
      if (s.checkDrain s.focus o.regs rows.1 rows.2).isSome then s.busy rd 2 stl
      else
        let base := o.regs.dstRow rows.1
        let len := (rows.2 - rows.1) * o.regs.outRow
        if o.regs.dstMode = 1 ∧ 0 < len then
          let inWindow := match s.tlbHit s.focus o.asid base.toNat with
            | some pte => bits pte 63 62 == 1
            | none => false
          if inWindow then s.busy rd 2 stl
          else match s.runBad s.focus o.asid o.sup s.me.gens .flat .write base len with
            | some r => s.fail .flat r.va r
            | none => (s.mxLook s.focus o.asid [(.flat, base, len)]).queueMx o rd stl
        else s.queueMx o rd stl)

/-! ### The macro and the checksum (R225, R235, R240) -/

/-- The weight at a macro row and column. -/
def Core.weight (co : Core) (row col : Nat) : Nat := (co.weights.get (1024 * row + col) 0).toNat
/-- A weight written. -/
def Core.setWeight (co : Core) (row col v : Nat) : Core :=
  { co with weights := co.weights.put 0 (1024 * row + col) (BitVec.ofNat 16 v) }

/-- The checksum comparison of a pass over n columns from c0: a faulty column fails again and again, a transient mismatch is
repeated once; each is logged with its column (R235, R375). The answer is the column that fails persistently. -/
def State.compare (s : State) (k c0 n : Nat) (lid : BitVec 16) : Option Nat × State :=
  let co := s.core k
  match co.faultyCols.find? fun c => decide (c0 ≤ c) && decide (c < c0 + n) with
  | some c => (some c, s.logCore k 5 lid (BitVec.ofNat 64 c) 1)
  | none =>
    match co.mismatches.find? fun c => decide (c0 ≤ c) && decide (c < c0 + n) with
    | some c => (none, (s.setCore k { co with mismatches := co.mismatches.erase c }).logCore k 5 lid (BitVec.ofNat 64 c) 0)
    | none => (none, s)

/-- TVAL of CIMERR (R236). -/
def cimerrTval (late : Bool) (f7 group col : Nat) : Word :=
  BitVec.ofNat 64 ((if late then 2 ^ 63 else 0) + f7 * 2 ^ 56 + group % 65536 * 2 ^ 16 + col % 1024)

/-! ### The engine's steps -/

/-- The descriptors that an operation reads with (R301). -/
def State.mxGens (s : State) (k : Nat) (o : MxOp) : SMap Word := o.gens.getD (s.ctx k o.ctx).gens

/-- The head operation of core k has ended: the binding or its coach may end with it (R217). -/
def State.popMx (s : State) (k : Nat) : State :=
  ((s.updCore k fun co => { co with mxq := co.mxq.drop 1 }).endBinding k).endCoaches (clusterOf k)

/-- Whether two operations are of one task. -/
def MxOp.sameTask (o q : MxOp) : Bool := o.ctx == q.ctx && o.owned == q.owned && (o.owned || o.ended == q.ended)

/-- A fault of the engine waits for its task's next instruction of major MATRIX; that of a task that has ended is only logged
(R236): a column by R235, an access fault here. -/
def State.reportMx (s : State) (k c ord : Nat) (lid : BitVec 16) (owned : Bool) (why : Failure) : State :=
  if owned then
    s.updCtx k c fun x => { x with deferred := x.deferred ++ [{ ord := ord, why := why, tag := none, counter := 0, cls := clsMX
                                                                store := false }] }
  else if why.isAccess then s.logLost k lid
  else s

/-- The head operation of core k fails: it and every queued operation of its task end, and the fault is reported (R236). -/
def State.failMx (s : State) (k : Nat) (o : MxOp) (why : Failure) : State :=
  let s := s.updCore k fun co => { co with mxq := (co.mxq.drop 1).filter fun q => !o.sameTask q }
  ((s.reportMx k o.ctx o.ord o.lid o.owned why).endBinding k).endCoaches (clusterOf k)

/-- n bytes that the engine reads at an address; the place is looked up byte by byte. A write that nothing orders before them may leave the
bytes that it replaced to be found (R263, R283). -/
def State.mxBytes (s : State) (k : Nat) (o : MxOp) (mode : AddrMode) (a : Word) (n : Nat) : List Nat :=
  let gens := s.mxGens k o
  (List.range n).map fun j =>
    let b := a + BitVec.ofNat 64 j
    match s.mxReach k o.asid o.sup gens mode .read b with
    | .ok (.mem pa) => s.memSeen clsMX pa 1
    | .ok (.pad i off) => s.padSeen clsMX i off 1
    | .ok (.gen d) => genBytes (genDesc gens d) (s.freqOf k (genDesc gens d)) b.toNat 1
    | _ => 0

/-- The physical addresses of the lines that some runs read. -/
def State.mxPas (s : State) (k : Nat) (o : MxOp) (l : List (AddrMode × Word × Nat)) : List Nat :=
  memsOf (l.flatMap fun q =>
    (List.range q.2.2).map fun j => s.mxReach k o.asid o.sup (s.mxGens k o) q.1 .read (q.2.1 + BitVec.ofNat 64 j))

/-- Runs f with the state in which the engine's reads of some runs have taken a token of each line for its die; while it cannot have
them, the operation waits (R269, R270, R272). -/
def State.withReads (s : State) (k : Nat) (o : MxOp) (l : List (AddrMode × Word × Nat)) (f : State → State) : State :=
  let pas := s.mxPas k o l
  if s.tokensHeld (vdnOf k) false pas then (f (s.holderReads (vdnOf k) pas)).mxLook k o.asid l
  else s.wantTokens (vdnOf k) false pas (.mx k)

/-! ### Poison that the engine reads (R370) -/

/-- The address of the first poisoned byte among n from a. -/
def firstPoison (p : List Nat) (a n : Nat) : Option Nat := ((wordsOf a n).find? p.contains).map fun w => Nat.max a (8 * w)

/-- The first poisoned byte of some regions of core k's scratchpad. -/
def State.padPoisoned (s : State) (k : Nat) (l : List Region) : Option Word :=
  l.findSome? fun g => (firstPoison (s.core k).padPoison g.1 g.2).map fun a => BitVec.ofNat 64 a

/-- The first poisoned byte of a run that the engine reads. -/
def State.runPoisoned (s : State) (k : Nat) (asid : BitVec 13) (sup : Bool) (gens : SMap Word) (mode : AddrMode) (a : Word)
    (len : Nat) : Option Word :=
  (List.range len).findSome? fun j =>
    let b := a + BitVec.ofNat 64 j
    match s.mxReach k asid sup gens mode .read b with
    | .ok p => if s.placePoisoned p 1 then some b else none
    | _ => none

/-- A poisoned byte of MLOADW's source. -/
def State.loadPoisoned (s : State) (k : Nat) (o : MxOp) (gens : SMap Word) : Option Word :=
  (o.columns (isWide (clusterOf k))).findSome? fun p => s.runPoisoned k o.asid o.sup gens (wordMode o.a) p.1 p.2

/-- A poisoned byte among what a group of an MMUL reads: activations, row scales, accumulators, the scale table, and claimed
vectors. -/
def State.groupPoisoned (s : State) (k : Nat) (o : MxOp) (rows : List Nat)
    (claims : List (Option VWord × Word × BitVec 2)) : Option Word :=
  let regions := rows.flatMap fun i =>
    (if o.streamed then [] else [(bits o.a 16 0 + i * o.pitch, o.regs.K * o.regs.actSize)])
      ++ (if o.regs.actFmt = 0 then [(o.scaleOff + 4 * i, 4)] else []) ++ [(o.regs.accRow i, o.regs.N * o.regs.accSize)]
  match s.padPoisoned k (regions ++ scalesRead k o.regs) with
  | some a => some a
  | none => claims.findSome? fun q =>
    if q.1.isSome then none
    else s.runPoisoned k o.asid o.sup (s.mxGens k o) (AddrMode.ofBits q.2.2) q.2.1 64

/-- MLOADW's effect: codes or elements to the macro, scale bytes to the table (R225). The source is read before the first is written. -/
def State.loadTile (now : State) (k : Nat) (o : MxOp) : State :=
  let r := o.regs
  let wide := isWide (clusterOf k)
  (o.columns wide).zipIdx.foldl (fun s p =>
    let bs := now.mxBytes k o (wordMode o.a) p.1.1 p.1.2
    let col := r.col0 + p.2
    if wide then
      (List.range r.K).foldl (fun s i =>
        s.updCore k fun co => co.setWeight (r.row0 + i) col (bs.getD (2 * i) 0 + 256 * bs.getD (2 * i + 1) 0)) s
    else
      ((List.range (ceilDiv r.K 32)).foldl (fun s b =>
        let s := s.updCore k fun co => (List.range 32).foldl (fun co i =>
          co.setWeight (r.row0 + 32 * b + i) col (bs.getD (17 * b + 1 + i / 2) 0 / 16 ^ (i % 2) % 16)) co
        s.engPad clsMX k (r.scp + 16 * col + (r.row0 / 32 + b)) 1 (bs.getD (17 * b) 0)) s).cleanPlaces
          [(.pad k (r.scp + 16 * col + r.row0 / 32), ceilDiv r.K 32)]) now

/-- Accumulator rows first … stop - 1 are zero (R229). -/
def State.zeroRows (s : State) (k : Nat) (r : MxRegs) (first stop : Nat) : State :=
  s.engPad clsMX k (r.accRow first) ((stop - first) * r.N * r.accSize) 0

/-- An obstacle to a running operation that reads some runs: a miss sends its notice, an absent page holds it, a fault fails it (R227). The
runs have been looked up (R349). -/
def State.mxBlocked (s : State) (k : Nat) (o : MxOp) (l : List (AddrMode × Word × Nat)) (r : Reach) : State :=
  let s := s.mxLook k o.asid l
  match r with
  | .miss acc va => s.postMiss k o.asid acc va.toNat
  | .trap _ t => s.failMx k o (.access t)
  | _ => s

/-- MATRIX_OP_START (R221): the oldest operation starts; MLOADW, MZERO and a scrub run whole (R225, R229, R237), and a drain
without rows ends at once. -/
def execMatrixOpStart (s : State) : Result :=
  match s.agenda with
  | .matrixOpStart k :: _ =>
    let s := s.pop
    match (s.core k).mxq with
    | [] => .next s
    | o :: _ =>
      if o.started || o.waits || s.frozenAt k o.lid.toNat then .next s
      else
        match o.kind with
        | .mloadw =>
          .next (match s.loadBad k o (s.mxGens k o) with
            | some r => s.mxBlocked k o (o.runs k) r
            | none =>
              match s.loadPoisoned k o (s.mxGens k o) with
              | some a => s.failMx k o (.access a)
              | none =>
                s.withReads k o (o.runs k) fun s => (s.loadTile k o).popMx k)
        | .mzero =>
          let rows := rowsNamed o.regs o.a
          .next ((s.zeroRows k o.regs rows.1 rows.2).popMx k)
        | .scrub =>
          match s.compare k 0 (macroCols k) o.lid with
          | (some c, s) => .next (s.failMx k o (.cimerr (cimerrTval true o.kind.f7 0 c)))
          | (none, s) => .next (s.popMx k)
        | .evmac => .next s
        | .mdrain =>
          let rows := rowsDrained o.regs o.a
          if rows.1 < rows.2 then
            .next (s.updCore k fun co => { co with mxq := updFirst (fun _ => true) (fun o => { o with started := true }) co.mxq })
          else .next (s.popMx k)
        | .mmul =>
          .next (s.updCore k fun co => { co with mxq := updFirst (fun _ => true) (fun o => { o with started := true }) co.mxq })
  | _ => .next s

/-- The activation format of an MMUL. -/
def MxRegs.actFloat (r : MxRegs) : FloatFmt :=
  if r.actFmt = 1 then e4m3 else if r.actFmt = 2 then e5m2 else if r.actFmt = 4 then bf16 else fp16
/-- The weight format of a wide core. -/
def MxRegs.wFloat (r : MxRegs) : FloatFmt := if r.wFmt = 1 then bf16 else fp16

/-- An activation element as a number (R226). -/
def MxRegs.actVal (r : MxRegs) (v : Nat) : Fp :=
  if r.actFmt = 0 then Fp.ofInt (toSigned 8 v) 0 else Fp.decode r.actFloat v

/-- The bytes of activation row i of an MMUL (R226, R227). -/
def State.actRow (s : State) (k : Nat) (o : MxOp) (i : Nat) : List Nat :=
  let len := o.regs.K * o.regs.actSize
  if o.streamed then
    let v := o.regs.rowVecs
    (((o.claims.drop (i * v)).take v).flatMap fun q =>
      match q.1 with
      | some w => (List.range 64).map (elem 8 w)
      | none => s.mxBytes k o (AddrMode.ofBits q.2.2) q.2.1 64).take len
  else (List.range len).map fun j => s.padSeen clsMX k (bits o.a 16 0 + i * o.pitch + j) 1

/-- Element j of a little-endian byte list. -/
def elemOf (bs : List Nat) (size j : Nat) : Nat :=
  (List.range size).foldl (fun acc b => acc + bs.getD (size * j + b) 0 * 256 ^ b) 0

/-- Row i of an MMUL, computed from what the scratchpad held when its group began, is written (R59, R61, R228). -/
def State.mulRow (s now : State) (k : Nat) (o : MxOp) (i : Nat) : State :=
  let r := o.regs
  let co := now.core k
  let bs := now.actRow k o i
  let act (n : Nat) : Fp := r.actVal (elemOf bs r.actSize n)
  let rowScale := if r.actFmt = 0 then some (Fp.decode fp32 (now.padSeen clsMX k (o.scaleOff + 4 * i) 4)) else none
  (List.range r.N).foldl (fun s j =>
    let col := r.col0 + j
    let a := r.accRow i + j * r.accSize
    let acc := now.padSeen clsMX k a r.accSize
    let v := if isWide (clusterOf k) then wideColumn r.K (fun n => Fp.decode r.wFloat (co.weight (r.row0 + n) col)) act acc
      else narrowColumn r.K r.base r.fx r.frac (fun n => co.weight (r.row0 + n) col)
        (fun b => now.padSeen clsMX k (r.scp + 16 * col + (r.row0 / 32 + b)) 1) act rowScale acc
    s.engPad clsMX k a r.accSize v) s

/-- MMUL_GROUP_COMMIT (R228, R235): the next group of at most eight rows is computed and committed. -/
def execMmulGroupCommit (s : State) : Result :=
  match s.agenda with
  | .mmulGroupCommit k :: _ =>
    let s := s.pop
    match (s.core k).mxq with
    | [] => .next s
    | o :: _ =>
      if o.kind ≠ .mmul ∨ !o.started ∨ s.frozenAt k o.lid.toNat then .next s
      else
        let r := o.regs
        let rows := (List.range (Nat.min 8 (r.M - 8 * o.done))).map (· + 8 * o.done)
        let v := r.rowVecs
        let claims := (o.claims.drop (8 * o.done * v)).take (rows.length * v)
        match s.claimsBad k o (s.mxGens k o) claims with
        | some (.trap _ _, a) => .next (s.mxBlocked k o (claimRuns claims) (.trap 3 a))
        | some (x, _) => .next (s.mxBlocked k o (claimRuns claims) x)
        | none =>
          match s.groupPoisoned k o rows claims with
          | some a => .next (s.failMx k o (.access a))
          | none =>
            .next (s.withReads k o (claimRuns claims) fun s =>
              match s.compare k r.col0 r.N o.lid with
              | (some c, s) => s.failMx k o (.cimerr (cimerrTval true o.kind.f7 o.done c))
              | (none, s) =>
                let s := rows.foldl (fun t i => t.mulRow s k o i) s
                if r.M ≤ 8 * (o.done + 1) then s.popMx k
                else s.updCore k fun co =>
                  { co with mxq := updFirst (fun _ => true) (fun o => { o with done := o.done + 1 }) co.mxq })
  | _ => .next s

/-- An accumulator element converted for output (R230); the reserved bits of an FX48 element read 0 (R39). -/
def MxRegs.outElem (r : MxRegs) (v : Nat) : Nat :=
  let dst := if r.outFmt = 1 then fp32 else if r.outFmt = 2 then bf16 else fp16
  if r.outFmt = 0 then (if r.fx then v % 2 ^ 49 else v)
  else if r.fx then rneBits dst (fxValue r.frac v)
  else (fpConvert fp32 dst .rne 0 v).1

/-- DRAIN_ROW (R230): the next row of an MDRAIN reaches the lowest free slot, and is queued for dispatch or departs. -/
def execDrainRow (s : State) : Result :=
  match s.agenda with
  | .drainRow k :: _ =>
    let s := s.pop
    match (s.core k).mxq with
    | [] => .next s
    | o :: _ =>
      if o.kind ≠ .mdrain ∨ !o.started ∨ s.frozenAt k o.lid.toNat then .next s
      else
        let r := o.regs
        let rows := rowsDrained r o.a
        let i := rows.1 + o.done
        match lowest r.slotCount fun n => ((s.core k).slots.find? n).isNone,
            s.padPoisoned k [(r.accRow i, r.N * r.accSize)] with
        | none, _ => .next s
        | some _, some a => .next (s.failMx k o (.access a))
        | some n, none =>
          let s := (List.range r.N).foldl (fun t j =>
            t.engPad clsMX k (r.slotAt n + j * r.outSize) r.outSize
              (r.outElem (s.padSeen clsMX k (r.accRow i + j * r.accSize) r.accSize))) s
          let s := s.cleanPlaces [(.pad k (r.slotAt n), r.outRow)]
          let s := if bit o.a 63 then s.zeroRows k r i (i + 1) else s
          let handled := r.handler != 0
          let t : Slot := { row := i, n := r.N, bytes := r.outRow, off := r.slotAt n, regs := r, ctx := o.ctx, lid := o.lid
                            asid := o.asid, sup := o.sup, coach := o.coach, tile := o.tile, pc := o.pc, ord := o.ord
                            queued := handled, ended := !handled, owned := o.owned }
          let s := s.updCore k fun co => { co with
            slots := co.slots.set n t
            drainQ := if handled then co.drainQ ++ [n] else co.drainQ
            gated := false
            mxq := updFirst (fun _ => true) (fun o => { o with done := o.done + 1 }) co.mxq }
          if rows.2 ≤ i + 1 then .next (s.popMx k) else .next s
  | _ => .next s

/-- DRAIN_DISPATCH (R231): a free context starts the handler of the oldest queued row. -/
def execDrainDispatch (s : State) : Result :=
  match s.agenda with
  | .drainDispatch k c :: _ =>
    let s := s.pop
    match s.nextWork k with
    | some (.drain n) =>
      match (s.core k).slots.find? n with
      | none => .next s
      | some t =>
        match s.startCoach (clusterOf k) t.lid with
        | none => .next s
        | some co =>
          if !s.freeCtx k c then .next s
          else
            let args := [BitVec.ofNat 64 t.row, BitVec.ofNat 64 t.off, BitVec.ofNat 64 t.n]
            let s := s.updCtx k c fun x => { co.taskStart x (BitVec.ofNat 64 t.regs.handler) args
              (bits t.regs.mdrh 62 61) t.tile with drainSlot := some n }
            .next ((s.updCore k fun x =>
              { x with drainQ := x.drainQ.drop 1
                       slots := x.slots.set n { t with queued := false, handler := some c } }).notFresh (clusterOf k) t.lid)
    | _ => .next s
  | _ => .next s

/-- A slot is free again, and what it kept may end (R217, R232, R315). -/
def State.freeSlot (s : State) (k n : Nat) : State :=
  ((s.updCore k fun co => { co with slots := co.slots.erase n }).endBinding k).endCoaches (clusterOf k)

/-- ROW_DEPARTURE (R232): the slot's bytes are written to the row's destination, and the slot becomes free. On an access fault the spec
says neither which of the row's addresses "the destination address" of TVAL is nor what becomes of the slot: the model reports the first
address of the row that fails (log 78), and frees the slot with nothing written (log 79). -/
def execRowDeparture (s : State) : Result :=
  match s.agenda with
  | .rowDeparture k n :: _ =>
    let s := s.pop
    match (s.core k).slots.find? n with
    | none => .next s
    | some t =>
      if !t.ended || s.frozenAt k t.lid.toNat then .next s
      else if t.regs.dstMode = 0 then .next (s.freeSlot k n)
      else
        let mode : AddrMode := if t.regs.dstMode = 1 then .flat else .own
        let base := t.regs.dstRow t.row
        let bad := match s.padPoisoned k [(t.off, t.bytes)] with
          | some a => some (Reach.trap 3 a)
          | none => s.runBad k t.asid t.sup [] mode .write base t.bytes
        match bad with
        | some (.trap _ a) =>
          .next (((s.mxLook k t.asid [(mode, base, t.bytes)]).reportMx k t.ctx t.ord t.lid t.owned (.access a)).freeSlot k n)
        | some (.miss acc va) => .next (s.postMiss k t.asid acc va.toNat)
        | some _ => .next s
        | none =>
          let dst (j : Nat) : Reach := s.mxReach k t.asid t.sup [] mode .write (base + BitVec.ofNat 64 j)
          let pas := memsOf ((List.range t.bytes).map dst)
          .next (if s.tokensHeld (vdnOf k) true pas then
            (((List.range t.bytes).foldl (fun s j =>
              match dst j with
              | .ok p => s.engWrite k clsMX 1 (s.padRead k (t.off + j) 1) p
              | _ => s) (s.mxLook k t.asid [(mode, base, t.bytes)])).cleanPlaces (okPlaces 1 ((List.range t.bytes).map dst))).freeSlot k n
          else s.wantTokens (vdnOf k) true pas (.slot k n))
  | _ => .next s

/-! ### EVMAC and MCHK (R233, R234, R237) -/

/-- The oldest n entries of a channel, and the queue without them (R233). -/
def takeEntries (ch : Nat) : Nat → List Entry → List Entry × List Entry
  | _, [] => ([], [])
  | 0, l => ([], l)
  | n + 1, e :: r =>
    if e.channel.toNat = ch then let p := takeEntries ch n r; (e :: p.1, p.2)
    else let p := takeEntries ch (n + 1) r; (p.1, e :: p.2)

/-- One taken entry on accumulator row 0 (R60, R62, R233, R234). -/
def State.applyEvent (now : State) (k : Nat) (r : MxRegs) (e : Entry) : State :=
  let wide := isWide (clusterOf k)
  let i := e.index.toNat
  if e.perr || (decide (r.K ≤ i) && !wide) then now
  else
    (List.range r.N).foldl (fun s j =>
      let col := r.col0 + j
      let a := r.accRow 0 + j * r.accSize
      let acc := now.padSeen clsMX k a r.accSize
      let w := (now.core k).weight (r.row0 + i) col
      let v := if wide then (if r.K ≤ i then fp32Add acc (.zero false)
          else wideEvent (Fp.decode r.wFloat w) e.sum.toInt r.evExp acc)
        else narrowEvent r.base r.frac w (now.padSeen clsMX k (r.scp + 16 * col + (r.row0 + i) / 32) 1) e.sum.toInt acc
      s.engPad clsMX k a r.accSize v) now

/-- The pass of an EVMAC whose turn has come (R233 to R235). -/
def State.evmacPass (s : State) (r : MxRegs) (ch : Nat) (rd : Reg) (stl : Stall) : State :=
  let k := s.focus
  let (taken, rest) := takeEntries ch (if isWide (clusterOf k) then 8 else 32) s.myCore.queue
  if taken.isEmpty then s.done stl fun c => c.varX rd.toNat 0
  else match s.padPoisoned k ([(r.accOff, r.N * r.accSize)] ++ scalesRead k r) with
  | some a => s.poisonTrap (.pad k a.toNat) a
  | none => match s.compare k r.col0 r.N s.me.lid with
    | (some c, s) => s.trap 9 (cimerrTval false MxKind.evmac.f7 0 c)
    | (none, s) =>
      let s := taken.foldl (fun s e => s.applyEvent k r e) (s.updCore k fun co => { co with queue := rest })
      let count := (taken.map Entry.count).sum
      let perr := taken.any Entry.perr
      (s.done stl fun c => c.varX rd.toNat (BitVec.ofNat 64 ((if perr then 2 ^ 63 else 0) + count % 65536)))

/-- EVMAC (R221, R233): with its registers captured, it waits for a queue place behind what issued before it, and holds the place
while earlier operations run. -/
def execEvmac (rd rs1 : Reg) (stl : Stall) (s : State) : Result :=
  .next (s.onCompute (.evmac rd rs1 stl) fun s =>
    s.issue { reads := [useX rs1], writes := [useX rd] } fun s =>
      let ch := bits (s.me.rx rs1.toNat) 5 0
      let mine (o : MxOp) := o.kind == .evmac && o.owned && o.ctx == s.active
      match s.myCore.mxq.find? mine with
      | some o =>
        if (s.myCore.mxq.head?.map mine).getD false then
          (s.updCore s.focus fun co => { co with mxq := co.mxq.drop 1 }).onMatrix fun s => s.evmacPass o.regs ch rd stl
        else s.wait .engineIdle
      | none => s.onMatrix fun s =>
        if bits (s.myCore.chtab.get ch 0) 50 48 ≠ s.me.coach.getD 8 then s.trap 3 (BitVec.ofNat 64 (0x200 + ch))
        else
          let o := s.mxOp .evmac 0 0
          match s.checkEvmac s.focus o.regs with
          | some n => s.trap 3 (BitVec.ofNat 64 (0x300 + n))
          | none =>
            if s.myCore.mxq.isEmpty then s.evmacPass o.regs ch rd stl
            else (s.enqueueMx o).wait .engineIdle)

/-- The status word of MCHK (R237). -/
def State.mxStatus (s : State) : Word :=
  let co := s.myCore
  let mine := co.bound.isSome && co.boundLid == s.me.lid && s.me.coach.isSome
  BitVec.ofNat 64 ((if mine then 512 else 0) + (if co.bound.isSome then 256 else 0) + 16 * co.slots.length + Nat.min 4 co.mxq.length)

/-- Whether an operation of a context is queued, or, with departed, a row that it drained is in a slot (R237). -/
def Core.mxOwn (co : Core) (c : Nat) (departed : Bool) : Bool :=
  co.mxq.any (fun o => o.owned && o.ctx == c) || (departed && co.slots.any fun p => p.2.owned && p.2.ctx == c)

/-- MCHK (R221, R237): a scrub captures its registers and its turn at once, and its context waits until it has a place. -/
def execMchk (rd rs1 : Reg) (stl : Stall) (s : State) : Result :=
  .next (s.onCompute (.mchk rd rs1 stl) fun s =>
    s.issue { reads := [useX rs1], writes := [useX rd] } fun s =>
      let op := bits (s.me.rx rs1.toNat) 1 0
      let status (s : State) : State := s.done stl fun c => c.varX rd.toNat s.mxStatus
      if op = 0 then status s
      else s.onMatrix fun s =>
        if op = 3 then
          match s.myCore.mxq.findIdx? fun o => o.waits && o.owned && o.ctx == s.active with
          | some n =>
            if 4 ≤ n then s.wait .enginePlace
            else status (s.updCore s.focus fun co => { co with mxq := co.mxq.modify n fun o => { o with waits := false } })
          | none =>
            if s.mxFull then (s.enqueueMx { s.mxOp .scrub 0 0 with waits := true }).wait .enginePlace
            else status (s.enqueueMx (s.mxOp .scrub 0 0))
        else if s.myCore.mxOwn s.active (op == 2) then s.wait (.engineOwn (op == 2))
        else status s)

/-- SPARE_COLUMN_SUBSTITUTION (R240): a spare of the column's bank, of which there are two, replaces a faulty column, or a spare that
has replaced it, while the macro is unbound. Its weights are free until they are loaded. -/
def execSpareColumnSubstitution (s : State) : Result :=
  match s.agenda with
  | .spareColumnSubstitution k col :: _ =>
    let s := s.pop
    let co := s.core k
    let bank := col / (macroCols k / 4)
    let used := ((co.spares.filter fun p => p.1 / (macroCols k / 4) == bank).map Prod.snd).sum
    if co.bound.isSome ∨ macroCols k ≤ col ∨ 2 ≤ used ∨ isSvc k then .next s
    else
      let co := (List.range 512).foldl (fun co row => co.setWeight row col
        ((Config.spareWeight s.free row).toNat % (if isWide (clusterOf k) then 65536 else 16)))
        { co with faultyCols := co.faultyCols.filter (· != col), spares := co.spares.set col (co.spares.get col 0 + 1) }
      .next (s.setCore k co).tick
  | _ => .next s

end Sys2Proof.Machine
end

