-- ==== Sys2Proof/Machine/Vector.lean ====
section
/-!
DEFINITION. The forms that vector instructions share (R142 to R144), and majors VLOAD, VSTORE and VINT (R146 to R152).
-/

namespace Sys2Proof.Machine

/-! ### Shared forms -/

/-- v register n as an operand. -/
def useV (n : Reg) : RegFile × Nat := (.v, n.toNat)
/-- m register n as an operand. -/
def useM (n : MaskReg) : RegFile × Nat := (.m, n.toNat)

/-- What an instruction with destination vd reads besides its sources: its mask, and vd where it may leave an element of
vd as it was (R88). -/
def maskReads (m : MaskReg) (vd : Reg) (keeps : Bool) : List (RegFile × Nat) :=
  (if m = 0 then [] else [useM m]) ++ (if keeps || m != 0 then [useV vd] else [])

/-- The context with more flags set (R48). -/
def Ctx.raise (c : Ctx) (fl : FFlags) : Ctx := { c with fflags := c.fflags ||| fl }

/-- The flags of many elements together (R48). -/
def orFlags {α : Type} (l : List (Flagged α)) : FFlags := l.foldl (fun acc p => acc ||| p.2) 0

/-- The values of an elementwise result; inactive elements are 0 and set no flag. -/
def elemwise (w : Nat) (mask : MWord) (f : Nat → Flagged Nat) : List (Flagged Nat) :=
  (List.range (512 / w)).map fun e => if laneOn w mask e then f e else (0, 0)

/-- vd[e] := f e for each active e, where f sees the context and the source vectors; reads lists the registers read
apart from the mask and vd, srcs the v registers read (R142, R143, R170). -/
def State.vmap (s : State) (i : Instr) (lat w : Nat) (reads : List (RegFile × Nat)) (srcs : List Nat) (vd : Reg)
    (m : MaskReg) (stl : Stall) (f : Ctx → (Nat → VWord) → Nat → Flagged Nat) : State :=
  s.onCompute i fun s =>
    s.issue { reads := reads ++ maskReads m vd false, writes := [useV vd], lat := lat } fun s =>
      s.vec { srcs := srcs, dest := some vd.toNat } noEarly noOwn fun s rv =>
        let mask := s.me.rm m.toNat
        let r := elemwise w mask (f s.me rv)
        (s.putVec vd.toNat lat (BitVec.ofNat 512 (packElems w (r.map Prod.fst))) (enable w (laneOn w mask))).done stl
          fun c => c.raise (orFlags r)

/-- vd[e] := f vs1[e] vs2[e] for each active e. -/
def State.vbin (s : State) (i : Instr) (lat w : Nat) (f : Nat → Nat → Flagged Nat) (vd vs1 vs2 : Reg) (m : MaskReg)
    (stl : Stall) : State :=
  s.vmap i lat w [useV vs1, useV vs2] [vs1.toNat, vs2.toNat] vd m stl fun _ rv e =>
    f (elem w (rv vs1.toNat) e) (elem w (rv vs2.toNat) e)

/-- vd[e] := f vd[e] vs1[e] vs2[e] for each active e. -/
def State.vter (s : State) (i : Instr) (lat w : Nat) (f : Nat → Nat → Nat → Flagged Nat) (vd vs1 vs2 : Reg)
    (m : MaskReg) (stl : Stall) : State :=
  s.vmap i lat w [useV vs1, useV vs2, useV vd] [vs1.toNat, vs2.toNat, vd.toNat] vd m stl fun _ rv e =>
    f (elem w (rv vd.toNat) e) (elem w (rv vs1.toNat) e) (elem w (rv vs2.toNat) e)

/-- vd[e] := f vs1[e] for each active e. -/
def State.vun (s : State) (i : Instr) (lat w : Nat) (f : Nat → Flagged Nat) (vd vs1 : Reg) (m : MaskReg)
    (stl : Stall) : State :=
  s.vmap i lat w [useV vs1] [vs1.toNat] vd m stl fun _ rv e => f (elem w (rv vs1.toNat) e)

/-- The mask register that a compare leaves: the bits of active elements are the condition (R151). -/
def cmpMask (w : Nat) (mask old : MWord) (cond : Nat → Bool) : MWord :=
  BitVec.ofNat 16 (packElems 1 ((List.range 16).map fun b =>
    let e := if w = 64 then b / 2 else b
    (if laneOn w mask e then cond e else old.getLsbD b).toNat))

/-- A compare of vs1 and vs2 into m[md] (R151, R155). -/
def State.vcmp (s : State) (i : Instr) (lat w : Nat) (f : Nat → Nat → Flagged Bool) (md : MaskReg) (vs1 vs2 : Reg)
    (m : MaskReg) (stl : Stall) : State :=
  s.onCompute i fun s =>
    s.issue { reads := [useV vs1, useV vs2] ++ (if m = 0 then [] else [useM m, useM md]), writes := [useM md],
              lat := lat } fun s =>
      s.vec { srcs := [vs1.toNat, vs2.toNat] } noEarly noOwn fun s rv =>
        let mask := s.me.rm m.toNat
        let at' (e : Nat) := f (elem w (rv vs1.toNat) e) (elem w (rv vs2.toNat) e)
        let r := (List.range (512 / w)).map fun e => if laneOn w mask e then at' e else (false, 0)
        s.done stl fun c =>
          (c.writeFixed .m md.toNat lat ((cmpMask w mask (c.rm md.toNat) fun e => (r.getD e (false, 0)).1).setWidth 512)).raise
            (orFlags r)

/-! ### Majors VLOAD and VSTORE (R146 to R149) -/

/-- The active elements of a vector access and their addresses (R147). -/
def vaddrs (w : Nat) (mask : MWord) (a : Word) (step : Nat → Word) : List (Nat × Word) :=
  ((List.range (512 / w)).filter (laneOn w mask)).map fun e => (e, a + step e)

/-- A vector load; srcs are the v registers it reads, step the address of an element less the base (R147, R148). -/
def State.vload (s : State) (i : Instr) (reads : List (RegFile × Nat)) (srcs : List Nat) (w : IntW) (mode : AddrMode)
    (vd rs1 : Reg) (m : MaskReg) (stl : Stall) (step : Ctx → (Nat → VWord) → Nat → Word) : State :=
  s.onCompute i fun s =>
    s.issue { reads := useX rs1 :: reads ++ maskReads m vd false, writes := [useV vd] } fun s =>
      let n := (wBits w) / 8
      let mask := s.me.rm m.toNat
      let addrs (c : Ctx) (rv : Nat → VWord) := vaddrs (wBits w) mask (c.rx rs1.toNat) (step c rv)
      let reach (s : State) (rv : Nat → VWord) := s.reachElems mode .read n (addrs s.me rv)
      let first (s : State) (rv : Nat → VWord) : ReadsDone :=
        match reach s rv with
        | .bad a r => .stop (s.fail mode a r)
        | .ok l => match if l.any fun e => e.2.2.isRemote then s.finishReads else .on s with
          | .stop s => .stop s
          | .on s => match reach s rv with
            | .bad a r => .stop (s.fail mode a r)
            | .ok l => match s.fetchWindows.readElems n 0 l with
              | .stop s => .stop s
              | .vals _ _ => .on s
      s.vec { srcs := srcs, dest := some vd.toNat }
        (fun s => if (s.vecAbsent { srcs := srcs }).isSome then none else match s.readVecs srcs.dedup with
          | .stop s => some s
          | .vals l s => match first s (vecOf l) with
            | .stop s => some s
            | .on _ => none)
        first
        fun s rv => match reach s rv with
          | .bad a r => s.fail mode a r
          | .ok l => match s.fetchWindows.readElems n 0 l with
            | .stop s => s
            | .vals l t =>
              let val (e : Nat) := ((l.find? fun p => p.1 == e).map Prod.snd).getD 0
              (t.putVec vd.toNat 0 (mkVec (wBits w) val) (enable (wBits w) (laneOn (wBits w) mask)) s).done stl id

/-- A vector store of vs3 (R147, R148). -/
def State.vstore (s : State) (i : Instr) (reads : List (RegFile × Nat)) (srcs : List Nat) (w : IntW) (mode : AddrMode)
    (vs3 rs1 : Reg) (m : MaskReg) (stl : Stall) (step : Ctx → (Nat → VWord) → Nat → Word) : State :=
  s.onCompute i fun s =>
    s.issue { reads := useX rs1 :: useV vs3 :: reads ++ (if m = 0 then [] else [useM m]) } fun s =>
      let n := (wBits w) / 8
      let mask := s.me.rm m.toNat
      let reach (s : State) (rv : Nat → VWord) :=
        s.reachElems mode .write n (vaddrs (wBits w) mask (s.me.rx rs1.toNat) (step s.me rv))
      s.vec { srcs := srcs ++ [vs3.toNat] }
        (fun s => if (s.vecAbsent { srcs := srcs }).isSome then none else match s.readVecs srcs.dedup with
          | .stop s => some s
          | .vals l _ => match reach s (vecOf l) with
            | .bad a r => some (s.fail mode a r)
            | .ok _ => none)
        (fun s rv => match reach s rv with
          | .bad a r => .stop (s.fail mode a r)
          | .ok l => match if l.any fun e => e.2.2.isRemote then s.finishReads else .on s with
            | .stop s => .stop s
            | .on s => match reach s rv with
              | .bad a r => .stop (s.fail mode a r)
              | .ok _ => .on s)
        fun s rv => match reach s rv with
          | .bad a r => s.fail mode a r
          | .ok l => (s.fetchWindows.writeElems n (elem (wBits w) (rv vs3.toNat)) l).done stl id

/-- The offset of element e of a unit access (R147). -/
def unitStep (w : IntW) (_ : Ctx) (_ : Nat → VWord) (e : Nat) : Word := BitVec.ofNat 64 (e * (wBits w / 8))
/-- The offset of element e of a strided access (R147). -/
def strideStep (rs2 : Reg) (c : Ctx) (_ : Nat → VWord) (e : Nat) : Word := BitVec.ofNat 64 e * c.rx rs2.toNat
/-- The offset of element e of an indexed access (R147). -/
def indexStep (w : IntW) (vs2 : Reg) (_ : Ctx) (rv : Nat → VWord) (e : Nat) : Word :=
  BitVec.ofNat 64 (elem (wBits w) (rv vs2.toNat) e * (wBits w / 8))

/-- VLD (R146, R147). -/
def execVld (vd rs1 : Reg) (mode : AddrMode) (w : IntW) (m : MaskReg) (stl : Stall) (s : State) : Result :=
  .next (s.vload (.vld vd rs1 mode w m stl) [] [] w mode vd rs1 m stl (unitStep w))

/-- VLDS (R146, R147). -/
def execVlds (vd rs1 rs2 : Reg) (mode : AddrMode) (w : IntW) (m : MaskReg) (stl : Stall) (s : State) : Result :=
  .next (s.vload (.vlds vd rs1 rs2 mode w m stl) [useX rs2] [] w mode vd rs1 m stl (strideStep rs2))

/-- VLDX (R146, R147). -/
def execVldx (vd rs1 vs2 : Reg) (mode : AddrMode) (w : IntW) (m : MaskReg) (stl : Stall) (s : State) : Result :=
  .next (s.vload (.vldx vd rs1 vs2 mode w m stl) [useV vs2] [vs2.toNat] w mode vd rs1 m stl (indexStep w vs2))

/-- VST (R146, R147). -/
def execVst (vs3 rs1 : Reg) (mode : AddrMode) (w : IntW) (m : MaskReg) (stl : Stall) (s : State) : Result :=
  .next (s.vstore (.vst vs3 rs1 mode w m stl) [] [] w mode vs3 rs1 m stl (unitStep w))

/-- VSTS (R146, R147). -/
def execVsts (vs3 rs1 rs2 : Reg) (mode : AddrMode) (w : IntW) (m : MaskReg) (stl : Stall) (s : State) : Result :=
  .next (s.vstore (.vsts vs3 rs1 rs2 mode w m stl) [useX rs2] [] w mode vs3 rs1 m stl (strideStep rs2))

/-- VSTX (R146, R147). -/
def execVstx (vs3 rs1 vs2 : Reg) (mode : AddrMode) (w : IntW) (m : MaskReg) (stl : Stall) (s : State) : Result :=
  .next (s.vstore (.vstx vs3 rs1 vs2 mode w m stl) [useV vs2] [vs2.toNat] w mode vs3 rs1 m stl (indexStep w vs2))

/-! ### Major VINT (R150 to R152) -/

/-- An integer operation: its result sets no flag (R150). -/
def pure2 (f : Nat → Nat → Nat) (a b : Nat) : Flagged Nat := (f a b, 0)

/-- VADD (R150). -/
def execVadd (vd vs1 vs2 : Reg) (w : IntW) (m : MaskReg) (stl : Stall) (s : State) : Result :=
  .next (s.vbin (.vadd vd vs1 vs2 w m stl) 2 (wBits w) (pure2 fun a b => a + b) vd vs1 vs2 m stl)

/-- VSUB (R150). -/
def execVsub (vd vs1 vs2 : Reg) (w : IntW) (m : MaskReg) (stl : Stall) (s : State) : Result :=
  .next (s.vbin (.vsub vd vs1 vs2 w m stl) 2 (wBits w) (pure2 fun a b => a + 2 ^ (wBits w) - b) vd vs1 vs2 m stl)

/-- VMUL (R150). -/
def execVmul (vd vs1 vs2 : Reg) (w : IntW) (m : MaskReg) (stl : Stall) (s : State) : Result :=
  .next (s.vbin (.vmul vd vs1 vs2 w m stl) 2 (wBits w) (pure2 fun a b => a * b) vd vs1 vs2 m stl)

/-- VMULH (R150). -/
def execVmulh (vd vs1 vs2 : Reg) (w : IntW) (m : MaskReg) (stl : Stall) (s : State) : Result :=
  .next (s.vbin (.vmulh vd vs1 vs2 w m stl) 2 (wBits w) (pure2 fun a b => ofSigned (2 * (wBits w)) (toSigned (wBits w) a * toSigned (wBits w) b) / 2 ^ (wBits w)) vd vs1 vs2 m stl)

/-- VMULHU (R150). -/
def execVmulhu (vd vs1 vs2 : Reg) (w : IntW) (m : MaskReg) (stl : Stall) (s : State) : Result :=
  .next (s.vbin (.vmulhu vd vs1 vs2 w m stl) 2 (wBits w) (pure2 fun a b => a * b / 2 ^ (wBits w)) vd vs1 vs2 m stl)

/-- VMIN (R150). -/
def execVmin (vd vs1 vs2 : Reg) (w : IntW) (m : MaskReg) (stl : Stall) (s : State) : Result :=
  .next (s.vbin (.vmin vd vs1 vs2 w m stl) 2 (wBits w) (pure2 fun a b => if toSigned (wBits w) a ≤ toSigned (wBits w) b then a else b) vd vs1 vs2 m stl)

/-- VMAX (R150). -/
def execVmax (vd vs1 vs2 : Reg) (w : IntW) (m : MaskReg) (stl : Stall) (s : State) : Result :=
  .next (s.vbin (.vmax vd vs1 vs2 w m stl) 2 (wBits w) (pure2 fun a b => if toSigned (wBits w) a ≤ toSigned (wBits w) b then b else a) vd vs1 vs2 m stl)

/-- VMINU (R150). -/
def execVminu (vd vs1 vs2 : Reg) (w : IntW) (m : MaskReg) (stl : Stall) (s : State) : Result :=
  .next (s.vbin (.vminu vd vs1 vs2 w m stl) 2 (wBits w) (pure2 fun a b => if a ≤ b then a else b) vd vs1 vs2 m stl)

/-- VMAXU (R150). -/
def execVmaxu (vd vs1 vs2 : Reg) (w : IntW) (m : MaskReg) (stl : Stall) (s : State) : Result :=
  .next (s.vbin (.vmaxu vd vs1 vs2 w m stl) 2 (wBits w) (pure2 fun a b => if a ≤ b then b else a) vd vs1 vs2 m stl)

/-- VAND (R150). -/
def execVand (vd vs1 vs2 : Reg) (w : IntW) (m : MaskReg) (stl : Stall) (s : State) : Result :=
  .next (s.vbin (.vand vd vs1 vs2 w m stl) 2 (wBits w) (pure2 fun a b => a &&& b) vd vs1 vs2 m stl)

/-- VOR (R150). -/
def execVor (vd vs1 vs2 : Reg) (w : IntW) (m : MaskReg) (stl : Stall) (s : State) : Result :=
  .next (s.vbin (.vor vd vs1 vs2 w m stl) 2 (wBits w) (pure2 fun a b => a ||| b) vd vs1 vs2 m stl)

/-- VXOR (R150). -/
def execVxor (vd vs1 vs2 : Reg) (w : IntW) (m : MaskReg) (stl : Stall) (s : State) : Result :=
  .next (s.vbin (.vxor vd vs1 vs2 w m stl) 2 (wBits w) (pure2 fun a b => a ^^^ b) vd vs1 vs2 m stl)

/-- VSLL (R150). -/
def execVsll (vd vs1 vs2 : Reg) (w : IntW) (m : MaskReg) (stl : Stall) (s : State) : Result :=
  .next (s.vbin (.vsll vd vs1 vs2 w m stl) 2 (wBits w) (pure2 fun a b => a * 2 ^ (b % (wBits w))) vd vs1 vs2 m stl)

/-- VSRL (R150). -/
def execVsrl (vd vs1 vs2 : Reg) (w : IntW) (m : MaskReg) (stl : Stall) (s : State) : Result :=
  .next (s.vbin (.vsrl vd vs1 vs2 w m stl) 2 (wBits w) (pure2 fun a b => a / 2 ^ (b % (wBits w))) vd vs1 vs2 m stl)

/-- VSRA (R150). -/
def execVsra (vd vs1 vs2 : Reg) (w : IntW) (m : MaskReg) (stl : Stall) (s : State) : Result :=
  .next (s.vbin (.vsra vd vs1 vs2 w m stl) 2 (wBits w) (pure2 fun a b => ofSigned (wBits w) (toSigned (wBits w) a / (2 ^ (b % (wBits w)) : Nat))) vd vs1 vs2 m stl)

/-- VADD.S (R150). -/
def execVaddS (vd vs1 vs2 : Reg) (w : IntW) (m : MaskReg) (stl : Stall) (s : State) : Result :=
  .next (s.vbin (.vaddS vd vs1 vs2 w m stl) 2 (wBits w) (pure2 fun a b => ofSigned (wBits w) (satSigned (wBits w) (toSigned (wBits w) a + toSigned (wBits w) b))) vd vs1 vs2 m stl)

/-- VSUB.S (R150). -/
def execVsubS (vd vs1 vs2 : Reg) (w : IntW) (m : MaskReg) (stl : Stall) (s : State) : Result :=
  .next (s.vbin (.vsubS vd vs1 vs2 w m stl) 2 (wBits w) (pure2 fun a b => ofSigned (wBits w) (satSigned (wBits w) (toSigned (wBits w) a - toSigned (wBits w) b))) vd vs1 vs2 m stl)

/-- VADDU.S (R150). -/
def execVadduS (vd vs1 vs2 : Reg) (w : IntW) (m : MaskReg) (stl : Stall) (s : State) : Result :=
  .next (s.vbin (.vadduS vd vs1 vs2 w m stl) 2 (wBits w) (pure2 fun a b => if a + b < 2 ^ (wBits w) then a + b else 2 ^ (wBits w) - 1) vd vs1 vs2 m stl)

/-- VSUBU.S (R150). -/
def execVsubuS (vd vs1 vs2 : Reg) (w : IntW) (m : MaskReg) (stl : Stall) (s : State) : Result :=
  .next (s.vbin (.vsubuS vd vs1 vs2 w m stl) 2 (wBits w) (pure2 fun a b => a - b) vd vs1 vs2 m stl)

/-- VMACC (R150). -/
def execVmacc (vd vs1 vs2 : Reg) (w : IntW) (m : MaskReg) (stl : Stall) (s : State) : Result :=
  .next (s.vter (.vmacc vd vs1 vs2 w m stl) 2 (wBits w) (fun d a b => (d + a * b, 0)) vd vs1 vs2 m stl)

/-- VSEL: the mask selects, and every element is written (R152). -/
def execVsel (vd vs1 vs2 : Reg) (w : IntW) (m : MaskReg) (stl : Stall) (s : State) : Result :=
  .next (s.vmap (.vsel vd vs1 vs2 w m stl) 2 (wBits w) ([useV vs1, useV vs2] ++ (if m = 0 then [] else [useM m]))
    [vs1.toNat, vs2.toNat] vd 0 stl fun c rv e =>
      (elem (wBits w) (rv (if laneOn (wBits w) (c.rm m.toNat) e then vs1.toNat else vs2.toNat)) e, 0))

/-- VBCAST (R152). -/
def execVbcast (vd rs1 : Reg) (w : IntW) (m : MaskReg) (stl : Stall) (s : State) : Result :=
  .next (s.vmap (.vbcast vd rs1 w m stl) 2 (wBits w) [useX rs1] [] vd m stl fun c _ _ => ((c.rx rs1.toNat).toNat, 0))

/-- VCMPEQ (R151). -/
def execVcmpeq (md : MaskReg) (vs1 vs2 : Reg) (w : IntW) (m : MaskReg) (stl : Stall) (s : State) : Result :=
  .next (s.vcmp (.vcmpeq md vs1 vs2 w m stl) 2 (wBits w) (fun a b => (a == b, 0)) md vs1 vs2 m stl)

/-- VCMPNE (R151). -/
def execVcmpne (md : MaskReg) (vs1 vs2 : Reg) (w : IntW) (m : MaskReg) (stl : Stall) (s : State) : Result :=
  .next (s.vcmp (.vcmpne md vs1 vs2 w m stl) 2 (wBits w) (fun a b => (a != b, 0)) md vs1 vs2 m stl)

/-- VCMPLT (R151). -/
def execVcmplt (md : MaskReg) (vs1 vs2 : Reg) (w : IntW) (m : MaskReg) (stl : Stall) (s : State) : Result :=
  .next (s.vcmp (.vcmplt md vs1 vs2 w m stl) 2 (wBits w) (fun a b => (decide (toSigned (wBits w) a < toSigned (wBits w) b), 0)) md vs1 vs2 m stl)

/-- VCMPLE (R151). -/
def execVcmple (md : MaskReg) (vs1 vs2 : Reg) (w : IntW) (m : MaskReg) (stl : Stall) (s : State) : Result :=
  .next (s.vcmp (.vcmple md vs1 vs2 w m stl) 2 (wBits w) (fun a b => (decide (toSigned (wBits w) a ≤ toSigned (wBits w) b), 0)) md vs1 vs2 m stl)

/-- VCMPLTU (R151). -/
def execVcmpltu (md : MaskReg) (vs1 vs2 : Reg) (w : IntW) (m : MaskReg) (stl : Stall) (s : State) : Result :=
  .next (s.vcmp (.vcmpltu md vs1 vs2 w m stl) 2 (wBits w) (fun a b => (decide (a < b), 0)) md vs1 vs2 m stl)

/-- VCMPLEU (R151). -/
def execVcmpleu (md : MaskReg) (vs1 vs2 : Reg) (w : IntW) (m : MaskReg) (stl : Stall) (s : State) : Result :=
  .next (s.vcmp (.vcmpleu md vs1 vs2 w m stl) 2 (wBits w) (fun a b => (decide (a ≤ b), 0)) md vs1 vs2 m stl)

end Sys2Proof.Machine
end

