-- ==== Sys2Proof/Machine/Events.lean ====
section
/-!
DEFINITION. Events (R174 to R200): packets and their injection, major EVENT, the receiver queue, dispatch, the repartition
step, and the gating of a core's clocks (R194).
-/

namespace Sys2Proof.Machine

/-! ### Packets (R175 to R177) -/

/-- One byte of the CRC-16 of R175. -/
def crcByte (c b : Nat) : Nat :=
  (List.range 8).foldl (fun c _ => if 2 ^ 15 ≤ c then (2 * c) % 2 ^ 16 ^^^ 0x1021 else 2 * c) (c ^^^ (b * 256))

/-- The CRC-16 of bytes 0 to 13 of a flit, in ascending order (R175). -/
def flitCrc (p : BitVec 128) : Nat := (List.range 14).foldl (fun c i => crcByte c (flitField p (8 * i + 7) (8 * i))) 0xFFFF

/-- Whether a flit carries its CRC. -/
def flitOk (p : BitVec 128) : Bool := flitField p 127 112 == flitCrc p

/-- A flit made of its fields, with its CRC (R175). -/
def mkFlit (ctx : Nat) (mcast : Bool) (seq srcKey srcPkg delta index channel dstKey dstPkg : Nat) : BitVec 128 :=
  let body := dstPkg + dstKey / 256 * 2 ^ 7 + dstKey % 256 * 2 ^ 12 + channel * 2 ^ 20 + index * 2 ^ 26 + delta * 2 ^ 42
    + srcPkg * 2 ^ 50 + srcKey / 256 * 2 ^ 57 + srcKey % 256 * 2 ^ 62 + seq * 2 ^ 70 + (if mcast then 2 ^ 78 else 0)
    + ctx * 2 ^ 79
  BitVec.ofNat 128 (body + flitCrc (BitVec.ofNat 128 body) * 2 ^ 112)

/-- Channel of a payload word (R196). -/
def payCh (w : Word) : Nat := bits w 29 24
/-- Delta of a payload word, as 8 bits (R196). -/
def payDelta (w : Word) : Nat := bits w 23 16
/-- Index of a payload word (R196). -/
def payIndex (w : Word) : Nat := bits w 15 0

/-- The issuing context's core injects one packet to a checked target, with the next Seq of its triple (R176). -/
def State.inject (s : State) (target : Word) (ch index delta : Nat) (mcast : Bool) : State :=
  s.updCore s.focus fun co =>
    let key := 64 * bits target 22 3 + ch
    let seq := co.seqs.get key 0
    let p := mkFlit s.active mcast seq.toNat s.focus s.pkg delta index ch (targetCore target) (targetPkg target)
    { co with outFlits := co.outFlits ++ [p], seqs := co.seqs.put 0 key (seq + 1) }

/-- Flits that the injection buffer of a core still takes (R177). -/
def Core.flitsFree (co : Core) : Nat := 32 - co.outFlits.length

/-- Whether a request of context c for n flits is granted now (R177). -/
def Core.grants (co : Core) (c n : Nat) : Bool :=
  (co.sendQ.isEmpty || co.sendQ.head? == some c) && decide (n ≤ co.flitsFree)

/-- The issuing context's send request is no longer waiting. -/
def State.leaveSendQ (s : State) : State :=
  s.updCore s.focus fun co => { co with sendQ := co.sendQ.filter (· != s.active) }

/-- Runs send with n flits granted, or waits in the order of the requests (R177). -/
def State.withFlits (s : State) (n : Nat) (send : State → State) : State :=
  if n = 0 ∨ s.myCore.grants s.active n then send s.leaveSendQ
  else
    (s.updCore s.focus fun co =>
      { co with sendQ := if co.sendQ.contains s.active then co.sendQ else co.sendQ ++ [s.active] }).wait (.flits n)

/-- The issuing context traps instead of sending. -/
def State.sendTrap (s : State) (code : Nat) (tval : Word) : State := s.leaveSendQ.trap code tval

/-! ### EVSEND, EVSENDNB, EVMC, EVPOP (R196 to R198) -/

/-- EVSEND (R196). -/
def execEvsend (rs1 rs2 : Reg) (stl : Stall) (s : State) : Result :=
  .next (s.onCompute (.evsend rs1 rs2 stl) fun s =>
    s.issue { reads := [useX rs1, useX rs2] } fun s =>
      let t := s.me.rx rs1.toNat
      let w := s.me.rx rs2.toNat
      if !s.targetOk t then s.sendTrap 3 t
      else s.withFlits 1 fun s => (s.inject t (payCh w) (payIndex w) (payDelta w) false).done stl id)

/-- EVSENDNB (R196): it never waits, and never overtakes a waiting request. -/
def execEvsendnb (rd rs1 rs2 : Reg) (stl : Stall) (s : State) : Result :=
  .next (s.onCompute (.evsendnb rd rs1 rs2 stl) fun s =>
    s.issue { reads := [useX rs1, useX rs2], writes := [useX rd] } fun s =>
      let t := s.me.rx rs1.toNat
      let w := s.me.rx rs2.toNat
      if !s.targetOk t then s.trap 3 t
      else if s.myCore.grants s.active 1 then
        (s.inject t (payCh w) (payIndex w) (payDelta w) false).done stl fun c => c.varX rd.toNat 0
      else s.done stl fun c => c.varX rd.toNat 1)

/-- The target words of a list of n entries from LOCAL offset a, each checked (R197), or the stop that the first failure
is. An entry holds a target word in bits [22:3] and its other bits are ignored: the model reports those bits in TVAL, and SDQ
does the same with its table's (log 72). -/
def State.targetList (s : State) (a : Word) : List Nat → Sum State (List Word)
  | [] => .inr []
  | j :: r =>
    let b := a + BitVec.ofNat 64 (4 * j)
    match s.reach .own .read b 4 with
    | .ok p =>
      match s.readPlace b 4 0 p with
      | .stop s => .inl s
      | .val v s =>
        let t := BitVec.ofNat 64 (v % 2 ^ 23 / 8 * 8)
        if !s.targetOk t then .inl (s.trap 3 t)
        else match State.targetList s a r with
          | .inl s => .inl s
          | .inr l => .inr (t :: l)
    | x => .inl (s.fail .own b x)

/-- EVMC (R197): its list is read after the stream reads of those locations that have issued (R113, R172). With n = 0 a misaligned list
still traps, in the order of the rule's steps (log 72). -/
def execEvmc (rs1 rs2 : Reg) (stl : Stall) (s : State) : Result :=
  .next (s.onCompute (.evmc rs1 rs2 stl) fun s =>
    s.issue { reads := [useX rs1, useX rs2] } fun s =>
      let a := s.me.rx rs1.toNat
      let w := s.me.rx rs2.toNat
      let n := bits w 37 32
      if 32 < n then s.leaveSendQ.illegal (.evmc rs1 rs2 stl)
      else if a.toNat % 4 ≠ 0 then s.sendTrap 2 a
      else
        let s := s.fetchWindows
        match s.targetList a (List.range n) with
        | .inl s => s.leaveSendQ
        | .inr l =>
          s.withFlits n fun s =>
            (l.foldl (fun s t => s.inject t (payCh w) (payIndex w) (payDelta w) true) s).done stl id)

/-- Bits [63:0] of an entry (R183). -/
def Entry.low (e : Entry) : Nat :=
  e.seq.toNat * 2 ^ 48 + e.count % 256 * 2 ^ 40 + e.channel.toNat * 2 ^ 32 + e.sum.toNat * 2 ^ 16 + e.index.toNat

/-- The oldest entry of a channel, and the queue without it. -/
def Core.takeEntry (co : Core) (ch : Nat) : Option (Entry × Core) :=
  (takeFirst (fun e : Entry => e.channel.toNat == ch) co.queue).map fun p => (p.1, { co with queue := p.2 })

/-- EVPOP (R198). -/
def execEvpop (rd : Pair) (rs1 : Reg) (stl : Stall) (s : State) : Result :=
  .next (s.onCompute (.evpop rd rs1 stl) fun s =>
    s.issue { reads := [useX rs1], writes := [(.x, pairReg rd), (.x, pairReg rd + 1)] } fun s =>
      let ch := bits (s.me.rx rs1.toNat) 5 0
      let put (s : State) (lo hi : Word) : State :=
        s.done stl fun c => (c.varX (pairReg rd) lo).varX (pairReg rd + 1) hi
      if some (bits (s.myCore.chtab.get ch 0) 50 48) ≠ s.me.coach then s.trap 3 (BitVec.ofNat 64 (0x200 + ch))
      else match s.myCore.takeEntry ch with
        | none => put s (BitVec.allOnes 64) 0
        | some (e, co) =>
          put (s.setCore s.focus co) (BitVec.ofNat 64 (e.low + (if e.perr then 2 ^ 56 else 0))) (e.src.setWidth 64))

/-! ### SDQ (R199, R200) -/

/-- Base of SDOUT (R199). -/
def sdBase (w : Word) : Nat := bits w 63 48
/-- Channel of SDOUT. -/
def sdChannel (w : Word) : Nat := bits w 47 42
/-- Thresh of SDOUT. -/
def sdThresh (w : Word) : Nat := bits w 41 35
/-- Group of SDOUT. -/
def sdGroup (w : Word) : Nat := bits w 34 31
/-- TabOff of SDOUT. -/
def sdTab (w : Word) : Nat := bits w 16 0

/-- A lane that emits: its number, the delta, the new last-sent value, the target word and the destination index. -/
structure SdLane where
  lane : Nat
  delta : Int
  sent : Int
  target : Word
  index : Nat
  deriving DecidableEq, Repr

/-- A read of n bytes of LOCAL scratchpad by the issuing context, or the stop that it meets. -/
def State.localRead (s : State) (a : Word) (n : Nat) : Sum State (Nat × State) :=
  match s.reach .own .read a n with
  | .ok p => match s.readPlace a n 0 p with
    | .stop s => .inl s
    | .val v s => .inr (v, s)
  | x => .inl (s.fail .own a x)

/-- Phase 1 of SDQ over active lanes: the lanes that emit, or the stop that the first failure is (R200). -/
def State.sdLanes (s : State) (u : VWord) (a : Word) : List Nat → Sum State (List SdLane)
  | [] => .inr []
  | j :: r =>
    let sd := s.me.sdout
    match s.localRead (a + BitVec.ofNat 64 (4 * j)) 4 with
    | .inl s => .inl s
    | .inr (l, s) =>
      let o := (sdBase sd + j) % 2 ^ 16
      match s.localRead (BitVec.ofNat 64 (sdTab sd + 8 * (o / 2 ^ sdGroup sd))) 8 with
      | .inl s => .inl s
      | .inr (t, s) =>
        let T := BitVec.ofNat 64 t
        let sent := toSigned 32 l
        let e := toSigned 32 (elem 32 u j) - sent
        let target := T &&& 0x7FFFF8#64
        if e.natAbs < sdThresh sd ∨ !bit T 63 then State.sdLanes s u a r
        else if !s.targetOk target then .inl (s.trap 3 target)
        else match State.sdLanes s u a r with
          | .inl s => .inl s
          | .inr rest =>
            let d : Int := if e < -127 then -127 else if 127 < e then 127 else e
            .inr ({ lane := j, delta := d, sent := sent + d, target := target
                    index := (bits T 47 32 + o % 2 ^ sdGroup sd) % 2 ^ 16 } :: rest)

/-- Phase 2 of SDQ for one lane (R200). -/
def State.sdSend (s : State) (a : Word) (l : SdLane) : State :=
  let b := a + BitVec.ofNat 64 (4 * l.lane)
  let s := match s.reach .own .write b 4 with
    | .ok p => (s.writePlace b 4 (ofSigned 32 l.sent) p).getD s
    | _ => s
  s.inject l.target (sdChannel s.me.sdout) l.index (ofSigned 8 l.delta) false

/-- The first fault of the reads of SDQ that need no element of u, while u's page is absent: a target's check needs u (R170, R200;
log 72). -/
def State.sdEarly (s : State) (a : Word) (lanes : List Nat) : Option State :=
  lanes.findSome? fun j =>
    let o := (sdBase s.me.sdout + j) % 2 ^ 16
    match s.localRead (a + BitVec.ofNat 64 (4 * j)) 4 with
    | .inl s => some s
    | .inr _ => match s.localRead (BitVec.ofNat 64 (sdTab s.me.sdout + 8 * (o / 2 ^ sdGroup s.me.sdout))) 8 with
      | .inl s => some s
      | .inr _ => none

/-- SDQ (R200): it reads and writes its scratchpad after the stream reads of those locations that have issued (R113, R172). -/
def execSdq (rd vs rs1 : Reg) (m : MaskReg) (stl : Stall) (s : State) : Result :=
  .next (s.onCompute (.sdq rd vs rs1 m stl) fun s =>
    s.issue { reads := [useV vs, useX rs1] ++ (if m = 0 then [] else [useM m]), writes := [useX rd] } fun s =>
      let a := s.me.rx rs1.toNat
      let tab := sdTab s.me.sdout
      let active := (List.range 16).filter (laneOn 32 (s.me.rm m.toNat))
      let lanes (s : State) (rv : Nat → VWord) := s.sdLanes (rv vs.toNat) a active
      let bad (s : State) : Option State :=
        if sdThresh s.me.sdout = 0 then some (s.leaveSendQ.illegal (.sdq rd vs rs1 m stl))
        else if a.toNat % 64 ≠ 0 then some (s.sendTrap 2 a)
        else if tab % 8 ≠ 0 then some (s.sendTrap 2 (BitVec.ofNat 64 tab))
        else none
      s.vec { srcs := [vs.toNat] } (fun s => (bad s).or ((s.sdEarly a active).map State.leaveSendQ))
        (fun s rv => match bad s with
          | some s => .stop s
          | none => match lanes s.fetchWindows rv with
            | .inl s => .stop s.leaveSendQ
            | .inr l =>
              if l.isEmpty || s.myCore.grants s.active l.length then .on s.fetchWindows
              else .stop (s.withFlits l.length id))
        fun s rv =>
          match lanes s rv with
          | .inl s => s
          | .inr l =>
            (l.foldl (fun s e => s.sdSend a e) s.leaveSendQ).done stl fun c =>
              c.varX rd.toNat (BitVec.ofNat 64 ((l.map fun e => 2 ^ e.lane).sum)))

/-! ### The receiver queue (R183 to R187, R192) -/

/-- The source of a flit in target-word layout (R183). -/
def flitSrcWord (p : BitVec 128) : Nat := targetWord (flitField p 56 50) (flitFrom p)

/-- The entry that a packet merges into, by its place in the queue: the youngest of its channel with its index, when nothing
of its source is younger and nothing overflows (R185). -/
def mergeAt (q : List Entry) (p : BitVec 128) : Option Nat :=
  let ch := flitField p 25 20
  let src := flitSrcWord p
  let hits := q.zipIdx.filter fun e => e.1.channel.toNat == ch && e.1.index.toNat == flitField p 41 26
  hits.getLast?.bind fun e =>
    let younger := (q.drop (e.2 + 1)).any fun y => y.channel.toNat == ch && y.srcs.contains src
    let sum := e.1.sum.toInt + toSigned 8 (flitField p 49 42)
    if younger || decide (sum < -32768) || decide (32767 < sum) || decide (255 ≤ e.1.count) then none else some e.2

/-- A packet merged into an entry. -/
def Entry.merge (e : Entry) (p : BitVec 128) : Entry :=
  let src := flitSrcWord p
  { e with sum := e.sum + (BitVec.ofNat 8 (flitField p 49 42)).signExtend 16, count := e.count + 1
           srcs := if e.srcs.contains src then e.srcs else e.srcs ++ [src] }

/-- The entry that a packet makes. -/
def entryOf (p : BitVec 128) : Entry :=
  { index := BitVec.ofNat 16 (flitField p 41 26), sum := (BitVec.ofNat 8 (flitField p 49 42)).signExtend 16
    channel := BitVec.ofNat 6 (flitField p 25 20), count := 1, seq := BitVec.ofNat 8 (flitField p 77 70)
    src := BitVec.ofNat 23 (flitSrcWord p), srcs := [flitSrcWord p] }

/-- A core with a packet placed in its queue; none when it is not accepted (R185). -/
def Core.place (co : Core) (p : BitVec 128) : Option Core :=
  let ch := flitField p 25 20
  match mergeAt co.queue p with
  | some i => some { co with queue := co.queue.modify i fun e => e.merge p }
  | none =>
    if (co.queue.filter fun e => e.channel.toNat == ch).length < 4 * chPart (co.chtab.get ch 0) then
      some { co with queue := co.queue ++ [entryOf p] }
    else none

/-- Core k takes a packet: one for a disabled channel is logged and discarded; none when it is not accepted (R185, R186). -/
def State.takePacket (s : State) (k : Nat) (p : BitVec 128) : Option State :=
  let ch := flitField p 25 20
  let co := s.core k
  if !chEn (co.chtab.get ch 0) then
    some (s.logCore k 3 0 (BitVec.ofNat 64 (flitSrcWord p)) (BitVec.ofNat 64 (ch * 2 ^ 16 + flitField p 41 26)))
  else (co.place p).map fun co => (s.setCore k { co with gated := false }).noteReady (clusterOf k)

/-- Whether two flits have one sending and one receiving core. -/
def samePath (p q : BitVec 128) : Bool := flitField p 19 0 == flitField q 19 0 && flitField p 69 50 == flitField q 69 50

/-- Whether a packet is the oldest of a list for its path. -/
def firstOf (l : List (BitVec 128)) (p : BitVec 128) : Bool := (l.find? fun q => samePath p q) == some p

/-- EVENT_ARRIVAL (R185, R186, R190, R192): a packet leaves the injection buffer of its sender, or another package, and reaches
the router of core k, in order on its path. One that is not accepted is held there, and so is every later one behind it, from
any source; the first of them is tried again. A packet for another package leaves this one, and is on its way until it is
accepted there (R191). -/
def execEventArrival (s : State) : Result :=
  match s.agenda with
  | .eventArrival k p :: _ =>
    let s := s.pop
    let own := flitField p 56 50 == s.pkg
    let src := flitFrom p
    let leave (s : State) : State :=
      if own then s.updCore src fun co => { co with outFlits := co.outFlits.erase p } else s
    let sent := if own then firstOf (s.core src).outFlits p else flitOk p && s.domain.contains (flitField p 56 50)
    if flitField p 6 0 ≠ s.pkg then
      .next (if firstOf s.flitsOut p then { s with flitsOut := s.flitsOut.erase p }
        else if own && sent then { leave s with flitsOut := s.flitsOut ++ [p] } else s)
    else if k ≠ flitTo p ∨ !s.hasCompute k then .next s
    else
      let held := (s.core k).heldFlits
      if held.head? = some p then
        match s.takePacket k p with
        | none => .next s
        | some s => .next (s.updCore k fun co => { co with heldFlits := co.heldFlits.drop 1 })
      else if !sent then .next s
      else match if held.isEmpty then (leave s).takePacket k p else none with
        | none => .next ((leave s).updCore k fun co => { co with heldFlits := co.heldFlits ++ [p] })
        | some s => .next s
  | _ => .next s

/-- FLIT_HOP_RESEND (R175, R370): a flit that fails its CRC at a hop is sent again: nothing is lost or duplicated, and the
error is counted. -/
def execFlitHopResend (s : State) : Result :=
  match s.agenda with
  | .flitHopResend p :: _ =>
    let s := s.pop
    .next (if flitOk p then s else { s with flitErrors := s.flitErrors + 1 })
  | _ => .next s

/-- EVENT_PARITY_ERROR (R187): entry i of core k's queue has PErr from now on, logged once. -/
def execEventParityError (s : State) : Result :=
  match s.agenda with
  | .eventParityError k i :: _ =>
    let s := s.pop
    let co := s.core k
    match co.queue[i]? with
    | none => .next s
    | some e =>
      if e.perr then .next s
      else
        let lid := (((s.cluster (clusterOf k)).coachIn (bits (co.chtab.get e.channel.toNat 0) 50 48)).map Coach.lid).getD 0
        .next ((s.setCore k { co with queue := co.queue.modify i fun e => { e with perr := true } }).logCore k 4 lid
          (e.src.setWidth 64) (BitVec.ofNat 64 (e.channel.toNat * 2 ^ 16 + e.index.toNat)))
  | _ => .next s

/-! ### Dispatch (R188, R189) -/

/-- The arguments of a handler (R188). -/
def Entry.args (e : Entry) : List Word :=
  [e.index.setWidth 64, e.sum.signExtend 64, (e.src.setWidth 64) &&& 0x7FFFF8#64,
   BitVec.ofNat 64 (e.seq.toNat * 2 ^ 24 + (if e.perr then 2 ^ 16 else 0) + e.count % 256 * 2 ^ 8 + e.channel.toNat)]

/-- EVENT_DISPATCH (R188): a free context starts the handler of a channel's oldest entry. -/
def execEventDispatch (s : State) : Result :=
  match s.agenda with
  | .eventDispatch k ch c :: _ =>
    let s := s.pop
    let w := (s.core k).chtab.get ch 0
    if s.nextWork k ≠ some (.event ch) ∨ !s.freeCtx k c then .next s
    else match (s.core k).takeEntry ch, (s.cluster (clusterOf k)).coachIn (bits w 50 48) with
      | some (e, core), some co =>
        .next (((s.setCore k core).updCtx k c fun x =>
          { co.taskStart x (w &&& 0x0000FFFFFFFFFFFC#64) e.args (bits w 62 61) co.tile with handlerOf := some ch }).notFresh
            (clusterOf k) co.lid)
      | _, _ => .next s
  | _ => .next s

/-! ### Repartition (R181) -/

/-- A core's channel table with entries written; entry v of channel ch is a pair (R181). -/
def Core.repartition (co : Core) (entries : List (Nat × Word)) : Core :=
  { co with chtab := entries.foldl (fun t e => t.put 0 (e.1 % 64) (e.2 &&& ~~~(3 : Word))) co.chtab }

/-- Whether the distributor may write a core's entries: no enabled channel without a partition, at most 256 units in all, and
every channel that holds entries keeps its owner and room for them (R179 to R181). -/
def Core.mayRepartition (co : Core) (entries : List (Nat × Word)) : Bool :=
  let co' := co.repartition entries
  decide (partSum co'.chtab ≤ 256) && co'.chtab.all (fun p => !chEn p.2 || chPart p.2 != 0) &&
  co.queue.all fun e =>
    let ch := e.channel.toNat
    let v := co'.chtab.get ch 0
    chEn v && bits v 50 48 == bits (co.chtab.get ch 0) 50 48
      && decide ((co.queue.filter fun f => f.channel.toNat == ch).length ≤ 4 * chPart v)

/-- REPARTITION (R181): packets are held, entries move with their partitions, the table is written and the packets go on: one
step, in which the order and the contents of the queue stay. A coach's admission and its end take the step themselves; here it ends with
what the last of them writes of a channel, before firmware writes it (log 87). -/
def execRepartition (s : State) : Result :=
  match s.agenda with
  | .repartition k entries :: _ =>
    let s := s.pop
    let entries := entries.map fun e => (e.1, if chEn e.2 then e.2 else 0)
    if s.hasCompute k && entries.all (s.core k).due.contains && (s.core k).mayRepartition entries then
      .next (s.updCore k fun co => { co.repartition entries with due := co.due.filter fun d => !entries.contains d })
    else .next s
  | _ => .next s

/-! ### Sleep (R194) -/

/-- Whether a context of core k waits for the next vector of a read stream that holds none, of this package or of another (R194). -/
def State.awaitsStream (s : State) (k : Nat) (c : Ctx) : Bool :=
  c.streams.any fun p =>
    let t := p.2
    !t.isWrite && (t.fetched.find? t.cursor).isNone && t.mode == .flat &&
      match c.run with
      | .waiting (.tlb .read va) => va == t.here
      | .waiting .remote => c.fetching.isNone && decide (t.here.toNat ≤ c.askedVa) && decide (c.askedVa < t.here.toNat + 64)
      | .waiting (.line _ n false) => memsOf [s.reachFor k c.asid c.sup .flat .read t.here] == [128 * n + t.here.toNat % 128]
      | _ => false

/-- Whether a context lets its core gate its clocks (R194). -/
def Ctx.sleeps (c : Ctx) : Bool :=
  match c.run with
  | .idle => true
  | .parked _ _ => true
  | .waiting (.event _) => true
  | .waiting (.barrier _ _) => true
  | .waiting (.tagAny _) => true
  | .waiting (.tagAll _) => true
  | .waiting (.counter _ _) => true
  | _ => false

/-- CLOCK_GATE (R194): no architectural state changes. -/
def execClockGate (s : State) : Result :=
  match s.agenda with
  | .clockGate k :: _ =>
    let s := s.pop
    if !isSvc k && (s.core k).ctxs.all fun p => p.2.sleeps || s.awaitsStream k p.2 then .next (s.updCore k fun co => { co with gated := true })
    else .next s
  | _ => .next s

end Sys2Proof.Machine
end

