-- ==== Sys2Proof/Machine/System.lean ====
section
/-!
DEFINITION. The system functions (R121 to R129), the fetch of an instruction (R101, R109) and what a word that is no
instruction raises (R76), and the notice wait of a service core (R332).
-/

namespace Sys2Proof.Machine

/-! ### Fetching (R101, R109, R335, R350) -/

/-- What a fetch finds. -/
inductive Fetched where
  | word (w : BitVec 32)
  | poisoned (pa : Nat)
  | denied | absent | miss
  | line (n : Nat)
  deriving DecidableEq, Repr

/-- The fetch of the issuing context at its pc. -/
def State.fetch (s : State) : Fetched :=
  let c := s.me
  match s.translate s.focus c.asid c.sup .fetch c.pc with
  | .mem pa =>
    if s.lineBlocked (vdnOf s.focus) (lineOf pa) false (some (s.focus, s.active)) then .line (lineOf pa)
    else if poisonedAt s.poison pa 4 then .poisoned pa else .word (BitVec.ofNat 32 (s.memRead pa 4))
  | .absent => .absent
  | .miss => .miss
  | _ => .denied

/-- The address that TVAL names for a denied fetch: the branch or jump that led to it, or the fetch address (R109). -/
def Ctx.fetchTval (c : Ctx) : Word := c.branch.getD c.pc

/-- FETCH_FAULT (R109): a fetch that is denied traps, one from an absent page parks, one that misses or lacks a token waits. -/
def execFetchFault (s : State) : Result :=
  match s.agenda with
  | .fetchFault :: _ =>
    let s := s.pop
    if s.me.run ≠ .ready then .next s
    else match s.fetch with
      | .word _ => .next s
      | .denied => .next ((s.looked .flat s.me.pc).trap 3 s.me.fetchTval)
      | .poisoned pa => .next (s.poisonTrap (.mem pa) s.me.pc)
      | .absent => .next (s.fail .flat s.me.pc (.absent s.me.pc))
      | .miss => .next (s.fail .flat s.me.pc (.miss .fetch s.me.pc))
      | .line n => .next (s.fail .flat s.me.pc (.line (vdnOf s.focus) n false))
  | _ => .next s

/-- Whether a word's major is one that a service core lacks (R19, R75). -/
def svcLacks (w : BitVec 32) : Bool :=
  let m := (w.extractLsb' 2 5).toNat
  inRange m 0x0E 0x1B && m != 0x17

/-- ILLEGAL_INSTRUCTION (R76): a word that is no instruction on the issuing core traps, with TVAL the word. -/
def execIllegalInstruction (s : State) : Result :=
  match s.agenda with
  | .illegalInstruction w :: _ =>
    let s := s.pop
    if s.me.run = .ready ∧ ((decode w).isNone ∨ (isSvc s.focus ∧ svcLacks w)) then .next (s.trap 1 (w.setWidth 64))
    else .next s
  | _ => .next s

/-! ### ECALL, EBREAK, WFE, FENCE.I, PRIO -/

/-- ECALL (R122). -/
def execEcall (_stl : Stall) (s : State) : Result := .next (s.trap 11 0)

/-- EBREAK (R122). -/
def execEbreak (_stl : Stall) (s : State) : Result := .next (s.trap 12 0)

/-- The lowest channel of a mask that has an undispatched entry in a core's queue (R123). -/
def Core.eventOf (co : Core) (mask : Word) : Option Nat :=
  lowest 64 fun ch => bit mask ch && co.queue.any fun e => e.channel.toNat == ch

/-- Whether a lower context of a core waits for a notice: contexts take them in ascending order (R332). -/
def State.noticeBelow (s : State) (k c : Nat) : Bool := (List.range c).any fun b => (s.ctx k b).run == .waiting .notice

/-- The oldest notice of a service core goes to rd, or the context waits for one (R332). -/
def State.takeNotice (s : State) (rd : Reg) (stl : Stall) : State :=
  s.issue { writes := [useX rd] } fun s =>
    match s.myCluster.notices with
    | [] => s.wait .notice
    | n :: rest =>
      if s.noticeBelow s.focus s.active then s.wait .notice
      else (s.updCluster (clusterOf s.focus) fun cl => { cl with notices := rest }).done stl fun c => c.varX rd.toNat n

/-- WFE (R123): the lowest masked channel with an entry, all ones for a pre-emption request, or a wait. A service core waits
for a notice (R332). -/
def execWfe (rd rs1 : Reg) (stl : Stall) (s : State) : Result :=
  .next (if isSvc s.focus then s.takeNotice rd stl
    else s.issue { reads := [useX rs1], writes := [useX rd] } fun s =>
      let mask := s.me.rx rs1.toNat
      match s.myCore.eventOf mask with
      | some ch => s.done stl fun c => c.varX rd.toNat (BitVec.ofNat 64 ch)
      | none =>
        if s.me.preq then s.done stl fun c => c.varX rd.toNat (BitVec.allOnes 64) else s.wait (.event mask))

/-- WFE_NOTICE (R332): WFE's word on a service core. -/
def execWfeNotice (s : State) : Result :=
  match s.agenda with
  | .wfeNotice rd _ stl :: _ =>
    let s := s.pop
    .next (if isSvc s.focus && s.me.run == .ready then s.takeNotice rd stl else s)
  | _ => .next s

/-- FENCE.I (R124): every earlier data access is performed at its issue (log 6), so every later fetch observes it. -/
def execFenceI (stl : Stall) (s : State) : Result := .next (s.done stl id)

/-- PRIO (R129). -/
def execPrio (rs1 : Reg) (stl : Stall) (s : State) : Result :=
  .next (s.issue { reads := [useX rs1] } fun s =>
    s.done stl fun c => { c with cls := BitVec.ofNat 2 (Nat.min (c.rx rs1.toNat).toNat c.cap.toNat) })

/-! ### TLBW and TLBINV (R125, R126, R346 to R351) -/

/-- Size of a tag word: true for a 1 KiB sub-page (R125). -/
def tagSub (w : Word) : Bool := bit w 9

/-- Whether a tag word is well formed (R125). -/
def tagWordOk (w : Word) : Bool := bits w 50 48 == 0 && bits w 5 0 == 0 && (tagSub w || bits w 20 10 == 0)

/-- Whether a page-table entry is well formed for a package (R346, R347). -/
def pteOk (pkg : Nat) (sub : Bool) (e : Word) : Bool :=
  let kind := bits e 63 62
  let far := bits e 61 55
  if kind = 3 then bits e 61 0 == 0
  else
    bits e 9 5 == 0 && (kind == 2 || far == 0) && (kind == 1 || bits e 54 52 == 0) && (kind == 0 || bits e 51 10 == 0) &&
    (if kind = 0 then sub || bits e 20 10 == 0
     else if kind = 1 then !bit e 4 && !bit e 2 && !bit e 1
     else !bit e 4 && !bit e 1 && far != pkg)

/-- The entry that a tag word and a page-table entry make. -/
def tlbEntry (tag pte : Word) : TlbEntry :=
  { asid := BitVec.ofNat 13 (bits tag 63 51), vpn := BitVec.ofNat 38 (bits tag 47 10), sub := tagSub tag, pte := pte }

/-- Whether an entry covers part of the range of a miss (R350). -/
def TlbEntry.covers (e : TlbEntry) (m : Miss) : Bool :=
  m.asid == e.asid && m.sub == e.sub && m.vpn.toNat == e.vpn.toNat / 2

/-- Whether two entries have one tag. -/
def TlbEntry.sameTag (e f : TlbEntry) : Bool := e.asid == f.asid && e.vpn == f.vpn && e.sub == f.sub

/-- What an entry that comes to the cluster of core co says of the page that a context is parked on: whether it is present (R342, R350). -/
def Ctx.pageSeen (y : Ctx) (co : Core) (e : TlbEntry) : Ctx :=
  match y.run with
  | .parked va _ =>
    let sub := co.inRegion va.toNat
    if e.asid == y.asid && e.sub == sub && e.vpn == vpnOf va.toNat sub then
      { y with pageBack := !(bits e.pte 63 62 == 0 && bit e.pte 4) }
    else y
  | _ => y

/-- An entry that comes to a cluster says of the pages that contexts are parked on, on its cores and in its saved coaches, whether they are
present, and the coaches' Ready follows (R342, R350). -/
def State.pagesBack (s : State) (cl : Nat) (e : TlbEntry) : State :=
  let s := (coresOf cl).foldl (fun s k => s.updCore k fun co => { co with ctxs := co.ctxs.mapVal fun _ y => y.pageSeen co e }) s
  (s.updCluster cl fun x => { x with coaches := x.coaches.map fun co =>
    { co with saved := { co.saved with ctxs := co.saved.ctxs.mapVal fun n y => y.pageSeen (s.core (coreOf cl (n / 8))) e } } }).noteReady cl

/-- An entry is written into the TLBs of a cluster: the other cores lose their entry of its tag, and the misses that it
covers are answered (R125, R350). -/
def State.installEntry (s : State) (cl : Nat) (tag : Word) (e : TlbEntry) : State :=
  let fill : Option Nat := if bit tag 8 then some (bits tag 7 6) else none
  let s := s.updCluster cl fun x =>
    { x with tlb := tlbInsert 1024 (Config.tlbVictim s.free) x.tlb e, misses := x.misses.filter fun m => !e.covers m }
  let s := s.tick
  let s := (List.range 4).foldl (fun s j => s.updCore (coreOf cl j) fun co =>
    { co with tlb := if fill = some j then tlbInsert 32 (Config.tlbVictim s.free) co.tlb e
                     else co.tlb.filter fun f => !f.sameTag e }) s
  s.tick.pagesBack cl e

/-- Runs an instruction that Sup and a bit of STATUS grant (R119, R121). -/
def State.granted (s : State) (bitNo : Nat) (i : Instr) (run : State → State) : State :=
  if s.me.sup && s.me.status.getLsbD bitNo then run s else s.privilege i

/-- TLBW (R125, R347). -/
def execTlbw (rs1 rs2 : Reg) (stl : Stall) (s : State) : Result :=
  .next (s.granted 1 (.tlbw rs1 rs2 stl) fun s =>
    s.issue { reads := [useX rs1, useX rs2] } fun s =>
      let tag := s.me.rx rs1.toNat
      let pte := s.me.rx rs2.toNat
      if tagWordOk tag && pteOk s.pkg (tagSub tag) pte then
        (s.installEntry (clusterOf s.focus) tag (tlbEntry tag pte)).done stl id
      else s.illegal (.tlbw rs1 rs2 stl))

/-- Whether TLBINV removes an entry (R126): the tag word's reserved bits are not looked at (log 15). -/
def TlbEntry.goes (f : TlbEntry) (tag : Word) (extent : Nat) : Bool :=
  let e := tlbEntry tag 0
  if extent = 0 then
    f.asid == e.asid && f.sub == e.sub &&
      (if e.sub then f.vpn == e.vpn else f.vpn.toNat / 2048 == e.vpn.toNat / 2048)
  else if extent = 1 then f.asid == e.asid
  else true

/-- Whether a TLBINV covers the translation of an address in a cluster (R126). -/
def State.invalidates (s : State) (k : Nat) (tag : Word) (extent : Nat) (asid : BitVec 13) (va : Nat) : Bool :=
  let sub := (s.core k).inRegion va
  TlbEntry.goes ⟨asid, vpnOf va sub, sub, 0⟩ tag extent

/-- Whether an access of a cluster that used an entry which a TLBINV removes is still under way: a load or store at another
package, also of a task that has ended (R126, R277). Every other access of the model is over when its step is (log 6). -/
def State.usesRemoved (s : State) (cl : Nat) (tag : Word) (extent : Nat) : Bool :=
  (svcOf cl :: coresOf cl).any fun k =>
    (s.core k).orphans.any (fun o => s.invalidates k tag extent o.2.asid o.2.va) || (s.core k).ctxs.any fun p =>
      (p.2.remoteAsked && s.invalidates k tag extent p.2.asid p.2.askedVa)
        || p.2.stores.any fun r => s.invalidates k tag extent r.asid r.va

/-- TLBINV (R126): the entries go at its first issue, and it completes when every access that used one has. -/
def execTlbinv (rs1 rs2 : Reg) (stl : Stall) (s : State) : Result :=
  .next (s.granted 1 (.tlbinv rs1 rs2 stl) fun s =>
    s.issue { reads := [useX rs1, useX rs2] } fun s =>
      let tag := s.me.rx rs1.toNat
      let extent := (s.me.rx rs2.toNat).toNat
      if 2 < extent then s.illegal (.tlbinv rs1 rs2 stl)
      else
        let keep (l : List TlbEntry) : List TlbEntry := l.filter fun f => !f.goes tag extent
        let cl := clusterOf s.focus
        let s := s.updCluster cl fun x => { x with tlb := keep x.tlb }
        let s := (coresOf cl).foldl (fun s k => s.updCore k fun co => { co with tlb := keep co.tlb }) s
        if s.usesRemoved cl tag extent then s.wait (.inval tag extent) else s.done stl id)

/-! ### RESUME and KILL (R127, R128) -/

/-- Runs RESUME or KILL on its target; act answers none when the target is not frozen by a trap (R127, R128). -/
def State.onTrapped (s : State) (i : Instr) (rd rs1 : Reg) (stl : Stall)
    (act : State → Nat → Nat → WinTarget → State) : State :=
  let w := s.me.rx rs1.toNat
  let k := bits w 15 3
  let c := bits w 2 0
  let answer (s : State) (n : Nat) : State := s.done stl fun x => x.varX rd.toNat (BitVec.ofNat 64 n)
  if !(isSvc s.focus && s.me.sup && s.me.status.getLsbD 2) then s.privilege i
  else if s.mapped (vdnOf k) && s.buddyOf k != clusterOf s.focus then s.privilege i
  else s.issue { reads := [useX rs1], writes := [useX rd] } fun s =>
    if !s.mapped (vdnOf k) then answer s 1
    else match s.trappedAt k c with
      | none => answer s 1
      | some t => if s.isFrozen k t.ctx then answer s 1 else answer (act s k c t) 0

/-- Whether a target is on its core, and the save of its coach has begun there. -/
def WinTarget.leaving (t : WinTarget) (s : State) (k : Nat) : Bool :=
  match t with
  | .live x _ => s.beingSaved k x
  | .saved _ _ _ _ => false

/-- RESUME (R127): where the save of its coach has begun, the context continues after its readmission (R339). -/
def execResume (rd rs1 : Reg) (stl : Stall) (s : State) : Result :=
  .next (s.onTrapped (.resume rd rs1 stl) rd rs1 stl fun s k c t => s.updTarget k c t fun x =>
    if t.leaving s k then { x.resumed with run := .stopped } else x.resumed)

/-- The task of context c of core k is killed: what it has not started is discarded, and it ends as by EXIT (R127). -/
def State.killTask (s : State) (k c : Nat) : State := ((s.discardQueued k c).killCard k c).endTask k c

/-- KILL (R127): a task of a saved coach ends when its coach is readmitted. -/
def execKill (rd rs1 : Reg) (stl : Stall) (s : State) : Result :=
  .next (s.onTrapped (.kill rd rs1 stl) rd rs1 stl fun s k c t =>
    match t with
    | .live _ _ => s.killTask k c
    | .saved _ _ _ _ => s.updTarget k c t fun x => { x with run := .killed })

end Sys2Proof.Machine
end

