-- ==== Sys2Proof/Machine/Faults.lean ====
section
/-!
DEFINITION. Notices (R331, R350), the restart of a service context (R333), the end of a park (R335, R336), FREEZE and its
release (R344, R375), and the scan path.
-/

namespace Sys2Proof.Machine

/-- TRAP_NOTICE (R331): the oldest notice on its way enters the queue of a service core, when one of its 64 places is free. -/
def execTrapNotice (s : State) : Result :=
  match s.agenda with
  | .trapNotice cl :: _ =>
    let s := s.pop
    .next (s.updCluster cl fun x =>
      match x.noticesInFlight with
      | [] => x
      | n :: rest => if x.notices.length < 64 then { x with notices := x.notices ++ [n], noticesInFlight := rest } else x)
  | _ => .next s

/-- SERVICE_CONTEXT_RESTART (R333, R375): the board controller restarts a halted service context, at a pc that it names. -/
def execServiceContextRestart (s : State) : Result :=
  match s.agenda with
  | .serviceContextRestart k c pc :: _ =>
    let s := s.pop
    if isSvc k && s.hasCtx k c && (s.ctx k c).run == .halted then
      .next (s.updCtx k c fun x => { x with run := .ready, pc := pc &&& ~~~(3 : Word) })
    else .next s
  | _ => .next s

/-- TLB_MISS_NOTICE (R350): the miss that a waiting context waits for takes a miss-table entry and sends its notice, or joins
an entry; with a full table it goes on waiting. -/
def execTlbMissNotice (s : State) : Result :=
  match s.agenda with
  | .tlbMissNotice k c :: _ =>
    let s := s.pop
    let x := s.ctx k c
    match x.run with
    | .waiting (.tlb acc va) =>
      if s.translate k x.asid x.sup acc va = .miss then .next (s.postMiss k x.asid acc va.toNat) else .next s
    | _ => .next s
  | _ => .next s

/-- Whether the coach of a task on a core is resident: it is neither being saved nor saved (R335, R339, R343). -/
def State.coachHere (s : State) (k : Nat) (x : Ctx) : Bool :=
  match x.coach with
  | none => true
  | some n => ((s.cluster (clusterOf k)).coachIn n).isSome && !s.beingSaved k x

/-- PARK_RESUME (R335, R336): with the page present and the coach resident, the task re-executes its instruction; its halted
requests resume after that. One whose page no TLB holds any more looks it up again: a task that parked at an access does so
by executing its instruction, which then waits; one that parked for a halted request stays parked while that request's miss
is posted (R350). -/
def execParkResume (s : State) : Result :=
  match s.agenda with
  | .parkResume k c :: _ =>
    let s := s.pop
    let x := s.ctx k c
    match x.run with
    | .parked va _ =>
      if !s.coachHere k x || s.isFrozen k x then .next s
      else match s.pagePresent k x.asid va with
        | some false => .next s
        | found =>
          let goOn := (s.setCtx k c { x with run := .ready, resumeHalted := some false }).updCore k fun co => { co with gated := false }
          match (s.core k).reqs.find? fun r => r.owned && r.ctx == c && r.state == .halted va with
          | some r => .next (if found.isSome then goOn else s.seekHalted k r va)
          | none => .next goOn
    | _ => .next s
  | _ => .next s

/-! ### FREEZE (R344, R375) -/

/-- FREEZE (R375): a command names a Lid and a tick. -/
def execFreeze (s : State) : Result :=
  match s.agenda with
  | .freeze lid tick :: _ => .next { s.pop with freezes := s.freezes ++ [(lid, tick)] }
  | _ => .next s

/-- Whether a command for a Lid is due. -/
def dueAt (l : List (Nat × Nat)) (lid ptc : Nat) : Bool := l.any fun p => p.1 == lid && decide (p.2 ≤ ptc)

/-- The contexts of a launch with f applied. -/
def State.mapTasks (s : State) (lid : Nat) (f : Ctx → Ctx) : State :=
  { s with cores := s.cores.mapVal fun _ co =>
      { co with ctxs := co.ctxs.mapVal fun _ x => if x.coach.isSome && x.lid.toNat == lid then f x else x } }

/-- FREEZE_AT_TICK (R344, R86): at its tick every unit of the job stops. -/
def execFreezeAtTick (s : State) : Result :=
  match s.agenda with
  | .freezeAtTick lid :: _ =>
    let s := s.pop
    if !dueAt s.freezes lid s.ptc then .next s
    else
      .next ({ s with freezes := s.freezes.filter fun p => p.1 != lid || decide (s.ptc < p.2)
                      frozenLids := if s.frozenLids.contains lid then s.frozenLids else s.frozenLids ++ [lid] }.mapTasks lid
        Ctx.flush)
  | _ => .next s

/-- RELEASE (R375): a release command; one for a Lid that is not frozen is ignored. -/
def execRelease (s : State) : Result :=
  match s.agenda with
  | .release lid tick :: _ =>
    let s := s.pop
    if s.jobFrozen lid then .next { s with releases := s.releases ++ [(lid, tick)] } else .next s
  | _ => .next s

/-- RELEASE_AT_TICK (R344): at its tick every unit of the job goes on from its boundary, a FREEZE that is due having taken effect. -/
def execReleaseAtTick (s : State) : Result :=
  match s.agenda with
  | .releaseAtTick lid :: _ =>
    let s := s.pop
    if !dueAt s.releases lid s.ptc || dueAt s.freezes lid s.ptc then .next s
    else .next { s with releases := s.releases.filter fun p => p.1 != lid || decide (s.ptc < p.2)
                        frozenLids := s.frozenLids.filter (· != lid) }
  | _ => .next s

/-! ### The scan path (R344, R375) -/

/-- The entry in a place of a core's event queue. R179 says where a channel's partition begins, and not which place of it an entry takes: in
the model its entries fill it from its start, oldest first (log 82). -/
def Core.entryAt (co : Core) (place : Nat) : Option Entry :=
  (List.range 64).findSome? fun ch =>
    let w := co.chtab.get ch 0
    let start := partStart co.chtab ch
    if chEn w && decide (start ≤ place) && decide (place < start + 4 * chPart w)
    then (co.queue.filter fun e => e.channel.toNat == ch)[place - start]? else none

/-- What the scan path reads of a context and of its core; the forms of a progress point and of an entry are the model's (log 4). -/
def State.scanned (s : State) (k c : Nat) : ScanItem → VWord
  | .x n => ((s.ctx k c).rx (n % 32)).setWidth 512
  | .v n => (s.ctx k c).rv (n % 32)
  | .m n => ((s.ctx k c).rm (n % 8)).setWidth 512
  | .pc => (s.ctx k c).pc.setWidth 512
  | .csr a => (s.csrRead k c a).setWidth 512
  | .log _ _ => 0
  | .scratch off => BitVec.ofNat 512 (s.padRead k (off % 131072) 64)
  | .request num => BitVec.ofNat 512 (((s.req k num).map Req.progress).getD 0)
  | .operation i => BitVec.ofNat 512 ((((s.core k).mxq[i]?).map MxOp.done).getD 0)
  | .entry place => BitVec.ofNat 512 ((((s.core k).entryAt place).map fun e => e.low + e.src.toNat * 2 ^ 64).getD 0)

/-- SCAN_READ (R344, R375): the board controller reads frozen state, or an error log; nothing else changes. -/
def execScanRead (s : State) : Result :=
  match s.agenda with
  | .scanRead _ _ (.log die i) :: _ =>
    let s := s.pop
    .next (match (s.logs.get die {}).entries[i]? with
      | none => s
      | some e => { s with hostOut := s.hostOut ++ [.log e] })
  | .scanRead k c item :: _ =>
    let s := s.pop
    if s.hasCtx k c && s.isFrozen k (s.ctx k c) then .next { s with hostOut := s.hostOut ++ [.scan (s.scanned k c item)] }
    else .next s
  | _ => .next s

end Sys2Proof.Machine
end

