-- ==== Sys2Proof/Machine/Sync.lean ====
section
/-!
DEFINITION. Barriers (R210 to R215): the instructions of major SYNC with f3 = 0.
-/

namespace Sys2Proof.Machine

/-- Barrier b of the issuing context's cluster. -/
def State.bar (s : State) (b : Nat) : Barrier := s.myCluster.bars.get b {}

/-- The slot of the issuing context (R211). The spec gives the contexts of a service core none: the model lets them share those of
core 0's contexts 0 and 1 (log 73). -/
def State.mySlot (s : State) : Nat := slotOf s.focus s.active

/-- The barrier that a register names: bits [3:0] (R210). -/
def Ctx.barNo (c : Ctx) (rs1 : Reg) : Nat := bits (c.rx rs1.toNat) 3 0

/-- Whether the issuing task may not use a barrier: another launch owns it (R213). -/
def State.foreignBar (s : State) (b : Nat) : Bool := (s.bar b).members != 0 && (s.bar b).owner != s.me.lid

/-- The issuing context arrives at a barrier, which may complete it (R211, R213). -/
def State.arrive (s : State) (b : Nat) : State :=
  let x := s.bar b
  s.putBars (clusterOf s.focus)
    (s.myCluster.bars.set b { x with arrived := x.arrived ||| (1 <<< s.mySlot : BitVec 32) }.settle)

/-- BARINIT (R212). -/
def execBarinit (rd rs1 rs2 : Reg) (stl : Stall) (s : State) : Result :=
  .next (s.issue { reads := [useX rs1, useX rs2], writes := [useX rd] } fun s =>
    let b := s.me.barNo rs1
    let x := s.bar b
    let answer (s : State) (n : Word) : State := s.done stl fun c => c.varX rd.toNat n
    if s.foreignBar b || x.arrived != 0 then answer s 2
    else
      let x' : Barrier := { members := (s.me.rx rs2.toNat).setWidth 32, arrived := 0, phase := x.phase, owner := s.me.lid }
      answer (s.updCluster (clusterOf s.focus) fun cl => { cl with bars := cl.bars.set b x' }) 0)

/-- BARARV (R213, R215): its arrival follows every stream read that has issued (R172, R287). -/
def execBararv (rd rs1 : Reg) (stl : Stall) (s : State) : Result :=
  .next (s.issue { reads := [useX rs1], writes := [useX rd] } fun s =>
    let b := s.me.barNo rs1
    let x := s.bar b
    if s.foreignBar b || !x.members.getLsbD s.mySlot then s.trap 3 (BitVec.ofNat 64 b)
    else s.after true fun s => (s.arrive b).done stl fun c => c.varX rd.toNat (if x.phase then 1 else 0))

/-- BARWAIT (R213): a free barrier, and one that has completed since the wait began, let it go on. -/
def execBarwait (rs1 rs2 : Reg) (stl : Stall) (s : State) : Result :=
  .next (s.issue { reads := [useX rs1, useX rs2] } fun s =>
    let b := s.me.barNo rs1
    let x := s.bar b
    let p := bit (s.me.rx rs2.toNat) 0
    if s.me.released || x.members == 0 then s.done stl id
    else if s.foreignBar b then s.trap 3 (BitVec.ofNat 64 b)
    else if x.phase != p then s.done stl id
    else s.wait (.barrier b p))

/-- BARSYNC (R213, R215): after every stream read that has issued (R172, R287) it arrives once, and waits for the phase that it arrived
in to complete. -/
def execBarsync (rs1 : Reg) (stl : Stall) (s : State) : Result :=
  .next (s.issue { reads := [useX rs1] } fun s =>
    let b := s.me.barNo rs1
    if s.me.released then s.done stl id
    else match s.me.arrivedAt with
      | some (b', p) =>
        if (s.bar b').phase != p || (s.bar b').members == 0 then s.done stl id else s.wait (.barrier b' p)
      | none =>
        let x := s.bar b
        if s.foreignBar b || !x.members.getLsbD s.mySlot then s.trap 3 (BitVec.ofNat 64 b)
        else s.after true fun s =>
          let s := s.arrive b
          if (s.bar b).phase != x.phase then s.done stl id
          else s.setMe { s.me with run := .waiting (.barrier b x.phase), arrivedAt := some (b, x.phase) })

end Sys2Proof.Machine
end

