-- ==== Sys2Proof/Machine/Coach.lean ====
section
/-!
DEFINITION. Coaches: pre-emption (R343), admission (R316), the swap test (R338), the save path and the save area (R339 to
R341), and readmission (R342).
-/

namespace Sys2Proof.Machine

/-! ### The tasks of a coach -/

/-- The tasks of a coach that is not saved: core, context number, context. -/
def State.tasksOf (s : State) (cl : Nat) (c : Coach) : List (Nat × Nat × Ctx) :=
  (coresOf cl).flatMap fun k =>
    ((s.core k).ctxs.filter fun p => p.2.coach == some c.slot && p.2.run != .idle).map fun p => (k, p.1, p.2)

/-- The coach of a launch on a cluster, changed by f. -/
def State.updCoach (s : State) (cl : Nat) (lid : BitVec 16) (f : Coach → Coach) : State :=
  s.updCluster cl fun x => { x with coaches := x.coaches.map fun c => if c.lid == lid then f c else c }

/-- Every task of a coach changed by f, its core woken. -/
def State.updTasks (s : State) (cl : Nat) (c : Coach) (f : Nat → Ctx → Ctx) : State :=
  (coresOf cl).foldl (fun s k => s.updCore k fun co =>
    { co with ctxs := co.ctxs.mapVal fun _ x => if x.coach == some c.slot && x.run != .idle then f k x else x
              gated := false }) s

/-- Whether a context is parked. -/
def Ctx.isParked (x : Ctx) : Bool :=
  match x.run with
  | .parked _ _ => true
  | _ => false

/-! ### Pre-emption (R343) -/

/-- PREQ is raised on a resident coach: Req is 1 in every task, and each PREDL count starts. -/
def State.raisePreq (s : State) (cl : Nat) (lid : BitVec 16) : State :=
  match (s.cluster cl).coachOf lid with
  | none => s
  | some c =>
    if c.state ≠ .resident then s
    else
      (s.updTasks cl c fun k x =>
        { x with preq := true, predlEnd := some (s.cycles.get (vdnOf k) 0 + x.predl.toNat) }).updCoach cl lid fun c =>
          { c with state := .preempted }

/-- PREQ is withdrawn before the save begins: Req returns to 0, and yielded tasks go on in place. -/
def State.withdrawPreq (s : State) (cl : Nat) (lid : BitVec 16) : State :=
  match (s.cluster cl).coachOf lid with
  | none => s
  | some c =>
    if c.state ≠ .preempted ∨ s.saveBegun cl c then s
    else
      (s.updTasks cl c fun _ x =>
        { x with preq := false, predlEnd := none
                 run := if x.run = .yielded ∨ x.run = .stopped then .ready else x.run }).updCoach cl lid fun c =>
          { c with state := .resident }

/-- PREDL_EXPIRY (R343): a task that still issues when its PREDL has elapsed stops for a forced save; not one that FREEZE has stopped
(R344). -/
def execPredlExpiry (s : State) : Result :=
  match s.agenda with
  | .predlExpiry k c :: _ =>
    let s := s.pop
    let x := s.ctx k c
    let due := (x.predlEnd.map fun d => decide (d ≤ s.cycles.get (vdnOf k) 0)).getD false
    let asked := ((x.coach.bind (s.cluster (clusterOf k)).coachIn).map fun c => c.state == .preempted).getD false
    if x.preq && due && asked && x.run == .ready && x.remoteVals.isEmpty && !s.isFrozen k x then
      .next (s.setCtx k c { x.flush with run := .stopped })
    else .next s
  | _ => .next s

/-! ### Admission (R316) -/

/-- Whether a launch's coaches may run now: it is no gang with slices, or its slice has started (R321; log 31). -/
def State.inSlice (s : State) (lid : BitVec 16) : Bool :=
  match (s.launches.find? lid.toNat).bind Launch.gang with
  | some g => g.sliceLen == 0 || s.slices.any fun p => p.1 == lid.toNat
  | none => true

/-- The context numbers of the saved contexts of core j of a coach. -/
def Coach.numbers (c : Coach) (j : Nat) : List Nat := (c.saved.ctxs.filter fun p => p.1 / 8 == j).map fun p => p.1 % 8

/-- The context numbers of core j of a cluster that are free, those of gone's coach counted as left. -/
def State.freeNumbers (s : State) (cl j : Nat) (gone : Option (BitVec 16)) : List Nat :=
  (List.range 8).filter fun n =>
    let x := s.ctx (coreOf cl j) n
    x.run == .idle ||
      (match gone, x.coach.bind (s.cluster cl).coachIn with
       | some g, some d => d.lid == g
       | _, _ => false)

/-- Where the contexts of a core return, by their numbers when saved: each to its own number where that is free, else to the lowest
one that is left (R340; log 50). -/
def seats (own free : List Nat) : List (Nat × Nat) :=
  let kept := own.filter free.contains
  kept.map (fun n => (n, n)) ++ (own.filter fun n => !free.contains n).zip (free.filter fun n => !kept.contains n)

/-- The seats of a saved coach on core j of a cluster. -/
def State.seatsOf (s : State) (cl : Nat) (c : Coach) (gone : Option (BitVec 16)) (j : Nat) : List (Nat × Nat) :=
  seats (c.numbers j) (s.freeNumbers cl j gone)

/-- Whether every context of a saved coach finds a place on the cores of a cluster: its own, when the coach is place-bound (R340). -/
def State.seated (s : State) (cl : Nat) (c : Coach) (gone : Option (BitVec 16)) : Bool :=
  (List.range 4).all fun j =>
    (s.seatsOf cl c gone j).length == (c.numbers j).length
      && (!c.saved.placeBound || (s.seatsOf cl c gone j).all fun p => p.1 == p.2)

/-- Whether the command FIFOs of a cluster's cores have places for the halted requests of a saved coach, gone's counted as left (R241,
R341; log 39). -/
def State.fifoTakes (s : State) (cl : Nat) (c : Coach) (gone : Option (BitVec 16)) : Bool :=
  (coresOf cl).zipIdx.all fun p =>
    decide ((s.core p.1).reqs.countP (fun r => !r.failed && gone != some r.lid) + c.saved.halted.countP (fun h => h.1 == p.2) ≤ 8)

/-- Whether a saved coach can be readmitted to a cluster, gone's coach counted as left (R316, R340). -/
def State.readmittable (s : State) (home : Nat) (c : Coach) (cl : Nat) (gone : Option (BitVec 16)) : Bool :=
  match s.launches.find? c.lid.toNat with
  | none => false
  | some l =>
    c.state == .saved && s.inSlice c.lid && s.savedReady home c && !s.jobFrozen c.lid.toNat && cl / 64 == home / 64
      && (cl == home || (!c.saved.placeBound && !(s.cluster cl).coaches.any fun d => d.lid == c.lid))
      && s.mayHold cl c.lid l gone
      && (s.bindsChannels c.lid || (s.freeSlotOf cl c.lid gone).isSome)
      && decide (s.clustersHeld (cl / 64) c.lid ≤ l.reserve.get (cl / 64) 0)
      && s.seated cl c gone && s.fifoTakes cl c gone

/-- The saved coaches of the die of a cluster, with the clusters they were saved from. -/
def State.savedOn (s : State) (cl : Nat) : List (Nat × Coach) :=
  s.clusters.flatMap fun p =>
    if p.1 / 64 = cl / 64 then (p.2.coaches.filter fun c => c.state == .saved).map fun c => (p.1, c) else []

/-- The records that wait on the cores of a cluster that have a free context (R314, R315). -/
def State.waitingRecords (s : State) (cl : Nat) : List Record :=
  (coresOf cl).flatMap fun k => if (List.range 8).any fun c => s.freeCtx k c then (s.core k).arrivals else []

/-- Whether one that waits in a class since a time goes before another: a higher class first, then the longer wait (R316). -/
def goesBefore (a b : Nat × Nat) : Bool := decide (b.1 < a.1) || (a.1 == b.1 && decide (a.2 < b.2))

/-- Whether some other coach that could be formed or readmitted on a cluster goes before one that waits in a class since a time: a
record's coach waits since its record came, a saved one since its save (R316; log 50). -/
def State.outranked (s : State) (cl : Nat) (me : Nat × Nat) (lid : BitVec 16) : Bool :=
  (s.savedOn cl).any (fun p => p.2.lid != lid && s.readmittable p.1 p.2 cl none &&
    goesBefore (s.savedClass p.1 p.2, p.2.since) me) ||
  (s.waitingRecords cl).any fun r => r.lid != lid && goesBefore (s.launchClass r.lid, r.since) me && s.formable cl r.lid none

/-- A cluster without a resident coach takes the split and fuse of the first that it admits (R15, R17). -/
def Cluster.setup (x : Cluster) (l : Launch) (lid : BitVec 16) : Cluster :=
  if x.coaches.any fun c => c.state != .saved && c.lid != lid then x else { x with split := l.split, fuse := l.fuse }

/-- A cluster takes what a coach of a launch needs: where its split or fuse changes, its L1 portions keep no copy (R15, R17). -/
def State.setupFor (s : State) (cl : Nat) (l : Launch) (lid : BitVec 16) : State :=
  let x := s.cluster cl
  let y := x.setup l lid
  (if x.split = y.split ∧ x.fuse = y.fuse then s else s.dropL1 cl).setCluster cl y

/-- A coach of a launch is formed on a cluster in a slot, with the tile of the task that forms it (R182, R315, R316). -/
def State.formCoach (s : State) (cl : Nat) (lid : BitVec 16) (l : Launch) (slot : Nat) (tile : BitVec 48) : State :=
  let co : Coach := { lid := lid, slot := slot, asid := l.asid, kp := l.kp, cap := l.cap, grant := l.grant, tile := tile
                      predl := l.predl, since := s.ptc, fresh := true }
  let entries := l.chans.map fun e => (e.channel, e.word slot)
  let s := ((s.notePassed cl lid).setupFor cl l lid).updCluster cl fun x => { x with coaches := x.coaches ++ [co] }
  (coresOf cl).foldl (fun s k => s.updCore k fun c =>
    { c.repartition entries with
      due := noteDue c.due entries
      weightsOf := l.stages.foldl (fun w g => w.set g.channel g.wMin) c.weightsOf }) s

/-- COACH_ADMISSION (R315, R316): a coach forms for a waiting record of a launch without a coach on the cluster. -/
def execCoachAdmission (s : State) : Result :=
  match s.agenda with
  | .coachAdmission cl n :: _ =>
    let s := s.pop
    let lid := BitVec.ofNat 16 n
    match (s.waitingRecords cl).find? fun r => r.lid == lid, s.launches.find? lid.toNat, s.freeSlotOf cl lid none with
    | some r, some l, some slot =>
      if !s.formable cl lid none || s.outranked cl (l.cls.toNat, r.since) lid then .next s
      else .next (s.formCoach cl lid l slot r.tile)
    | _, _, _ => .next s
  | _ => .next s

/-! ### Swap (R337, R338) -/

/-- Whether another coach waits for a cluster and could be there once a coach had left: a saved one that is Ready, or one for a record whose
coach cannot be formed as things are (R314, R338). -/
def State.someoneWaits (s : State) (cl : Nat) (c : Coach) : Bool :=
  (s.savedOn cl).any (fun p => p.2.lid != c.lid && s.readmittable p.1 p.2 cl (some c.lid)) ||
    ((coresOf cl).flatMap fun k => (s.core k).arrivals.map Record.lid).any fun d =>
      d != c.lid && s.formable cl d (some c.lid) && !s.formable cl d none

/-- The times at which tasks of a coach parked. -/
def State.parkTimes (s : State) (cl : Nat) (c : Coach) : List Nat :=
  (s.tasksOf cl c).filterMap fun t => match t.2.2.run with | .parked _ since => some since | _ => none

/-- The oldest park of a coach; the present when there is none. -/
def State.oldestPark (s : State) (cl : Nat) (c : Coach) : Nat := (s.parkTimes cl c).foldl Nat.min s.ptc

/-- The class of a coach: the greatest Eff of its contexts (R338). -/
def State.coachClass (s : State) (cl : Nat) (c : Coach) : Nat :=
  (s.tasksOf cl c).foldl (fun m t => max m (s.effOf t.1 t.2.1)) 0

/-- Whether the parks of a coach reach PARKN or PARKT (R337, R338). -/
def State.parksDue (s : State) (cl : Nat) (c : Coach) : Bool :=
  let x := s.cluster cl
  let n := (s.parkTimes cl c).length
  let count := (s.tasksOf cl c).length
  let thr := if x.parkn.getLsbD 8 then ceilDiv count 2 else x.parkn.toNat % 64
  (thr != 0 && decide (thr ≤ n)) ||
    (decide (0 < n) && x.parkt != 0 && decide (s.oldestPark cl c + x.parkt.toNat ≤ s.ptc))

/-- Whether a coach is eligible for swap (R338). -/
def State.swappable (s : State) (cl : Nat) (c : Coach) : Bool :=
  (c.state == .resident || c.state == .preempted) && !s.jobFrozen c.lid.toNat && s.parksDue cl c && s.someoneWaits cl c

/-- COACH_SWAP (R338): of the eligible coaches the one of lowest class, then of the oldest park, begins its save. Between equal ones the
spec names none: the model takes the first of the cluster's list (log 83). -/
def execCoachSwap (s : State) : Result :=
  match s.agenda with
  | .coachSwap cl :: _ =>
    let s := s.pop
    let x := s.cluster cl
    if x.coaches.any fun c => c.state == .saving then .next s
    else
      let before (a b : Coach) : Bool :=
        decide (s.coachClass cl a < s.coachClass cl b) ||
          (s.coachClass cl a == s.coachClass cl b && decide (s.oldestPark cl a < s.oldestPark cl b))
      let best := (x.coaches.filter (s.swappable cl)).foldl (fun (m : Option Coach) c =>
        match m with
        | none => some c
        | some d => if before c d then some c else some d) none
      match best with
      | none => .next s
      | some c => .next (s.updCoach cl c.lid fun c => { c with state := .saving })
  | _ => .next s

/-! ### Saving (R339, R340) -/

/-- Whether a remote access of a context is under way (R339). -/
def Ctx.remoteBusy (x : Ctx) : Bool := x.remoteAsked || !x.remoteVals.isEmpty || !x.stores.isEmpty

/-- Whether a part of a request of core k has been sent inside the package and not been performed yet. -/
def State.partWaits (s : State) (k : Nat) (r : Req) (lo : Nat) : Bool := s.net.any fun m => m.isOf k r && m.first == some lo

/-- Whether a request of core k is ready for a save: halted, its posts landed, and each part that it sent performed, or still waiting
inside the package. Such parts, and the data that a halted GET has asked for, are asked for again after readmission (R249, R255). -/
def State.settled (s : State) (k : Nat) (r : Req) : Bool :=
  r.halted && !s.posting k r && (r.kind == .get || r.sent.all fun d => r.isDone d.1 || s.partWaits k r d.1)

/-- Whether what a save waits for has ended: remote accesses, requests, the operations of the engine's queue, an EVMAC among them, and
departing rows (R339, R239, R255, R340). -/
def State.drained (s : State) (cl : Nat) (c : Coach) : Bool :=
  (s.tasksOf cl c).all (fun t => !t.2.2.remoteBusy) &&
    (coresOf cl).all fun k =>
      let co := s.core k
      co.reqs.all (fun r => r.lid != c.lid || s.settled k r) && co.mxq.all (fun o => o.lid != c.lid)
        && co.slots.all fun t => t.2.lid != c.lid || !t.2.ended

/-- Whether a coach may be saved now: its save has begun; one in WFE has not stopped until WFE returns (R343). -/
def State.stopped (s : State) (cl : Nat) (c : Coach) : Bool := s.saveBegun cl c

/-- A context as the save holds it: pending writes applied, no reservation, no prefetched vector, no branch just executed (R86, R109,
R173, R339), and whether the page that it is parked on has come. -/
def Ctx.saved (x : Ctx) (pageBack : Bool) : Ctx :=
  { x.flush with reserve := none, run := if x.run = .ready then .stopped else x.run, branch := none, pageBack := pageBack
                 streams := x.streams.mapVal fun _ t => { t with fetched := [], windowed := [], skipped := [] } }

/-- Whether the page that a context of core k is parked on is present: a TLB says so, or an entry that has come since it parked (R342). -/
def State.parkOver (s : State) (k : Nat) (x : Ctx) : Bool :=
  match x.run with
  | .parked va _ => x.pageBack || s.pagePresent k x.asid va == some true
  | _ => false

/-- The granted tags of a core, and the core with them cleared. -/
def Core.takeTags (co : Core) (grant : Word) : SMap Tag × Core :=
  (co.tags.filter fun p => bit grant p.1, { co with tags := co.tags.filter fun p => !bit grant p.1 })

/-- A core without the tasks, granted tags and halted requests of a coach (R340). -/
def Core.vacate (co : Core) (c : Coach) : Core :=
  let mine (x : Ctx) : Bool := x.coach == some c.slot && x.run != .idle
  let (_, co) := co.takeTags c.grant
  { co with ctxs := co.ctxs.mapVal fun _ x => if mine x then x.freed else x
            reqs := co.reqs.filter fun r => r.lid != c.lid
            sendQ := co.sendQ.filter fun n => !((co.ctxs.find? n).map mine).getD false }

/-- Whether a coach is bound to a macro of its cluster (R239, R340). -/
def State.macroBound (s : State) (cl : Nat) (lid : BitVec 16) : Bool :=
  (coresOf cl).any fun k => (s.core k).bound.isSome && (s.core k).boundLid == lid

/-- Whether a coach owns a barrier in use (R340). -/
def State.barrierBound (s : State) (cl : Nat) (lid : BitVec 16) : Bool :=
  (s.cluster cl).bars.any fun b => b.2.owner == lid && b.2.members != 0

/-- COACH_SAVE (R339 to R341): a coach that has stopped and drained is saved with its save area at base. -/
def execCoachSave (s : State) : Result :=
  match s.agenda with
  | .coachSave cl n base :: _ =>
    let s := s.pop
    let lid := BitVec.ofNat 16 n
    match (s.cluster cl).coachOf lid with
    | none => .next s
    | some c =>
      if !s.stopped cl c || !s.drained cl c || base % 4096 != 0 || decide (memorySize < base + areaSize) then .next s
      else
        let mb := s.macroBound cl lid
        let bb := s.barrierBound cl lid
        let cores := (coresOf cl).zipIdx
        let size := s.padSize (coreOf cl 0)
        let v : Saved :=
          { ctxs := (s.tasksOf cl c).map fun t => (slotOf t.1 t.2.1, t.2.2.saved (s.parkOver t.1 t.2.2))
            pads := cores.map fun p => (p.2, (s.core p.1).pad.filter fun b => decide (b.1 < size))
            padPoison := cores.map fun p => (p.2, (s.core p.1).padPoison.filter fun w => decide (8 * w < size))
            tags := cores.map fun p => (p.2, ((s.core p.1).takeTags c.grant).1)
            halted := sortBy (fun p : Nat × Req => p.2.seq)
              (cores.flatMap fun p => ((s.core p.1).reqs.filter fun r => r.lid == lid).map fun r => (p.2, { r with sent := r.dones }))
            cls := s.coachClass cl c, base := base
            placeBound := mb || bb || s.bindsChannels lid, macroBound := mb, barBound := bb }
        let c' : Coach := { c with state := .saved, saved := v, since := s.ptc }
        let mine (m : NetMsg) : Bool := cores.any fun p => (s.core p.1).reqs.any fun r => r.lid == lid && m.isOf p.1 r
        let s := ({ s with net := s.net.filter fun m => !mine m }.writeArea cl c').forgetPads cl
        let s := (coresOf cl).foldl (fun s k => s.updCore k fun co => co.vacate c) s
        .next (s.updCoach cl lid fun _ => c')
  | _ => .next s

/-! ### Readmission (R342) -/

/-- A saved context on its core again; PREQ reads 0. -/
def Ctx.restored (x : Ctx) (slot : Nat) : Ctx :=
  { x with coach := some slot, preq := false, predlEnd := none, stall := 0
           run := if x.run = .stopped ∨ x.run = .yielded then .ready
                  else if x.run = .killed then .trapped else x.run }

/-- A halted request that was saved from core k on a core again, under a number of that core, its context where that has returned. To other
packages and to its own it is the request that it was (R260). -/
def Core.takeBack (co : Core) (k : Nat) (r : Req) (seat : List (Nat × Nat)) : Core :=
  { co with reqs := co.reqs ++ [{ r with num := co.reqNum, ctx := SMap.get seat r.ctx r.ctx, moved := some (r.moved.getD (k, r.ctx)) }]
            reqNum := co.reqNum + 1 }

/-- Core j of a cluster with what a coach saved on core j of its home restored, its contexts at their seats (R342). -/
def Core.restore (co : Core) (home j : Nat) (c : Coach) (slot size : Nat) (seat : List (Nat × Nat)) : Core :=
  let v := c.saved
  let co := { co with
    ctxs := v.ctxs.foldl (fun m p => if p.1 / 8 = j then m.set (SMap.get seat (p.1 % 8) 0) (p.2.restored slot) else m) co.ctxs
    pad := (v.pads.get j []).filter (fun b => decide (b.1 < size)) ++ co.pad.filter fun b => decide (size ≤ b.1)
    padPoison := v.padPoison.get j [] ++ co.padPoison.filter fun w => decide (size ≤ 8 * w)
    tags := (v.tags.get j []).foldl (fun m p => m.set p.1 p.2) co.tags
    gated := false }
  v.halted.foldl (fun co p => if p.1 = j then co.takeBack (coreOf home j) p.2 seat else co) co

/-- COACH_READMISSION (R316, R340, R342): a Ready coach returns to a cluster of its die; a place-bound one to its own. -/
def execCoachReadmission (s : State) : Result :=
  match s.agenda with
  | .coachReadmission cl n :: _ =>
    let s := s.pop
    let lid := BitVec.ofNat 16 n
    match (s.savedOn cl).find? fun p => p.2.lid == lid && s.readmittable p.1 p.2 cl none, s.launches.find? lid.toNat with
    | some (home, c), some l =>
      let slot := if s.bindsChannels lid then some c.slot else s.freeSlotOf cl lid none
      match slot with
      | none => .next s
      | some slot =>
        if s.outranked cl (s.savedClass home c, c.since) lid then .next s
        else
          let seat (j : Nat) := s.seatsOf cl c none j
          let killed := (c.saved.ctxs.filter fun p => p.2.run == .killed).map fun p =>
            (coreOf cl (p.1 / 8), SMap.get (seat (p.1 / 8)) (p.1 % 8) 0)
          let s := (s.notePassed cl lid).updCluster home fun x => { x with coaches := x.coaches.filter fun d => d.lid != lid }
          let s := ((s.setupFor cl l lid).forgetPads cl).updCluster cl fun x => { x with
            coaches := x.coaches ++ [{ c with slot := slot, state := .resident, saved := {} }] }
          let size := s.padSize (coreOf cl 0)
          let s := (coresOf cl).zipIdx.foldl (fun s p => s.updCore p.1 fun co => co.restore home p.2 c slot size (seat p.2)) s
          .next ((killed.foldl (fun s p => s.killTask p.1 p.2) s).endCoaches cl)
    | _, _ => .next s
  | _ => .next s

end Sys2Proof.Machine
end

