-- ==== Sys2Proof/Machine/Control.lean ====
section
/-!
DEFINITION. Branches and jumps: majors BRANCH, JAL and JALR (R70, R106 to R109). A jump records its pc, for the check of
its target at the fetch.
-/

namespace Sys2Proof.Machine

/-- BEQ (R106). -/
def execBeq (rs1 rs2 : Reg) (off : BitVec 12) (stl : Stall) (s : State) : Result :=
  .next (s.branchIf (fun a b => a == b) rs1 rs2 off stl)

/-- BNE (R106). -/
def execBne (rs1 rs2 : Reg) (off : BitVec 12) (stl : Stall) (s : State) : Result :=
  .next (s.branchIf (fun a b => a != b) rs1 rs2 off stl)

/-- BLT (R106). -/
def execBlt (rs1 rs2 : Reg) (off : BitVec 12) (stl : Stall) (s : State) : Result :=
  .next (s.branchIf (fun a b => a.slt b) rs1 rs2 off stl)

/-- BGE (R106). -/
def execBge (rs1 rs2 : Reg) (off : BitVec 12) (stl : Stall) (s : State) : Result :=
  .next (s.branchIf (fun a b => !a.slt b) rs1 rs2 off stl)

/-- BLTU (R106). -/
def execBltu (rs1 rs2 : Reg) (off : BitVec 12) (stl : Stall) (s : State) : Result :=
  .next (s.branchIf (fun a b => a.ult b) rs1 rs2 off stl)

/-- BGEU (R106). -/
def execBgeu (rs1 rs2 : Reg) (off : BitVec 12) (stl : Stall) (s : State) : Result :=
  .next (s.branchIf (fun a b => !a.ult b) rs1 rs2 off stl)

/-- The issuing context writes the link pc + 4 to rd with latency 1 and goes on at t (R107, R108). -/
def State.jump (s : State) (rd : Reg) (t : Word) (stl : Stall) : State :=
  let c := s.me
  s.setMe { (c.fixX rd.toNat 1 (c.pc + 4)).goto stl t with branch := some c.pc }

/-- JAL (R107): to pc + 4 × sext(off). -/
def execJal (rd : Reg) (off : BitVec 20) (stl : Stall) (s : State) : Result :=
  .next (s.issue { writes := [useX rd], lat := 1 } fun s =>
    s.jump rd (s.me.pc + (off.signExtend 64 <<< 2)) stl)

/-- JALR (R108): to x[rs1] + sext(imm12) with bits [1:0] cleared; rs1 is read before rd is written. -/
def execJalr (rd rs1 : Reg) (imm : BitVec 12) (stl : Stall) (s : State) : Result :=
  .next (s.issue { reads := [useX rs1], writes := [useX rd], lat := 1 } fun s =>
    s.jump rd ((s.me.rx rs1.toNat + immI imm) &&& ~~~(3 : Word)) stl)

end Sys2Proof.Machine
end

