-- ==== Sys2Proof/Machine/Launch.lean ====
section
/-!
DEFINITION. The package launch distributor (R317, R318), gangs and slices (R319 to R321), stage weights (R322) and aged
contexts (R324).
-/

namespace Sys2Proof.Machine

/-! ### Placement (R317, R318) -/

/-- The clusters of a die that hold coaches of classes below n only, and that no launch still being placed has reserved (R317, R338). -/
def State.below (s : State) (vdn n : Nat) : List Nat :=
  (clustersOf vdn).filter fun cl =>
    let x := s.cluster cl
    s.keptByPlaced cl 0 && !x.here.isEmpty && x.here.all fun c => decide (s.coachClass cl c < n)

/-- The clusters of a die that are available to a launch of class n and that it has not reserved: the empty ones that no launch has
reserved, those that only placed launches have, then those whose coaches are asked to leave; of the kind that its layer asks for
(R13, R317; log 30). -/
def State.available (s : State) (vdn n lid : Nat) : List Nat :=
  (s.emptyClusters vdn false ++ s.emptyClusters vdn true ++ s.below vdn n).filter fun cl =>
    s.kindOk lid cl && !(s.cluster cl).reservedBy.contains (BitVec.ofNat 16 lid)

/-- A launch, changed by f. -/
def State.updLaunch (s : State) (lid : Nat) (f : Launch → Launch) : State :=
  match s.launches.find? lid with
  | none => s
  | some l => { s with launches := s.launches.set lid (f l) }

/-- A cluster is reserved for a launch: PREQ is raised on the coaches there (R317). -/
def State.reserveCluster (s : State) (lid cl : Nat) : State :=
  let here := (s.cluster cl).here
  let asked := (here.filter fun c => c.state == .resident).map fun c => (cl, c.lid)
  let s := here.foldl (fun s c => s.raisePreq cl c.lid) s
  (s.updCluster cl fun x => { x with reservedBy := x.reservedBy ++ [BitVec.ofNat 16 lid] }).updLaunch lid fun l =>
    { l with raised := l.raised ++ asked }

/-- The clusters of a die that are reserved for a launch. -/
def State.reservedOn (s : State) (vdn lid : Nat) : List Nat :=
  (clustersOf vdn).filter fun cl => (s.cluster cl).reservedBy.contains (BitVec.ofNat 16 lid)

/-- A step's reservations on one die: as many available clusters as the launch still lacks, lowest first (R317; log 30). -/
def State.reserveOn (s : State) (lid vdn : Nat) (l : Launch) : State :=
  if !s.mapped vdn then s
  else
    let lacking := l.reserve.get vdn 0 - (s.reservedOn vdn lid).length
    ((s.available vdn l.cls.toNat lid).take lacking).foldl (fun s cl => s.reserveCluster lid cl) s

/-- The VDNs that a launch names, ascending. -/
def Launch.vdns (l : Launch) : List Nat := (List.range 32).filter l.dies.getLsbD

/-- One step of a placement: the dies visited before that still lack clusters, and the next one (R317). -/
def State.advance (s : State) (lid n : Nat) (l : Launch) : State :=
  (l.vdns.take (n + 1)).foldl (fun s v => s.reserveOn lid v l) s

/-- Whether every named die holds its full reservation, its coaches gone (R317). -/
def State.placementDone (s : State) (lid : Nat) (l : Launch) : Bool :=
  l.vdns.all fun v =>
    decide (l.reserve.get v 0 ≤ ((s.reservedOn v lid).filter fun cl => (s.cluster cl).here.isEmpty).length)

/-- The clusters reserved for a launch are so no longer. -/
def State.unreserve (s : State) (lid : Nat) : State :=
  { s with clusters := s.clusters.mapVal fun _ (x : Cluster) =>
      { x with reservedBy := x.reservedBy.filter (· != BitVec.ofNat 16 lid) } }

/-- A launch's reservations are freed, and every PREQ that its placement raised is withdrawn (R304, R318). -/
def State.unplace (s : State) (lid : Nat) : State :=
  let raised := ((s.launches.find? lid).map Launch.raised).getD []
  ((raised.foldl (fun s p => s.withdrawPreq p.1 p.2) s).unreserve lid).updLaunch lid fun l =>
    { l with placement := .waiting, raised := [] }

/-- Whether a placement has begun and is not complete. -/
def Placement.begun : Placement → Bool
  | .placing _ => true
  | _ => false

/-- The launches whose placement has begun and is not complete (R317). -/
def State.placings (s : State) : List Launch := (s.launches.map Prod.snd).filter fun l => l.placement.begun

/-- The first launch in the queue of a class (R317). -/
def State.queueHead (s : State) (cls : Nat) : Option Nat :=
  s.classQ.find? fun lid => s.launchClass (BitVec.ofNat 16 lid) == cls

/-- The launch to be placed next among the classes below n: of the highest class, first in, first out (R317). -/
def State.nextLaunch (s : State) (n : Nat) : Option Nat := ([3, 2, 1, 0].filter fun c => decide (c < n)).findSome? s.queueHead

/-- Whether the placement of a queued launch may begin: it is next in strict class order; while others have begun, next among
the classes below all of theirs, and it names no die that they name (R317, R318). -/
def State.mayBegin (s : State) (lid : Nat) (l : Launch) : Bool :=
  s.nextLaunch (s.placings.foldl (fun n p => Nat.min n p.cls.toNat) 4) == some lid &&
    s.placings.all fun p => p.dies &&& l.dies == 0

/-- One step of the placement of a launch whose steps have visited n dies. A complete one keeps its reservations until it is retired
(R304, R317, R320). -/
def State.placeOne (s : State) (lid n : Nat) (l : Launch) : State :=
  let t := s.advance lid n l
  if l.vdns.length ≤ n + 1 ∧ t.placementDone lid l then
    t.updLaunch lid fun l => { l with placement := .placed, raised := [] }
  else if l.cls.toNat < 3 ∧ (s.queueHead 3).isSome then
    let s := s.unplace lid
    { s with classQ := lid :: s.classQ }
  else t.updLaunch lid fun l => { l with placement := .placing (Nat.min (n + 1) l.vdns.length) }

/-- PLACEMENT_STEP (R317, R318): the begun placement of a launch takes its next die, or a queued launch begins its own. -/
def execPlacementStep (s : State) : Result :=
  match s.agenda with
  | .placementStep lid :: _ =>
    let s := s.pop
    match s.launches.find? lid with
    | none => .next s
    | some l =>
      match l.placement with
      | .placing n => .next (s.placeOne lid n l)
      | .placed => .next s
      | .waiting =>
        .next (if s.mayBegin lid l then { s with classQ := s.classQ.filter (· != lid) }.placeOne lid 0 l else s)
  | _ => .next s

/-! ### Gangs (R319 to R321) -/

/-- Whether T is an agreed tick of a gang (R319). -/
def Gang.agreed (g : Gang) (tick : Nat) : Bool := decide (g.t0 ≤ tick) && (tick - g.t0) % g.period == 0

/-- Whether a gang names a package. -/
def Gang.names (g : Gang) (p : Nat) : Bool := decide (p < 128) && g.packages.testBit p

/-- The gang of a launch, if it has one. -/
def State.gangOf (s : State) (lid : Nat) : Option Gang := (s.launches.find? lid).bind Launch.gang

/-- The Lid of an active message (R307). -/
def EndpointRec.lid (r : EndpointRec) : Nat := bits (r.words.getD 0 0) 17 2
/-- The StartTick of an active message (R307). -/
def EndpointRec.startTick (r : EndpointRec) : Nat := (r.words.getD 5 0).toNat

/-- Whether a slice of a gang still runs at a tick (R321). -/
def State.sliceRuns (s : State) (lid tick : Nat) : Bool := s.slices.any fun p => p.1 == lid && decide (tick < p.2)

/-- Whether a gang is ready for a tick: its placement is complete here, each of its staged messages has a place, and no slice of it
runs any more by then (R320, R321). -/
def State.gangIsReady (s : State) (lid tick : Nat) : Bool :=
  !s.sliceRuns lid tick && ((s.launches.find? lid).map fun l => l.placement == .placed).getD false &&
    !s.endpoint.any fun r => r.lid == lid && r.startTick != 0

/-- GANG_READY_POST (R320): a package that is ready by T − 2 µs sends its ready message for T to every package of the gang. -/
def execGangReadyPost (s : State) : Result :=
  match s.agenda with
  | .gangReadyPost lid tick :: _ =>
    let s := s.pop
    match s.gangOf lid with
    | none => .next s
    | some g =>
      if !g.agreed tick || decide (tick < s.ptc + 2000) || !s.gangIsReady lid tick || s.gangReady.contains (lid, tick, s.pkg) then
        .next s
      else
        .next { s with
          gangReady := s.gangReady ++ [(lid, tick, s.pkg)]
          gangOut := s.gangOut ++ ((List.range 128).filter fun p => g.names p && p != s.pkg).map fun p => (lid, tick, p) }
  | _ => .next s

/-- GANG_READY_MESSAGE (R320): another package of the gang is ready for a tick. -/
def execGangReadyMessage (s : State) : Result :=
  match s.agenda with
  | .gangReadyMessage lid tick p :: _ =>
    let s := s.pop
    match s.gangOf lid with
    | none => .next s
    | some g =>
      if !g.names p || p == s.pkg || s.gangReady.contains (lid, tick, p) then .next s
      else .next { s with gangReady := s.gangReady ++ [(lid, tick, p)] }
  | _ => .next s

/-- GANG_DECISION (R320, R321): at T − 1 µs the slice starts at T when the ready messages for T of every package are held and no slice
of the gang runs at T; else it is deferred. -/
def execGangDecision (s : State) : Result :=
  match s.agenda with
  | .gangDecision lid tick :: _ =>
    let s := s.pop
    match s.gangOf lid with
    | none => .next s
    | some g =>
      if !g.agreed tick || decide (s.ptc + 1000 < tick) then .next s
      else
        let all := !s.sliceRuns lid tick && (List.range 128).all fun p => !g.names p || s.gangReady.contains (lid, tick, p)
        .next { s with
          gangReady := s.gangReady.filter fun r => r.1 != lid || decide (tick < r.2.1)
          gangStart := if all then s.gangStart ++ [(lid, tick)] else s.gangStart }
  | _ => .next s

/-- SLICE_START (R319, R321): at T every staged message of the gang whose StartTick has come goes to its core. Readiness for a tick
inside the slice, and a start decided for one, hold no longer: every package must be ready again. -/
def execSliceStart (s : State) : Result :=
  match s.agenda with
  | .sliceStart lid tick :: _ =>
    let s := s.pop
    match s.gangOf lid with
    | none => .next s
    | some g =>
      if !s.gangStart.contains (lid, tick) || decide (s.ptc < tick) || s.slices.any (fun p => p.1 == lid) then .next s
      else
        let goes (m : Staged) : Bool := m.record.lid.toNat == lid && decide (m.tick ≤ tick)
        let out := s.clusters.flatMap fun p => (p.2.staged.filter goes).map fun m => (m.core, m.record)
        .next { s with
          gangReady := s.gangReady.filter fun r => r.1 != lid || decide (tick + g.sliceLen ≤ r.2.1)
          gangStart := s.gangStart.filter fun r => r != (lid, tick) && (r.1 != lid || decide (tick + g.sliceLen ≤ r.2))
          clusters := s.clusters.mapVal fun _ x => { x with staged := x.staged.filter fun m => !goes m }
          records := s.records ++ out
          slices := if g.sliceLen = 0 then s.slices else s.slices ++ [(lid, tick + g.sliceLen)] }
  | _ => .next s

/-- SLICE_END (R321): at T + SliceLen PREQ is raised on every coach of the gang. -/
def execSliceEnd (s : State) : Result :=
  match s.agenda with
  | .sliceEnd lid :: _ =>
    let s := s.pop
    if !dueAt s.slices lid s.ptc then .next s
    else
      let s := { s with slices := s.slices.filter fun p => p.1 != lid || decide (s.ptc < p.2) }
      .next (s.clusters.foldl (fun s p => s.raisePreq p.1 (BitVec.ofNat 16 lid)) s)
  | _ => .next s

/-! ### Stage weights and ageing (R322, R324) -/

/-- w(s) of a stage on a core (R322). -/
def Core.stageWeight (co : Core) (g : Stage) : Nat :=
  let occ := (co.queue.filter fun e => e.channel.toNat == g.channel).length
  let cap := 4 * bits (co.chtab.get g.channel 0) 57 51
  Nat.max g.wMin (Nat.min g.wMax (ceilDiv (8 * occ) cap))

/-- Whether a channel is enabled on a core for a coach. -/
def Core.ownsChannel (co : Core) (ch : Nat) (c : Coach) : Bool :=
  let w := co.chtab.get ch 0
  chEn w && bits w 50 48 == c.slot

/-- STAGE_WEIGHT_UPDATE (R322): a core recomputes the weight of each stage that it holds. -/
def execStageWeightUpdate (s : State) : Result :=
  match s.agenda with
  | .stageWeightUpdate k :: _ =>
    let s := s.pop
    if !s.hasCompute k then .next s
    else
      let here := (s.cluster (clusterOf k)).here
      .next (s.updCore k fun co =>
        here.foldl (fun co c =>
          (((s.launches.find? c.lid.toNat).map Launch.stages).getD []).foldl (fun co g =>
            if co.ownsChannel g.channel c then { co with weightsOf := co.weightsOf.set g.channel (co.stageWeight g) } else co) co)
          co)
  | _ => .next s

/-- CONTEXT_AGED (R324): a context of Eff 1 to 3 that has been ready without issuing for 256 cycles of its core is aged. -/
def execContextAged (s : State) : Result :=
  match s.agenda with
  | .contextAged k c :: _ =>
    let s := s.pop
    let x := s.ctx k c
    if s.hasCtx k c && decide (256 ≤ x.age) && decide (1 ≤ s.effOf k c) then
      .next (s.setCtx k c { x with aged := true })
    else .next s
  | _ => .next s

end Sys2Proof.Machine
end

