-- ==== Sys2Proof/Machine/Net.lean ====
section
/-!
DEFINITION. What travels between packages (R254, R259 to R261, R277, R309): the parts of GET, PUT and REDCOPY at the
package that serves them and their answers, RAMO, and remote FLAT accesses. A message to the own package waits in `net`;
a message from another package is an operand of its step. The named package translates with any entry that a cluster TLB
of it holds (log 14).
-/

namespace Sys2Proof.Machine

/-! ### Translation at BX-IO -/

/-- The entry by which BX-IO translates an address of an ASID: one of a cluster TLB of the package, a 2 MiB one before a
1 KiB one (log 14). -/
def State.ioEntry (s : State) (asid : BitVec 13) (va : Nat) : Option (Word × Bool) :=
  [false, true].findSome? fun sub =>
    s.clusters.findSome? fun p => (tlbFind p.2.tlb asid (vpnOf va sub) sub).map fun e => (e, sub)

/-- Translation at BX-IO (R348). -/
def State.ioTranslate (s : State) (asid : BitVec 13) (sup : Bool) (acc : Access) (va : Nat) : Xlat :=
  if 2 ^ 48 ≤ va then .fault
  else match s.ioEntry asid va with
    | none => .miss
    | some (e, sub) => pteDecide e acc sup va sub

/-! ### What a message asks for -/

/-- The accesses of n bytes from va on, each a byte. -/
def byteAccesses (acc : Access) (va n : Nat) : List (Access × Nat × Nat) :=
  (List.range n).map fun j => (acc, (va + j) % 2 ^ 64, 1)

/-- The counter add that a message carries. -/
def cntAccess (cnt : Nat) : List (Access × Nat × Nat) := if cnt = 0 then [] else [(.readWrite, cnt, 8)]

/-- The accesses of a message at its package: kind, address, bytes; with the sender and the ASID. -/
def NetMsg.accesses : NetMsg → Option (NetSrc × Nat × List (Access × Nat × Nat))
  | .putBytes src asid va _ cnt _ bytes => 
    some (src, asid, (if inMessageWindow va then [] else byteAccesses .write va bytes.length) ++ cntAccess cnt)
  | .getBytes src asid va _ len => some (src, asid, byteAccesses .read va len)
  | .redBlock src _ asid _ rtype _ _ cnt elems =>
    some (src, asid, elems.map (fun e => (.readWrite, e.1, elemSize rtype)) ++ cntAccess cnt)
  | .ramo src asid va _ wide _ _ => some (src, asid, [(.readWrite, va, if wide then 8 else 4)])
  | .flatLoad src asid va size => some (src, asid, [(.read, va, size)])
  | .flatStore src asid va _ bytes => some (src, asid, [(.write, va, bytes.length)])
  | .flatWord src asid va _ _ bytes => some (src, asid, [(.write, va, bytes.length)])
  | _ => none

/-- What one access of a message meets at this package: its physical address, a refusal, an access fault, or a page to wait
for. -/
inductive FarMeet where
  | at (pa : Nat)
  | refused (va : Nat)
  | fault (va : Nat) (poison : Option Nat)
  | later
  deriving DecidableEq, Repr

/-- What an access meets: a read of a poisoned word is an access fault (R370), and so is a byte of a request's own package in a
generator window (R302; log 47). -/
def State.farMeet (s : State) (src : NetSrc) (asid : Nat) (a : Access × Nat × Nat) : FarMeet :=
  match s.ioTranslate (BitVec.ofNat 13 asid) src.sup a.1 a.2.1 with
  | .mem pa => if a.1 != .write && poisonedAt s.poison pa a.2.2 then .fault a.2.1 (some pa) else .at pa
  | .gen _ => if a.1 != .read && src.pkg == s.pkg && src.req != 0 then .fault a.2.1 none else .refused a.2.1
  | .absent => .later
  | .miss => .later
  | _ => .refused a.2.1

/-- What a message meets: every physical address, or the first refusal or access fault, or nothing yet. -/
inductive FarAll where
  | ok (src : NetSrc) (pas : List Nat)
  | refused (src : NetSrc) (va : Nat)
  | fault (src : NetSrc) (va : Nat) (poison : Option Nat)
  | later
  deriving DecidableEq, Repr

/-- A refusal or an access fault among what accesses meet. -/
def FarMeet.stop (src : NetSrc) : FarMeet → Option FarAll
  | .refused va => some (.refused src va)
  | .fault va p => some (.fault src va p)
  | _ => none

/-- The physical addresses of accesses that all reach memory. -/
def farPas : List FarMeet → List Nat
  | [] => []
  | .at pa :: r => pa :: farPas r
  | _ :: r => farPas r

/-- What a message meets at this package (R254, R259). -/
def State.farAll (s : State) (m : NetMsg) : FarAll :=
  match m.accesses with
  | none => .later
  | some (src, asid, l) =>
    let meets := l.map (s.farMeet src asid)
    match meets.findSome? (FarMeet.stop src) with
    | some x => x
    | none => if meets.contains .later then .later else .ok src (farPas meets)

/-- The message taken in: from `net`, or as the operand of the step when it comes from another package. -/
def State.takeMsg (s : State) (m : NetMsg) (outside : Bool) : Option State :=
  if s.net.contains m then some { s with net := s.net.erase m } else if outside then some s else none

/-- Whether a sender is another package. -/
def State.fromOutside (s : State) (src : NetSrc) : Bool := src.pkg != s.pkg

/-- A refusal at this package is logged by BX-IO (R254, R375). -/
def State.logRefusal (s : State) (src : NetSrc) (va : Nat) : State :=
  s.logIo 2 src.lid (BitVec.ofNat 64 (src.req % 65536 * 2 ^ 48 + targetWord src.pkg src.core)) (BitVec.ofNat 64 va)

/-- The home slice that performs the updates of a REDCOPY: of the sender's die in the own package, else of the lowest VDN (R260,
R269; log 35). -/
def State.redHolder (s : State) (src : NetSrc) : Nat :=
  if src.pkg = s.pkg then vdnOf src.core else ((List.range 32).find? s.mapped).getD 0

/-- A read of a poisoned word for another package's context is logged where the word is stored (R370). -/
def State.logPoison (s : State) (src : NetSrc) (pa : Option Nat) : State :=
  (pa.map fun a => s.logOn 1 (bxmOf a) 7 src.lid (65536 * s.pkg) (BitVec.ofNat 64 a) 1).getD s

/-- A counter at this package receives n (R259). -/
def State.farAdd (s : State) (cnt n pa : Nat) : State :=
  if cnt = 0 then s else s.memWrite ioHolder none pa 8 ((s.memRead pa 8 + n) % 2 ^ 64)

/-! ### Steps at the package that a request names -/

/-- Bytes written at physical addresses, each by put. -/
def State.writeBytes (s : State) (put : State → Nat → Nat → State) (pas : List Nat) (bytes : List Byte) : State :=
  ((pas.zip bytes).foldl (fun s p => put s p.1 p.2.toNat) s).cleanPlaces ((pas.zip bytes).map fun p => (.mem p.1, 1))

/-- Bytes that the host writes at physical addresses. -/
def State.writeAt (s : State) (pas : List Nat) (bytes : List Byte) : State :=
  s.writeBytes (fun s a v => s.memWrite ioHolder none a 1 v) pas bytes

/-- Bytes of a PUT written at physical addresses. -/
def State.putAt (s : State) (pas : List Nat) (bytes : List Byte) : State :=
  s.writeBytes (fun s a v => s.engMem ioHolder clsNT a 1 v) pas bytes

/-- The active messages of a part of a PUT, 64 bytes each (R309). -/
def messagesOf (src : NetSrc) (asid : Nat) (bytes : List Byte) : List EndpointRec :=
  (List.range (bytes.length / 64)).map fun b =>
    { words := (List.range 8).map fun w => BitVec.ofNat 64 (ofBytes ((bytes.drop (64 * b + 8 * w)).take 8))
      qp := 0, put := some (src, asid) }

/-- Whether the endpoint queue, active messages and control records together, has room for n records (R363). -/
def State.endpointRoom (s : State) (n : Nat) : Bool := decide (s.endpoint.length + s.controls.length + n ≤ 1024)

/-- Whether a part of a PUT to the active-message window is not of whole messages (R309). -/
def messageMisuse (va : Nat) (whole : Bool) (bytes : List Byte) : Bool :=
  !whole || va % 64 != 0 || bytes.length % 64 != 0

/-- NET_REMOTE_WRITE (R259, R309): bytes of a PUT are written and acknowledged; those for the active-message window join
the endpoint queue, if it has room. -/
def execNetRemoteWrite (s : State) : Result :=
  match s.agenda with
  | .netRemoteWrite (.putBytes src asid va lo cnt whole bytes) :: _ =>
    let s := s.pop
    let m := NetMsg.putBytes src asid va lo cnt whole bytes
    match s.takeMsg m (s.fromOutside src) with
    | none => .next s
    | some t =>
      let window := inMessageWindow va
      if window && (messageMisuse va whole bytes || !s.endpointRoom (bytes.length / 64)) then .next s
      else match s.farAll m with
        | .ok _ pas =>
          .next (if s.tokensHeld ioHolder true pas then
            let t := if window then { t with endpoint := t.endpoint ++ messagesOf src asid bytes } else t.putAt pas bytes
            (t.farAdd cnt bytes.length (pas.getLastD 0)).send src.pkg (.ack src lo bytes.length)
          else s.wantTokens ioHolder true pas (.msg m))
        | _ => .next s
  | _ => .next s.pop

/-- NET_REMOTE_READ (R259): the bytes of a part of a GET are read and sent: to the own package, as its engine's class finds them (R263). -/
def execNetRemoteRead (s : State) : Result :=
  match s.agenda with
  | .netRemoteRead (.getBytes src asid va lo len) :: _ =>
    let s := s.pop
    let m := NetMsg.getBytes src asid va lo len
    match s.takeMsg m (s.fromOutside src), s.farAll m with
    | some t, .ok _ pas =>
      .next (if s.tokensHeld ioHolder false pas then
        let byte (pa : Nat) : Byte := if s.fromOutside src then cell s.mem pa else BitVec.ofNat 8 (s.memSeen clsNT pa 1)
        (t.holderReads ioHolder pas).send src.pkg (.data src lo (pas.map byte))
      else s.wantTokens ioHolder false pas (.msg m))
    | _, _ => .next s
  | _ => .next s.pop

/-- A REDCOPY element combined (R260): sum, maximum or minimum. -/
def redElem (rop rtype a b : Nat) : Nat :=
  let w := 8 * elemSize rtype
  if rop = 0 then addElem rtype a b
  else if rtype = 2 then (if rop = 1 then (fpMax fp32 a b).1 else (fpMin fp32 a b).1)
  else if rtype = 3 then (if rop = 1 then (fpMax bf16 a b).1 else (fpMin bf16 a b).1)
  else if (decide (toSigned w a < toSigned w b)) == (rop == 1) then b else a

/-- REDCOPY_BLOCK (R260): every element of a block is combined once; a block that was applied before is only
acknowledged. -/
def execRedcopyBlock (s : State) : Result :=
  match s.agenda with
  | .redcopyBlock (.redBlock src q asid rop rtype lo len cnt elems) :: _ =>
    let s := s.pop
    let m := NetMsg.redBlock src q asid rop rtype lo len cnt elems
    match s.takeMsg m (s.fromOutside src) with
    | none => .next s
    | some t =>
      if t.applied.contains (src, q) then .next (t.send src.pkg (.ack src lo len))
      else match s.farAll m with
        | .ok _ pas =>
          let e := elemSize rtype
          let h := s.redHolder src
          let cnts := if cnt = 0 then [] else pas.drop elems.length
          if !s.tokensHeld h true (pas.take elems.length) then .next (s.wantTokens h true (pas.take elems.length) (.msg m))
          else if !s.tokensHeld ioHolder true cnts then .next (s.wantTokens ioHolder true cnts (.msg m))
          else
            let t := (pas.zip elems).foldl (fun t p =>
              t.engMem h clsNT p.1 e (redElem rop rtype (t.memRead p.1 e) p.2.2.toNat)) t
            .next (({ t with applied := t.applied ++ [(src, q)] }.farAdd cnt len (pas.getLastD 0)).send src.pkg (.ack src lo len))
        | _ => .next s
  | _ => .next s.pop

/-! ### Answers to a request -/

/-- The request of core k that issued from a core with a request id (R375). -/
def State.reqById (s : State) (k home id : Nat) : Option Req :=
  (s.core k).reqs.find? fun r => r.reqId == id && r.home k == home && (farPkg r.kind r.w0 r.w1).isSome

/-- The request that an answer is to, if it is one of this package, with the core that has it now: its own, or one to which its coach has
moved. -/
def State.reqOf (s : State) (src : NetSrc) : Option (Nat × Req) :=
  if src.pkg ≠ s.pkg then none
  else ((s.reqById src.core src.core src.req).map fun r => (src.core, r)).or
    (s.cores.findSome? fun p => (s.reqById p.1 src.core src.req).map fun r => (p.1, r))

/-- The answer of a request's package to it: from `net` when it names the own package. -/
def State.takeAnswer (s : State) (m : NetMsg) (r : Req) : Option State :=
  s.takeMsg m ((farPkg r.kind r.w0 r.w1).getD s.pkg != s.pkg)

/-- NET_ACK (R259): an acknowledgement is counted; the data of a GET are written locally and counted. With the last acknowledgement
of a REDCOPY the record of its blocks goes, and with it what was sent again (R260). Data in flight land although the request has halted or
its job is frozen, but not before its posts have (R249, R344). -/
def execNetAck (s : State) : Result :=
  match s.agenda with
  | .netAck (.ack src lo len) :: _ =>
    let s := s.pop
    match s.reqOf src with
    | none =>
      .next (if s.fromOutside src then { s with applied := s.applied.filter fun p => p.1 != src }
        else (s.takeMsg (.ack src lo len) true).getD s)
    | some (k, r) =>
      match s.takeAnswer (.ack src lo len) r with
      | none => .next s
      | some t =>
        if r.kind = .get ∨ !r.sent.contains (lo, len) then .next t
        else if r.isDone lo then .next ((t.updReq k r.num fun r => { r with nacks := r.nacks + 1 }).retireReq k r.num)
        else
          let t := t.deliver k r lo len
          .next (if r.delivered + len < r.bytes then t
            else { t with applied := t.applied.filter (fun p => p.1 != src), net := t.net.filter fun m => !m.isOf k r })
  | .netAck (.data src lo bytes) :: _ =>
    let s := s.pop
    let m := NetMsg.data src lo bytes
    match s.reqOf src with
    | none => .next ((s.takeMsg m true).getD s)
    | some (k, r) =>
      match s.takeAnswer m r with
      | none => .next s
      | some t =>
        if r.kind ≠ .get ∨ !r.sent.contains (lo, bytes.length) ∨ r.isDone lo ∨ r.failed then .next t
        else if s.posting k r then .next { t with net := t.net ++ [m] }
        else
          let meets := (List.range bytes.length).flatMap fun j => t.boxDsts k r (lo + j)
          if meets.all fun m => m.met.isOk then
            .next (t.whenOk (vdnOf k) k r meets fun t => (t.putBytes k r lo bytes).deliver k r lo bytes.length)
          else .next ({ t with net := t.net ++ [m] }.whenOk (vdnOf k) k r meets id)
  | _ => .next s.pop

/-- What this package answers to a message that it refuses, logged, or that meets an access fault (R254, R302, R370). -/
def State.refuse (s : State) : FarAll → Option State
  | .refused src va => some ((s.logRefusal src va).send src.pkg (.nack src none))
  | .fault src va _ => some (s.send src.pkg (.nack src (some va)))
  | _ => none

/-- NET_REFUSAL (R254): a part that fails at this package is logged and refused; a refusal that returns ends its request,
which a task learns of as REMOTE, or as an access fault where it was one; that of another part of a request that has failed says
nothing more. A PUT that misuses the active-message window is refused
(R309). -/
def execNetRefusal (s : State) : Result :=
  match s.agenda with
  | .netRefusal (.nack src fault) :: _ =>
    let s := s.pop
    match s.reqOf src with
    | none => .next ((s.takeMsg (.nack src fault) true).getD s)
    | some (k, r) =>
      match s.takeAnswer (.nack src fault) r with
      | none => .next s
      | some t =>
        let why : Failure := match fault with | some va => .access (BitVec.ofNat 64 va) | none => .refusal r.pc
        let t := t.updReq k r.num fun r => { r with nacks := r.nacks + 1 }
        .next ((if r.failed then t.retireReq k r.num else t.failReq k r why).endCoaches (clusterOf k))
  | .netRefusal m :: _ =>
    let s := s.pop
    let refuse (src : NetSrc) (x : FarAll) : State := ((s.takeMsg m (s.fromOutside src)).bind fun t => t.refuse x).getD s
    match m with
    | .putBytes src _ va _ _ whole bytes =>
      .next (refuse src (if inMessageWindow va && messageMisuse va whole bytes then .refused src va else s.farAll m))
    | .getBytes src _ _ _ _ => .next (refuse src (s.farAll m))
    | .redBlock src q _ _ _ _ _ _ _ => .next (if s.applied.contains (src, q) then s else refuse src (s.farAll m))
    | _ => .next s
  | _ => .next s.pop

/-! ### RAMO (R261) -/

/-- The new value of a RAMO: Op 0x00 to 0x08 of R131, or 0x09 CAS. -/
def ramoOp (op w : Nat) (old b c : BitVec w) : BitVec w :=
  if op = 0 then b
  else if op = 1 then old + b
  else if op = 2 then old &&& b
  else if op = 3 then old ||| b
  else if op = 4 then old ^^^ b
  else if op = 5 then (if old.slt b then old else b)
  else if op = 6 then (if old.slt b then b else old)
  else if op = 7 then (if old.ult b then old else b)
  else if op = 8 then (if old.ult b then b else old)
  else if old == c then b else old

/-- RAMO (R261): sent once, and the context waits; its value stands in `remoteVals` when it runs again. A release follows every stream
read that has issued (R172), and waits for earlier stores and requests of class NT. -/
def execRamo (rd : Reg) (rs1 rs2 : Pair) (stl : Stall) (s : State) : Result :=
  .next (s.onCompute (.ramo rd rs1 rs2 stl) fun s =>
    s.issue { reads := usePairs rs1 rs2, writes := [useX rd] } fun s =>
      let (w0, b, c, w3) := s.me.reqWords rs1 rs2
      let wide := bit w3 5
      let own := s.me.fetching.isNone
      let send (s : State) : State := (s.send (wordPkg w0) (.ramo (s.netSrc 0) s.me.asid.toNat (wordAddr w0) (bits w3 4 0) wide b c)).setMe
        { s.me with remoteAsked := true, askedVa := wordAddr w0, run := .waiting .remote }
      match if own then s.me.remoteVals else [] with
      | v :: _ => s.done stl fun x => x.varX rd.toNat (amoOld wide v.toNat)
      | [] =>
        if own && s.me.remoteAsked then s.wait .remote
        else if bits w3 63 8 != 0 || decide (9 < bits w3 4 0) || !farWordOk w0
            || wordAddr w0 % (if wide then 8 else 4) != 0 || !s.domain.contains (wordPkg w0) then s.trap 3 2
        else s.after (bit w3 7) fun s =>
          if bit w3 7 && s.classBusy s.focus s.active (clsLS ||| clsNT) then s.wait (.fence (clsLS ||| clsNT)) else send s)

/-- RAMO_AT_TARGET (R261): the atomic engine performs it and answers, or refuses it and logs that. -/
def execRamoAtTarget (s : State) : Result :=
  match s.agenda with
  | .ramoAtTarget (.ramo src asid va op wide b c) :: _ =>
    let s := s.pop
    let m := NetMsg.ramo src asid va op wide b c
    match s.takeMsg m (s.fromOutside src) with
    | none => .next s
    | some t =>
      match s.farAll m with
      | .ok _ pas =>
        let n := if wide then 8 else 4
        let pa := pas.headD 0
        let old := t.memRead pa n
        let new := (ramoOp op (8 * n) (BitVec.ofNat _ old) (BitVec.ofNat _ b.toNat) (BitVec.ofNat _ c.toNat)).toNat
        .next (if s.tokensHeld ioHolder true pas then
          (t.engMem ioHolder clsNT pa n new).send src.pkg (.ramoReply src true false (BitVec.ofNat 64 old))
        else s.wantTokens ioHolder true pas (.msg m))
      | .refused _ v => .next ((t.logRefusal src v).send src.pkg (.ramoReply src false false 0))
      | .fault _ _ p => .next ((t.logPoison src p).send src.pkg (.ramoReply src false true 0))
      | .later => .next s
  | _ => .next s.pop

/-- The vector that a context reads ahead from another package cannot be read now. -/
def Ctx.skipFetch (x : Ctx) : Ctx :=
  match x.fetching with
  | none => x
  | some (n, i) =>
    { x with fetching := none, remoteVals := [], remoteAsked := false
             streams := x.streams.mapVal fun m t => if m = n then { t with skipped := i :: t.skipped } else t }

/-- A context that waits for an answer receives a value, or a refusal that it reports as REMOTE at its instruction, or the access
fault of a poisoned word (R261, R277, R370). Where it reads a stream's vector ahead of the instruction that consumes it, that
instruction meets the refusal or the fault (log 6). -/
def State.answer (s : State) (k c : Nat) (ok poison : Bool) (v : Word) : State :=
  let x := s.ctx k c
  if x.run = .waiting .remote then
    if ok then s.setCtx k c { x with run := .ready, remoteAsked := false, remoteVals := x.remoteVals ++ [v] }
    else if x.fetching.isSome then s.setCtx k c { x.skipFetch with run := .ready }
    else if poison then s.trapCtx k c 3 false x.pc (BitVec.ofNat 64 x.askedVa)
    else s.trapCtx k c 10 false x.pc x.pc
  else s

/-- Whether a message of RAMO's is on its way inside the package for a context. -/
def State.ramoInside (s : State) (k c : Nat) : Bool :=
  s.net.any fun m => match m with
    | .ramo src _ _ _ _ _ _ => src.core == k && src.ctx == c && src.pkg == s.pkg
    | .ramoReply src _ _ _ => src.core == k && src.ctx == c && src.pkg == s.pkg
    | _ => false

/-- RAMO_RESPONSE (R261): the answer returns; that of the own package from `net`. -/
def execRamoResponse (s : State) : Result :=
  match s.agenda with
  | .ramoResponse k c ok poison v :: _ =>
    let s := s.pop
    let x := s.ctx k c
    let src : NetSrc := { pkg := s.pkg, core := k, ctx := c, lid := x.lid.toNat, req := 0, sup := x.sup }
    match s.takeMsg (.ramoReply src ok poison v) (!s.ramoInside k c) with
    | none => .next s
    | some t => .next (t.answer k c ok poison v)
  | _ => .next s

/-! ### Remote FLAT accesses (R141, R277) -/

/-- REMOTE_FLAT_ACCESS (R277): a load or store through a REMOTE entry, performed and answered, or refused and logged. -/
def execRemoteFlatAccess (s : State) : Result :=
  match s.agenda with
  | .remoteFlatAccess (.flatLoad src asid va size) :: _ =>
    let s := s.pop
    let m := NetMsg.flatLoad src asid va size
    match s.takeMsg m (s.fromOutside src) with
    | none => .next s
    | some t =>
      match s.farAll m with
      | .ok _ pas =>
        .next (if s.tokensHeld ioHolder false pas then
          (t.holderReads ioHolder pas).send src.pkg (.loadReply src true false (BitVec.ofNat 64 (s.memRead (pas.headD 0) size)))
        else s.wantTokens ioHolder false pas (.msg m))
      | .refused _ v => .next ((t.logRefusal src v).send src.pkg (.loadReply src false false 0))
      | .fault _ _ p => .next ((t.logPoison src p).send src.pkg (.loadReply src false true 0))
      | .later => .next s
  | .remoteFlatAccess (.flatStore src asid va id bytes) :: _ =>
    let s := s.pop
    let m := NetMsg.flatStore src asid va id bytes
    match s.takeMsg m (s.fromOutside src) with
    | none => .next s
    | some t =>
      match s.farAll m with
      | .ok _ pas =>
        .next (if s.tokensHeld ioHolder true pas then
          (t.memWrite ioHolder none (pas.headD 0) bytes.length (ofBytes bytes)).send src.pkg (.storeAck src id true)
        else s.wantTokens ioHolder true pas (.msg m))
      | .refused _ v => .next ((t.logRefusal src v).send src.pkg (.storeAck src id false))
      | _ => .next s
  | .remoteFlatAccess (.flatWord src asid va id mask bytes) :: _ =>
    let s := s.pop
    let m := NetMsg.flatWord src asid va id mask bytes
    match s.takeMsg m (s.fromOutside src) with
    | none => .next s
    | some t =>
      match s.farAll m with
      | .ok _ pas =>
        let write (t : State) (p : Byte × Nat) : State := if mask.testBit p.2 then t.memWrite ioHolder none (pas.headD 0 + p.2) 1 p.1.toNat else t
        .next (if s.tokensHeld ioHolder true pas then (bytes.zipIdx.foldl write t).send src.pkg (.storeAck src id true)
        else s.wantTokens ioHolder true pas (.msg m))
      | .refused _ v => .next ((t.logRefusal src v).send src.pkg (.storeAck src id false))
      | _ => .next s
  | _ => .next s.pop

/-- Whether a load of a context is on its way inside the package, or its answer. -/
def State.loadInside (s : State) (k c : Nat) : Bool :=
  s.net.any fun m => match m with
    | .flatLoad src _ _ _ => src.core == k && src.ctx == c && src.pkg == s.pkg
    | .loadReply src _ _ _ => src.core == k && src.ctx == c && src.pkg == s.pkg
    | _ => false

/-- REMOTE_LOAD_RESPONSE (R277): the answer returns; that of the own package from `net`. -/
def execRemoteLoadResponse (s : State) : Result :=
  match s.agenda with
  | .remoteLoadResponse k c ok poison v :: _ =>
    let s := s.pop
    let x := s.ctx k c
    let src : NetSrc := { pkg := s.pkg, core := k, ctx := c, lid := x.lid.toNat, req := 0, sup := x.sup }
    match s.takeMsg (.loadReply src ok poison v) (!s.loadInside k c) with
    | none => .next s
    | some t => .next (t.answer k c ok poison v)
  | _ => .next s

/-- Whether the store id of a context, or its acknowledgement, is on its way inside the package. -/
def State.storeInside (s : State) (k c id : Nat) : Bool :=
  s.net.any fun m => match m with
    | .flatStore src _ _ i _ => src.core == k && src.ctx == c && src.pkg == s.pkg && i == id
    | .flatWord src _ _ i _ _ => src.core == k && src.ctx == c && src.pkg == s.pkg && i == id
    | .storeAck src i _ => src.core == k && src.ctx == c && src.pkg == s.pkg && i == id
    | _ => false

/-- The acknowledgement of the store id of a context taken from `net`, where the store went to the own package. -/
def State.takeAck (s : State) (k c id : Nat) (ok : Bool) : Option State :=
  let ours (m : NetMsg) : Bool := match m with
    | .storeAck src i o => src.core == k && src.ctx == c && src.pkg == s.pkg && i == id && o == ok
    | _ => false
  match takeFirst ours s.net with
  | some (_, rest) => some { s with net := rest }
  | none => if s.storeInside k c id then none else some s

/-- REMOTE_STORE_ACK (R141): a refused store waits for a fence that reports it; a vector store of which several elements
are refused is one refused store. That of a task that has ended is only noted (R126, R254). -/
def execRemoteStoreAck (s : State) : Result :=
  match s.agenda with
  | .remoteStoreAck k c id ok :: _ =>
    let s := s.pop
    match s.takeAck k c id ok, takeFirst (fun r : RemoteStore => r.id == id) (s.ctx k c).stores with
    | some s, some (r, rest) =>
      .next (s.updCtx k c fun x =>
        let x := { x with stores := rest }
        if ok || x.deferred.any fun d => d.store && d.ord == r.ord then x
        else { x with deferred := x.deferred ++ [{ ord := r.ord, why := .refusal r.pc, tag := none, counter := 0, cls := clsLS,
                                                   store := true }] })
    | some s, none => .next (s.updCore k fun co => { co with orphans := co.orphans.filter fun o => !(o.1 == c && o.2.id == id) })
    | none, _ => .next s
  | _ => .next s

end Sys2Proof.Machine
end

