-- ==== Sys2Proof/Machine/Package.lean ====
section
/-!
DEFINITION. BX-IO: active messages (R307 to R309), the host's accesses and SENDs (R361 to R363), control records (R304,
R364 to R366) and the forwarding of log entries (R375).
-/

namespace Sys2Proof.Machine

/-! ### Active messages (R307 to R309) -/

/-- Word n of a record. -/
def EndpointRec.word (r : EndpointRec) (n : Nat) : Word := r.words.getD n 0

/-- The source of a message as a Kind 1 entry names it (R375). -/
def EndpointRec.source (r : EndpointRec) : Word :=
  match r.put with
  | none => BitVec.ofNat 64 (r.qp % 2 ^ 24)
  | some (src, _) => BitVec.ofNat 64 (2 ^ 63 + src.req % 65536 * 2 ^ 32 + targetWord src.pkg src.core)

/-- Whether a message is turned into a record: its reserved fields, target, launch, die and tick (R308, R309). -/
def State.messageOk (s : State) (r : EndpointRec) : Bool :=
  let t := r.word 4
  match s.launches.find? r.lid with
  | none => false
  | some l =>
    bits (r.word 3) 63 48 == 0 && bits t 63 23 == 0 && bits t 2 0 == 0 && r.word 6 == 0 && r.word 7 == 0
      && targetPkg t == s.pkg && s.mapped (bits t 15 11) && l.dies.getLsbD (bits t 15 11)
      && (r.startTick == 0 || l.gang.isSome)
      && (match r.put with
          | some (_, asid) => asid == l.asid.toNat
          | none => true)

/-- The task record of a message (R308). -/
def EndpointRec.record (r : EndpointRec) : Record :=
  { pc := BitVec.ofNat 64 (4 * bits (r.word 0) 63 18), lid := BitVec.ofNat 16 r.lid
    cls := BitVec.ofNat 2 (bits (r.word 0) 1 0), args := [r.word 1, r.word 2], origin := 0
    tile := BitVec.ofNat 48 (bits (r.word 3) 47 0) }

/-- The Lid of a control record. -/
def EndpointRec.ctlLid (r : EndpointRec) : Nat := bits (r.word 0) 55 40
/-- The Type of a control record (R364). -/
def EndpointRec.ctlType (r : EndpointRec) : Nat := bits (r.word 0) 63 56

/-- The record of a staged message (R311, R319). -/
def EndpointRec.stagedRecord (r : EndpointRec) : Record := { r.record with origin := 4 }

/-- Whether the registration of a message's launch came before it and is still to be applied (R366). -/
def State.notYetLive (s : State) (r : EndpointRec) : Bool :=
  s.controls.any fun c => c.ctlType == 1 && c.ctlLid == r.lid && decide (c.seq < r.seq)

/-- ACTIVE_MESSAGE (R308, R312, R313, R319): the oldest message at BX-IO becomes a record on its way to its core, is staged
for its gang, or is discarded and logged; one that finds no room waits, and so does one whose launch's registration came first
(R366). -/
def execActiveMessage (s : State) : Result :=
  match s.agenda with
  | .activeMessage :: _ =>
    let s := s.pop
    match s.endpoint with
    | [] => .next s
    | r :: rest =>
      let t := { s with endpoint := rest }
      let k := targetCore (r.word 4)
      if s.notYetLive r then .next s
      else if !s.messageOk r then
        .next (t.logIo 1 r.lid (BitVec.ofNat 64 (8 * bits (r.word 4) 22 3)) r.source)
      else if r.startTick = 0 then
        if s.recordRoom k then .next { t with records := t.records ++ [(k, r.record)] } else .next s
      else if (s.cluster (clusterOf k)).staged.length < 64 then
        .next (t.updCluster (clusterOf k) fun x =>
          { x with staged := x.staged ++ [{ core := k, tick := r.startTick, record := r.stagedRecord }] })
      else .next s
  | _ => .next s

/-! ### The host's accesses (R362, R370) -/

/-- The physical addresses of host bytes, a refusal, or a page to wait for; BX-IO translates with supervisor privilege
(log 32). -/
def State.hostPas (s : State) (w : Window) (acc : Access) (va len : Nat) : FarAll :=
  let src : NetSrc := { pkg := s.pkg, core := 0, ctx := 0, lid := 0, req := 0, sup := true }
  let meets := (List.range len).map fun j =>
    match s.ioTranslate w.asid true acc (va + j) with
    | .mem pa => FarMeet.at pa
    | .absent => .later
    | .miss => .later
    | _ => .refused (va + j)
  if meets.any fun m => match m with | .refused _ => true | _ => false then .refused src va
  else if meets.contains .later then .later else .ok src (farPas meets)

/-- The window of an rkey that holds an access and permits it (R362). -/
def State.windowFor (s : State) (rkey va len : Nat) (write : Bool) : Option Window :=
  s.windows.find? fun w => w.rkey == rkey && decide (w.va ≤ va) && decide (va + len ≤ w.va + w.len)
    && if write then w.wr else w.rd

/-- A host access that is refused: a remote-access NAK and a Kind 12 entry (R362, R375). -/
def State.hostRefuse (s : State) (qp rkey va : Nat) : State :=
  let s := s.logIo 12 0 (BitVec.ofNat 64 (qp % 2 ^ 24 * 2 ^ 32 + rkey % 2 ^ 32)) (BitVec.ofNat 64 va)
  { s with hostOut := s.hostOut ++ [.nak qp] }

/-- The oldest held WRITE of a queue pair. -/
def State.heldOf (s : State) (qp : Nat) : Option (Nat × Nat × Nat × List Byte) := s.hostHeld.find? fun h => h.1 == qp

/-- HOST_RDMA_WRITE (R362): performed before its ACK; one that meets an absent page is held, and is performed by a later
step with the same operands. One behind a held one of its queue pair is held too, since an ACK covers what came before. -/
def execHostRdmaWrite (s : State) : Result :=
  match s.agenda with
  | .hostRdmaWrite qp rkey va bytes :: _ =>
    let s := s.pop
    let me := (qp, rkey, va, bytes)
    let t := { s with hostHeld := s.hostHeld.erase me }
    let hold (s : State) : State := if s.hostHeld.contains me then s else { s with hostHeld := s.hostHeld ++ [me] }
    if ((s.heldOf qp).map fun h => h != me).getD false then .next (hold s)
    else match s.windowFor rkey va bytes.length true with
      | none => .next (t.hostRefuse qp rkey va)
      | some w =>
        match s.hostPas w .write va bytes.length with
        | .ok _ pas =>
          if !s.tokensHeld ioHolder true pas then .next (hold (s.wantTokens ioHolder true pas .host))
          else
            let t := t.writeAt pas bytes
            .next { t with hostOut := t.hostOut ++ [.ack qp] }
        | .refused _ _ => .next (t.hostRefuse qp rkey va)
        | _ => .next (hold s)
  | _ => .next s

/-- HOST_RDMA_READ (R362, R370): the bytes, or a NAK for a poisoned word; one that meets an absent page, or
comes behind a held WRITE, is held at its queue pair. -/
def execHostRdmaRead (s : State) : Result :=
  match s.agenda with
  | .hostRdmaRead qp rkey va len :: _ =>
    let s := s.pop
    if (s.heldOf qp).isSome then .next s
    else match s.windowFor rkey va len false with
    | none => .next (s.hostRefuse qp rkey va)
    | some w =>
      match s.hostPas w .read va len with
      | .ok _ pas =>
        if pas.any fun pa => poisonedAt s.poison pa 1 then .next { s with hostOut := s.hostOut ++ [.nak qp] }
        else if !s.tokensHeld ioHolder false pas then .next (s.wantTokens ioHolder false pas .host)
        else .next { s.holderReads ioHolder pas with hostOut := s.hostOut ++ [.readData qp (pas.map (cell s.mem))] }
      | .refused _ _ => .next (s.hostRefuse qp rkey va)
      | _ => .next s
  | _ => .next s

/-- HOST_SEND (R362, R363): the records of a SEND join their queue, or it is answered with RNR NAK. One whose queue pair has
a WRITE held is not processed yet; one that is not a whole number of records is dropped and counted (log 33), and so is a packet
outside the options of R361, with no log entry. -/
def execHostSend (s : State) : Result :=
  match s.agenda with
  | .hostSend qp control payload :: _ =>
    let s := s.pop
    let n := payload.length / 8
    let recs : List EndpointRec := (List.range n).map fun i => { words := (payload.drop (8 * i)).take 8, qp := qp, seq := s.endSeq + 1 }
    if payload.length % 8 ≠ 0 then .next { s with dropped := s.dropped + 1 }
    else if (s.heldOf qp).isSome then .next s
    else if !s.endpointRoom n then .next { s with hostOut := s.hostOut ++ [.rnr qp] }
    else
      let s := { s with hostOut := s.hostOut ++ [HostMsg.ack qp], endSeq := s.endSeq + 1 }
      .next (if control then { s with controls := s.controls ++ recs } else { s with endpoint := s.endpoint ++ recs })
  | .hostOutside _ :: _ => .next { s.pop with dropped := s.dropped + 1 }
  | _ => .next s

/-- LOG_FORWARD (R375): the oldest entry that waits goes to the host. -/
def execLogForward (s : State) : Result :=
  match s.agenda with
  | .logForward :: _ =>
    let s := s.pop
    match s.forward with
    | [] => .next s
    | e :: rest => .next { s with forward := rest, hostOut := s.hostOut ++ [.log e] }
  | _ => .next s

/-! ### Control records (R304, R364 to R366) -/

/-- What reading the extension block gives: its bytes and where they lie, a status, or a page (no address) or tokens to wait for (R365). -/
inductive ExtRead where
  | bytes (l : List Byte) (pas : List Nat)
  | bad
  | later (lacking : List Nat)
  deriving DecidableEq, Repr

/-- n bytes of an extension block, read as a host read is (R362, R365). -/
def State.extRead (s : State) (asid : BitVec 13) (va n : Nat) : ExtRead :=
  match s.windows.find? fun w => w.asid == asid && decide (w.va ≤ va) && decide (va + n ≤ w.va + w.len) && w.rd with
  | none => .bad
  | some w =>
    match s.hostPas w .read va n with
    | .ok _ pas =>
      if pas.any fun pa => poisonedAt s.poison pa 1 then .bad
      else if !s.tokensHeld ioHolder false pas then .later pas
      else .bytes (pas.map (cell s.mem)) pas
    | .refused _ _ => .bad
    | _ => .later []

/-- The number in n bytes of a list from an offset. -/
def fieldAt (l : List Byte) (off n : Nat) : Nat := ofBytes ((l.drop off).take n)

/-- Channel entry of an extension block (R365). -/
def chanAt (l : List Byte) (i : Nat) : ChanEntry :=
  let w : Word := BitVec.ofNat 64 (fieldAt l (80 + 8 * i) 8)
  { channel := bits w 5 0, part := bits w 12 6, maxRun := bits w 15 13, cls := bits w 17 16
    pc := BitVec.ofNat 64 (4 * bits w 63 18) }

/-- Stage of an extension block with nc channel entries (R365). -/
def stageAt (l : List Byte) (nc i : Nat) : Stage :=
  let w : Word := BitVec.ofNat 64 (fieldAt l (80 + 8 * nc + 4 * i) 4)
  { channel := bits w 5 0, wMin := bits w 11 8, wMax := bits w 15 12 }

/-- Whether no channel is named twice (R304). -/
def channelsOnce (l : List ChanEntry) : Bool := (l.map ChanEntry.channel).dedup.length == l.length

/-- The limits of a registration's extension (R304, R319, R365; log 34). -/
def Launch.extOk (l : Launch) : Bool :=
  ((List.range 32).all fun v =>
      let n := l.reserve.get v 0
      if l.dies.getLsbD v then decide (1 ≤ n) && decide (n ≤ 64) else n == 0)
    && decide (l.chans.length ≤ 64) && decide (l.stages.length ≤ 8) && channelsOnce l.chans
    && (l.chans.all fun c => decide (1 ≤ c.part)) && decide ((l.chans.map ChanEntry.part).sum ≤ 256)
    && (l.stages.all fun g => decide (1 ≤ g.wMin) && decide (g.wMin ≤ g.wMax) && decide (g.wMax ≤ 8))
    && match l.gang with
       | none => true
       | some g => decide (2 ≤ ((List.range 128).filter g.packages.testBit).length) && decide (10000 ≤ g.period)

/-- The launch that the words of a Type 1 record describe, its extension apart (R364). -/
def EndpointRec.launch (r : EndpointRec) : Launch :=
  let w := r.word 0
  let dies : BitVec 32 := BitVec.ofNat 32 (bits (r.word 3) 31 0)
  { asid := BitVec.ofNat 13 (bits w 39 27), cls := BitVec.ofNat 2 (bits w 19 18), cap := BitVec.ofNat 2 (bits w 26 25)
    kp := r.word 1, split := bits w 24 21, fuse := bit w 20, grant := r.word 2, chans := [], dies := dies
    reserve := ((List.range 32).filter dies.getLsbD).map fun v => (v, 1)
    predl := BitVec.ofNat 32 (bits (r.word 3) 63 32), stages := [], gang := none }

/-- The launch with what its extension block says (R365). -/
def Launch.withExt (l : Launch) (b : List Byte) : Launch :=
  let nc := fieldAt b 32 1
  { l with reserve := ((List.range 32).filter fun v => fieldAt b v 1 != 0).map fun v => (v, fieldAt b v 1)
           chans := (List.range nc).map (chanAt b)
           stages := (List.range (fieldAt b 33 1)).map (stageAt b nc)
           gang := if fieldAt b 34 1 % 2 = 1 then
               some { packages := fieldAt b 40 16, t0 := fieldAt b 56 8, period := fieldAt b 64 8, sliceLen := fieldAt b 72 8 }
             else none }

/-- Whether the words of a Type 1 record are within their limits (R304, R364). -/
def State.registerOk (s : State) (r : EndpointRec) : Bool :=
  let l := r.launch
  bits (r.word 0) 17 0 == 0 && bits (r.word 4) 63 48 == 0 && r.word 5 == 0 && r.word 6 == 0 && r.word 7 == 0
    && bits (r.word 1) 63 48 == 0 && r.ctlLid != 0 && decide (l.split ≤ 8) && decide (l.cls.toNat ≤ l.cap.toNat) && l.predl != 0 && l.dies != 0
    && (List.range 32).all fun v => !l.dies.getLsbD v || s.mapped v

/-- A control record is answered with a status; a nonzero one is logged (R366). -/
def State.answerControl (s : State) (r : EndpointRec) (status : Nat) : State :=
  let s := if status = 0 then s else s.logIo 9 r.ctlLid (r.word 0) (BitVec.ofNat 64 status)
  { s with hostOut := s.hostOut ++ [.reply (r.word 0) (BitVec.ofNat 64 status)] }

/-- A launch is registered: it waits in the queue of its class (R304, R317). -/
def State.register (s : State) (lid : Nat) (l : Launch) : State :=
  { s with launches := s.launches.set lid l, classQ := s.classQ ++ [lid], registeredOnce := true }

/-- What a Type 1 record does to a package: the state and the status, or none while a page or tokens of its block are waited for
(R304, R364 to R366). -/
def State.registerLaunch (s : State) (r : EndpointRec) : State × Option Nat :=
  let l := r.launch
  let later (pas : List Nat) : State × Option Nat := (s.wantTokens ioHolder false pas .host, none)
  if !s.registerOk r then (s, some 1)
  else if (s.launches.find? r.ctlLid).isSome then (s, some 2)
  else
    let ext := bits (r.word 4) 47 0
    if ext = 0 then (s.register r.ctlLid l, some 0)
    else match s.extRead l.asid ext 80 with
      | .bad => (s, some 3)
      | .later pas => later pas
      | .bytes b _ =>
        if 64 < fieldAt b 32 1 ∨ 8 < fieldAt b 33 1 then (s, some 1)
        else match s.extRead l.asid ext (80 + 8 * fieldAt b 32 1 + 4 * fieldAt b 33 1) with
          | .bad => (s, some 3)
          | .later pas => later pas
          | .bytes b pas =>
            let l := l.withExt b
            let s := s.holderReads ioHolder pas
            if l.extOk then (s.register r.ctlLid l, some 0) else (s, some 1)

/-- REGISTER_LAUNCH (R304, R364 to R366): the oldest control record, unless it is of Type 2, is applied and answered. -/
def execRegisterLaunch (s : State) : Result :=
  match s.agenda with
  | .registerLaunch :: _ =>
    let s := s.pop
    match s.controls with
    | [] => .next s
    | r :: rest =>
      if r.ctlType = 2 then .next s
      else if r.ctlType ≠ 1 then .next ({ s with controls := rest }.answerControl r 5)
      else match s.registerLaunch r with
        | (t, none) => .next t
        | (t, some status) => .next ({ t with controls := rest }.answerControl r status)
  | _ => .next s

/-- Whether a coach of a launch is resident or saved, or a record of it waits (R304). -/
def State.launchBusy (s : State) (lid : Nat) : Bool :=
  let is (n : BitVec 16) : Bool := n.toNat == lid
  (s.clusters.any fun p => (p.2.coaches.any fun c => is c.lid) || (p.2.staged.any fun m => is m.record.lid)
      || (p.2.ring.any fun g => is (s.readSlot p.1 g).lid) || (p.2.spill.any fun r => is r.2.lid) || p.2.cards.any fun j => is j.2.lid)
    || (s.cores.any fun p => p.2.arrivals.any fun r => is r.lid) || s.records.any fun r => is r.2.lid

/-- A launch is retired: its reservations and PREQs go, and it leaves its queue (R304). -/
def State.retire (s : State) (lid : Nat) : State :=
  let s := s.unplace lid
  { s with launches := s.launches.erase lid, layerKinds := s.layerKinds.erase lid, classQ := s.classQ.filter (· != lid)
           gangReady := s.gangReady.filter fun g => g.1 != lid, gangStart := s.gangStart.filter fun g => g.1 != lid
           slices := s.slices.filter fun g => g.1 != lid, freezes := s.freezes.filter fun g => g.1 != lid
           releases := s.releases.filter fun g => g.1 != lid, frozenLids := s.frozenLids.filter (· != lid) }

/-- RETIRE_LAUNCH (R304, R366): the oldest control record, of Type 2, is applied and answered. -/
def execRetireLaunch (s : State) : Result :=
  match s.agenda with
  | .retireLaunch :: _ =>
    let s := s.pop
    match s.controls with
    | [] => .next s
    | r :: rest =>
      let t := { s with controls := rest }
      if r.ctlType ≠ 2 then .next s
      else if bits (r.word 0) 39 0 ≠ 0 ∨ (List.range 7).any (fun i => r.word (i + 1) != 0) then .next (t.answerControl r 1)
      else if (s.launches.find? r.ctlLid).isNone then .next (t.answerControl r 2)
      else if s.launchBusy r.ctlLid then .next (t.answerControl r 4)
      else .next ((t.retire r.ctlLid).answerControl r 0)
  | _ => .next s

end Sys2Proof.Machine
end

