-- ==== Sys2Proof/Machine/Token.lean ====
section
/-!
DEFINITION. The token protocol (R268 to R276): its messages and the steps that receive them. The accesses of instructions
and engines take the tokens that they need in their own step unless they must wait (`State.lineBlocked`; log 35); what stands here
is the traffic of the messages.
-/

namespace Sys2Proof.Machine

/-! ### Holders (R266, R269) -/

/-- Whether a number names a holder of tokens. -/
def State.isHolder (s : State) (h : Nat) : Bool := (decide (h < 32) && s.mapped h) || h == homeHolder || h == ioHolder

/-- The holders of a line's tokens. -/
def State.holders (s : State) : List Nat := (List.range 34).filter s.isHolder

/-- A line, changed by f. -/
def State.updLine (s : State) (n : Nat) (f : Line → Line) : State := { s with lines := s.lines.set n (f (s.line n)) }

/-! ### Sending tokens (R270, R272, R275) -/

/-- The answer to a ReqRead: only the owner's holder answers, with one token and data (R272). -/
def Line.answerRead (l : Line) (h dst : Nat) : Line :=
  if l.owner ≠ some h ∨ h = dst then l
  else if l.count h ≤ 1 then l.sendAll h dst
  else
    { l with tokens := l.tokens.put 0 h (l.count h - 1)
             flying := l.flying ++ [{ dst := dst, count := 1, owner := false, data := true }] }

/-- The answer of a holder to a transient request; it ignores one while it obeys a persistent request (R272, R273). -/
def Line.answer (l : Line) (h dst : Nat) (write : Bool) : Line :=
  if (l.obeying.find? h).isSome then l else if write then l.sendAll h dst else l.answerRead h dst

/-- A transient request reaches a holder: it is answered, or waits for the sequence that keeps the tokens (R272). -/
def Line.take (l : Line) (h r : Nat) (write : Bool) (num : Nat) : Line :=
  if !l.asks.contains (h, r, write, num) ∨ l.kept h then l
  else { l with asks := l.asks.erase (h, r, write, num) }.answer h r write

/-- REQ_READ (R272). -/
def execReqRead (s : State) : Result :=
  match s.agenda with
  | .reqRead h n r num :: _ => .next (s.pop.updLine n fun l => l.take h r false num)
  | _ => .next s

/-- REQ_WRITE (R272). -/
def execReqWrite (s : State) : Result :=
  match s.agenda with
  | .reqWrite h n r num :: _ => .next (s.pop.updLine n fun l => l.take h r true num)
  | _ => .next s

/-! ### Requesters (R271, R273) -/

/-- TOKENS (R1, R270, R272, R273): tokens reach a holder; one that obeys another's persistent request sends them on. A full slice
makes room first; while it can evict no line they stay on their way (log 69). -/
def execTokens (s : State) : Result :=
  match s.agenda with
  | .tokens n i :: _ =>
    let s := s.pop
    let l := s.line n
    match l.flying[i]? with
    | none => .next s
    | some m =>
      let t := ({ l with flying := l.flying.eraseIdx i }.receive m).settle.finish m.dst
      match (t.obeying.find? m.dst).filter fun r => r != m.dst && !t.kept m.dst with
      | some r => .next (s.updLine n fun _ => t.sendAll m.dst r)
      | none => if s.noRoom m.dst n then .next s else .next (s.takeLine m.dst n fun _ => t)
  | _ => .next s

/-- TRANSIENT_ATTEMPT (R271, R273): a requester that lacks tokens sends its request, with its number, to the home and every other
holder, up to four times; at or beyond 3,072 GB there is no line (R1). -/
def execTransientAttempt (s : State) : Result :=
  match s.agenda with
  | .transientAttempt n r write :: _ =>
    let s := s.pop
    if !s.isHolder r || r == homeHolder || decide (memorySize ≤ 128 * n) then .next s
    else
      .next (s.updLine n fun l =>
        let l := l.settle
        let num := l.reqNum + 1
        let asks := ((s.holders).filter (· != r)).map fun h => (h, r, write, num)
        if l.satisfied r write then l
        else match l.reqs.find? fun q => q.requester == r with
          | none =>
            { l with reqs := l.reqs ++ [{ requester := r, write := write, since := s.ptc }]
                     asks := l.asks ++ asks, reqNum := num }
          | some q =>
            if q.persistent || q.write != write || decide (4 ≤ q.attempts) then l
            else { l with reqs := updFirst (fun q => q.requester == r) (fun q => { q with attempts := q.attempts + 1 }) l.reqs
                          asks := l.asks ++ asks, reqNum := num })
  | _ => .next s

/-- How many persistent requests a requester has outstanding: those of the line's slice on a die, all of BX-IO (R273). -/
def State.outstanding (s : State) (n r : Nat) : Nat :=
  (s.lines.filter fun p => (r == ioHolder || homeSlice p.1 == homeSlice n) &&
    p.2.reqs.any fun q => q.requester == r && q.persistent).length

/-- TRANSIENT_TIMEOUT (R273): a request that four attempts or 2 µs have not satisfied becomes persistent. -/
def execTransientTimeout (s : State) : Result :=
  match s.agenda with
  | .transientTimeout n r :: _ =>
    let s := s.pop
    let room := decide (s.outstanding n r < (if r = ioHolder then 4 else 1))
    .next (s.updLine n fun l =>
      let l := l.settle
      match l.reqs.find? fun q => q.requester == r with
      | none => l
      | some q =>
        if q.persistent || !room || (decide (q.attempts < 4) && decide (s.ptc < q.since + 2000)) then l
        else { l with reqs := updFirst (fun q => q.requester == r) (fun q => { q with persistent := true }) l.reqs
                      asked := l.asked ++ [r] })
  | _ => .next s

/-! ### Persistent requests (R273) -/

/-- The home activates the next queued request, when none is active: PersistOn goes to every holder. -/
def Line.activate (l : Line) (holders : List Nat) : Line :=
  match l.active, l.table with
  | none, r :: rest =>
    let num := l.actNum + 1
    { l with active := some r, table := rest, actNum := num, ons := l.ons ++ holders.map fun h => (h, num.toNat, r) }
  | _, _ => l

/-- PERSIST_REQ (R271, R273): a persistent request reaches the home, in no order among those under way. -/
def execPersistReq (s : State) : Result :=
  match s.agenda with
  | .persistReq n r :: _ =>
    let s := s.pop
    .next (s.updLine n fun l =>
      if l.asked.contains r then { l with asked := l.asked.erase r, table := l.table ++ [r] }.activate s.holders else l)
  | _ => .next s

/-- Whether an activation number is older than the latest that a holder has seen (R273). -/
def Line.stale (l : Line) (h num : Nat) : Bool :=
  let seen := (l.seen.get h 0).toNat
  let d := (65536 + seen - num % 65536) % 65536
  (l.seen.find? h).isSome && d != 0 && decide (d < 32768)

/-- PERSIST_ON (R135, R273): a holder sends its tokens to the active requester, and obeys it from now on. A constrained
LR/SC sequence keeps them first; another reservation may be lost. -/
def execPersistOn (s : State) : Result :=
  match s.agenda with
  | .persistOn h n num :: _ =>
    let s := s.pop
    let l := s.line n
    match l.ons.find? fun m => m.1 == h && m.2.1 == num with
    | none => .next s
    | some m =>
      if l.kept h then .next s
      else
        let l := { l with ons := l.ons.erase m }
        if l.stale h num then .next (s.updLine n fun _ => l)
        else
          let lost := Config.reservationLost s.free && h != m.2.2 && decide (l.count h ≠ 0)
          let l := { l with seen := l.seen.set h (BitVec.ofNat 16 num), obeying := l.obeying.set h m.2.2 }.sendAll h m.2.2
          let l := l.finish h
          let clear (k : Nat) (co : Core) : Core :=
            if lost && (vdnOf k == h || h == ioHolder) then { co with ctxs := co.ctxs.mapVal fun _ x => x.loseLine n } else co
          .next { (s.updLine n fun _ => l).tick with cores := s.cores.mapVal clear }
  | _ => .next s

/-- PERSIST_OFF (R273): a holder answers transient requests again. -/
def execPersistOff (s : State) : Result :=
  match s.agenda with
  | .persistOff h n num :: _ =>
    .next (s.pop.updLine n fun l =>
      match l.offs.find? fun m => m.1 == h && m.2.1 == num with
      | none => l
      | some m =>
        let l := { l with offs := l.offs.erase m }
        if l.stale h num then l else { l with seen := l.seen.set h (BitVec.ofNat 16 num), obeying := l.obeying.erase h })
  | _ => .next s

/-- Whether an access that waits for a line's tokens is still to be made: its context waits at the line, its request runs, its message is at
BX-IO, or its unit has work (R273, R274). -/
def State.stillWaits (s : State) (h n : Nat) (write : Bool) : Waiter → Bool
  | .ctx k c => (s.ctx k c).run == .waiting (.line h n write)
  | .req k num => (s.core k).reqs.any fun r => r.num == num && r.state == .running && !r.failed
  | .msg m => s.net.contains m
  | .mx k => !(s.core k).mxq.isEmpty
  | .slot k m => ((s.core k).slots.find? m).isSome
  | .spill cl => !(s.cluster cl).spill.isEmpty
  | .ring cl => !(s.cluster cl).ring.isEmpty
  | .card cl m => ((s.cluster cl).cards.find? m).isSome
  | .owed cl => !(s.cluster cl).owed.isEmpty
  | .tier => !s.tierCounts.isEmpty || s.tiles.any fun t => t.2.state == .promoting
  | .host => true

/-- A requester whose waiting access was given up, its context killed, trapped or saved, waits with it no more; without another it is done
with its persistent request (R273, R274). -/
def State.giveUp (s : State) (h n : Nat) (l : Line) : Line :=
  { l with wants := l.wants.filter fun w => w.1 != h || s.stillWaits h n w.2.1 w.2.2 }.finish h

/-- PERSIST_DONE (R271, R273): the message of the active requester reaches the home, which broadcasts PersistOff and activates the
next request; one that names an older activation does nothing. Where there is none yet, the requester looks whether it is still to be
sent; a home whose active requester's die has left activates the next one. -/
def execPersistDone (s : State) : Result :=
  match s.agenda with
  | .persistDone n r num :: _ =>
    let s := s.pop
    .next (s.updLine n fun l =>
      if !l.dones.contains (r, num) then (s.giveUp r n l).activate s.holders
      else
        let l := { l with dones := l.dones.erase (r, num) }
        if l.active ≠ some r ∨ l.actNum.toNat ≠ num then l
        else { l with active := none, offs := l.offs ++ s.holders.map fun h => (h, num, r) }.activate s.holders)
  | _ => .next s

/-! ### Evictions, and the end of a constrained sequence (R135, R270, R352) -/

/-- LINE_EVICTION (R270): a slice sends its tokens of a line to the home. -/
def execLineEviction (s : State) : Result :=
  match s.agenda with
  | .lineEviction h n :: _ =>
    let s := s.pop
    if 32 ≤ h ∨ s.pinned h n ∨ (s.line n).kept h then .next s
    else .next (s.updLine n fun l => l.sendAll h homeHolder)
  | _ => .next s

/-- CONSTRAINED_SEQUENCE_LIMIT (R135, R272): 256 cycles after its LR, the tokens of a context's constrained sequence are kept no longer,
and the requests that waited at their holder are answered. -/
def execConstrainedSequenceLimit (s : State) : Result :=
  match s.agenda with
  | .constrainedSequenceLimit k c :: _ =>
    let s := s.pop
    match List.find? (fun (p : Nat × Line) => p.2.keptBy k c) s.lines with
    | none => .next s
    | some (n, l) =>
      let mine := l.held.filter fun p => p.core == k && p.ctx == c
      if mine.any fun p => decide (s.cycles.get (vdnOf k) 0 < p.since + 256) then .next s
      else
        .next (s.updLine n fun l =>
          let l := { l with held := l.held.filter fun p => !(p.core == k && p.ctx == c) }
          let waits := l.asks.filter fun a => mine.any fun p => p.holder == a.1
          waits.foldl (fun l a => l.take a.1 a.2.1 a.2.2.1 a.2.2.2) l)
  | _ => .next s

end Sys2Proof.Machine
end

