-- ==== Sys2Proof/Machine/Tier.lean ====
section
/-!
DEFINITION. The tier manager (R352 to R354): its commands at a tile's home entry, and the ends of a promotion and of an
eviction.
-/

namespace Sys2Proof.Machine

/-! ### Commands (R353) -/

/-- Op of a command. -/
def tierOp (w0 : Word) : Nat := bits w0 63 62
/-- User of a command. -/
def tierUser (w0 : Word) : Nat := bits w0 61 46
/-- The base of a command's tile. -/
def tierBase (w0 w1 : Word) : Nat := bits w1 4 0 * 2 ^ 47 + bits w0 39 0 * 128
/-- The counter address of a command; 0 for none. -/
def tierCnt (w3 : Word) : Nat := 8 * bits w3 63 3

/-- A counter receives 1 (R353), or waits for its translation, its page or its tokens. One whose access is denied receives nothing
(log 36). The record names no address space and no privilege for it: the model's choice is the ASID that comes with the step, and
supervisor privilege (log 86). -/
def State.tierAdd (s : State) (p : Nat × Nat) : State :=
  let later (s : State) : State := { s with tierCounts := s.tierCounts ++ [p] }
  match s.ioTranslate (BitVec.ofNat 13 p.2) true .readWrite p.1 with
  | .mem pa =>
    if s.tokensHeld ioHolder true [pa] then s.memWrite ioHolder none pa 8 ((s.memRead pa 8 + 1) % 2 ^ 64)
    else later (s.wantTokens ioHolder true [pa] .tier)
  | .absent => later s
  | .miss => later s
  | _ => s

/-- A command with a counter at an address of an ASID completes (R353). -/
def State.tierDone (s : State) (cnt asid : Nat) : State := if cnt = 0 then s else s.tierAdd (cnt, asid)

/-- The counters that wait are tried again, as every step of a tier manager begins. -/
def State.tierRetry (s : State) : State := s.tierCounts.foldl State.tierAdd { s with tierCounts := [] }

/-- Counters of completed commands, in order. -/
def State.tierDoneAll (s : State) (l : List (Nat × Nat)) : State := l.foldl (fun s p => s.tierDone p.1 p.2) s

/-- A refused command completes with no effect, and the error is logged by its BX-M (R353, R375). -/
def State.tierBad (s : State) (w0 w1 w3 : Word) (asid : Nat) : State :=
  (s.logOn 1 (bxmOf (tierBase w0 w1)) 9 0 (65536 * s.pkg) w0 1).tierDone (tierCnt w3) asid

/-- The tile at a base. -/
def State.tile (s : State) (base : Nat) : Option Tile := s.tiles.find? base
/-- The tile at a base, replaced. -/
def State.setTile (s : State) (base : Nat) (t : Tile) : State := { s with tiles := s.tiles.set base t }

/-- A command's user, added once (R354). -/
def Tile.addUser (t : Tile) (u : Nat) : Tile := if t.users.contains u then t else { t with users := t.users ++ [u] }

/-- A promote at the home entry; behind a command that waits it waits too: they act in arrival order (R354). The base alone names the
tile, the model's choice: a later promote's geometry is not looked at (log 84). -/
def State.promote (s : State) (base : Nat) (c : TierCmd) : State :=
  match s.tile base with
  | none =>
    s.setTile base { state := .promoting, users := [c.user], vdn := c.vdn, geo := c.geo, promoting := [(c.cnt, c.asid)] }
  | some t =>
    match t.state with
    | .promoting =>
      if t.waiting.isEmpty then s.setTile base { t.addUser c.user with promoting := t.promoting ++ [(c.cnt, c.asid)] }
      else s.setTile base { t with waiting := t.waiting ++ [c] }
    | .held => (s.setTile base (t.addUser c.user)).tierDone c.cnt c.asid
    | .evicting => s.setTile base { t with waiting := t.waiting ++ [c] }

/-- An evict at the home entry, in arrival order (R354). -/
def State.evict (s : State) (base : Nat) (c : TierCmd) : State :=
  match s.tile base with
  | none => s.tierDone c.cnt c.asid
  | some t =>
    match t.state with
    | .promoting => s.setTile base { t with waiting := t.waiting ++ [c] }
    | .evicting =>
      if t.waiting.isEmpty then s.tierDone c.cnt c.asid else s.setTile base { t with waiting := t.waiting ++ [c] }
    | .held =>
      let left := t.users.filter (· != c.user)
      if !t.users.contains c.user then s.tierDone c.cnt c.asid
      else if left.isEmpty then s.setTile base { t with users := [], state := .evicting, evicting := [(c.cnt, c.asid)] }
      else (s.setTile base { t with users := left }).tierDone c.cnt c.asid

/-- A command, acted on. -/
def State.tierAct (s : State) (base : Nat) (c : TierCmd) : State := if c.promote then s.promote base c else s.evict base c

/-- A record of an operation: refused when its Op is 3, its geometry breaks R245 or its die is unmapped (R353; log 36). A tile whose rows
overlap counts as breaking R245, whose rule is on destinations: the model's choice (log 85). So is that a tile which reaches 3,072 GB or
more is not refused: it has only the lines below (log 69). -/
def State.tierCommand (s : State) (op : Nat) (w0 w1 w2 w3 : Word) (asid : Nat) (f : State → Nat → TierCmd → State) : State :=
  if tierOp w0 ≠ op ∧ tierOp w0 ≠ 3 then s
  else if tierOp w0 = 3 ∨ !boxOk w2 ∨ !boxApart w2 ∨ (op = 0 ∧ !s.mapped (bits w0 45 41)) then s.tierBad w0 w1 w3 asid
  else f s (tierBase w0 w1)
    { promote := op == 0, user := tierUser w0, vdn := bits w0 45 41, geo := w2, cnt := tierCnt w3, asid := asid }

/-- TIER_PROMOTE (R353, R354). -/
def execTierPromote (s : State) : Result :=
  match s.agenda with
  | .tierPromote w0 w1 w2 w3 asid :: _ => .next (s.pop.tierRetry.tierCommand 0 w0 w1 w2 w3 asid State.promote)
  | _ => .next s

/-- TIER_EVICT (R353, R354). -/
def execTierEvict (s : State) : Result :=
  match s.agenda with
  | .tierEvict w0 w1 w2 w3 asid :: _ => .next (s.pop.tierRetry.tierCommand 1 w0 w1 w2 w3 asid State.evict)
  | _ => .next s

/-- TIER_QUERY (R353): it completes. -/
def execTierQuery (s : State) : Result :=
  match s.agenda with
  | .tierQuery w0 w1 w2 w3 asid :: _ =>
    .next (s.pop.tierRetry.tierCommand 2 w0 w1 w2 w3 asid fun s _ c => s.tierDone c.cnt c.asid)
  | _ => .next s

/-! ### The ends of the moves (R352, R354) -/

/-- The lines of a tile: those of package memory (R1; log 69). -/
def tileLines (base : Nat) (geo : Word) : List Nat :=
  (((List.range (boxCount2 geo)).flatMap fun i2 => (List.range (boxCount1 geo)).flatMap fun i1 =>
    let a := base + boxStride1 geo * i1 + boxStride2 geo * i2
    (List.range ((a + boxLen0 geo + 127) / 128 - a / 128)).map (a / 128 + ·)).dedup).filter fun n => decide (128 * n < memorySize)

/-- The lines that tiles keep pinned on a die, a tile that is still promoting apart (R352). -/
def State.pinnedOn (s : State) (vdn : Nat) : List Nat :=
  s.tiles.flatMap fun p => if p.2.vdn = vdn ∧ p.2.state ≠ .promoting then tileLines p.1 p.2.geo else []

/-- Whether the tier storage of a die, the L2 ways that firmware reserves in each slice, has room for some lines more (R352). -/
def State.tierRoom (s : State) (vdn : Nat) (lines : List Nat) : Bool :=
  let all := s.pinnedOn vdn ++ lines
  lines.all fun n => decide ((all.filter fun m => homeSlice m == homeSlice n).length ≤ sliceLines / 8 * s.tierWays)

/-- Whether the slices of a die can take some lines together: in each, they and the lines that it may not evict are no more than it
holds (R1, R352). -/
def State.slicesTake (s : State) (vdn : Nat) (lines : List Nat) : Bool :=
  let fixed := (s.lines.filter fun p =>
    !lines.contains p.1 && p.2.count vdn != 0 && s.stays vdn p.1 p.2).map Prod.fst ++ lines
  lines.all fun n => decide ((fixed.filter fun m => homeSlice m == homeSlice n).length ≤ sliceLines)

/-- TILE_HELD (R352, R354): every line is pinned in the named die's slices, the waiting promotes complete, and the waiting
commands run. It waits for room in the tier storage and for the lines' tokens; a die that has left the package holds no tile
(log 36). -/
def execTileHeld (s : State) : Result :=
  match s.agenda with
  | .tileHeld base :: _ =>
    let s := s.pop.tierRetry
    match s.tile base with
    | none => .next s
    | some t =>
      let lines := tileLines base t.geo
      if t.state ≠ .promoting ∨ !s.mapped t.vdn ∨ !s.tierRoom t.vdn lines ∨ !s.slicesTake t.vdn lines ∨
          lines.any (fun n => !(s.line n).held.isEmpty) then .next s
      else match lines.find? fun n => s.lineBlocked t.vdn n true with
      | some n => .next (s.want t.vdn n true .tier)
      | none =>
        let s := lines.foldl (fun s n => s.takeLine t.vdn n (fun l => (l.own t.vdn).accessed t.vdn true) lines) s
        let s := (s.setTile base { t with state := .held, promoting := [], waiting := [] }).tierDoneAll t.promoting
        .next (t.waiting.foldl (fun s c => s.tierAct base c) s)
  | _ => .next s

/-- TILE_ABSENT (R352, R354): the last line has returned its tokens, the evict that dropped the last reference completes, and
the waiting commands run. -/
def execTileAbsent (s : State) : Result :=
  match s.agenda with
  | .tileAbsent base :: _ =>
    let s := s.pop.tierRetry
    match s.tile base with
    | none => .next s
    | some t =>
      if t.state ≠ .evicting then .next s
      else
        let s := (tileLines base t.geo).foldl (fun s n => s.updLine n fun l => l.goHome t.vdn) s
        let s := { s with tiles := s.tiles.erase base }.tierDoneAll t.evicting
        .next (t.waiting.foldl (fun s c => s.tierAct base c) s)
  | _ => .next s

end Sys2Proof.Machine
end

