-- ==== Sys2Proof/Machine/Links.lean ====
section
/-!
DEFINITION. Links (R356, R357), the loss of a compute die (R358), the package time counter (R359, R360) and the VDN table
(R22 to R25). Links 4p to 4p + 3 are the die-to-die links of physical compute die p, links 128 to 143 the edge links (log 21).
-/

namespace Sys2Proof.Machine

/-! ### Log entries without a listed Kind -/

/-- Logs an event for which R375 lists no Kind: its Kind and words are free (log 4). -/
def State.logUnlisted (s : State) (cls unit : Nat) : State :=
  let e := Config.unlistedLog s.free
  (s.logOn cls unit (e.1 % 256) 0 (65536 * s.pkg) e.2.1 e.2.2).tick

/-! ### Replays and retraining (R356, R357) -/

/-- Whether a number names a link of the package: an edge link, or a die-to-die link of an enabled die (R23, R27, R28; log 21). -/
def State.hasLink (s : State) (n : Nat) : Bool :=
  (decide (128 ≤ n) && decide (n < 144)) || s.vdns.any fun p => decide (4 * p.2 ≤ n) && decide (n < 4 * p.2 + 4)

/-- A link. -/
def State.link (s : State) (n : Nat) : Link := s.links.get n {}
/-- A link, replaced. -/
def State.setLink (s : State) (n : Nat) (l : Link) : State := { s with links := s.links.set n l }

/-- LINK_UNIT_REPLAY (R356, R357): a unit's check fails, again when a replay of it fails; after 16 failed replays of one unit
the link is retrained. -/
def execLinkUnitReplay (s : State) : Result :=
  match s.agenda with
  | .linkUnitReplay n again :: _ =>
    let s := s.pop
    let l := s.link n
    if l.down || l.retraining || !s.hasLink n then .next s
    else if !again then .next (s.setLink n { l with fails := 0 })
    else if l.fails + 1 < 16 then .next (s.setLink n { l with fails := l.fails + 1 })
    else .next ((s.setLink n { l with fails := 0, retraining := true }).logIo 6 0 (BitVec.ofNat 64 n) 0)
  | _ => .next s

/-- LINK_RETRAIN (R357): the retraining ends; where it fails the link is down, and the event is logged. -/
def execLinkRetrain (s : State) : Result :=
  match s.agenda with
  | .linkRetrain n ok :: _ =>
    let s := s.pop
    if !(s.link n).retraining then .next s
    else if ok then .next (s.setLink n {})
    else .next ((s.setLink n { down := true }).logIo 6 0 (BitVec.ofNat 64 n) 1)
  | _ => .next s

/-! ### The loss of a compute die (R358) -/

/-- Whether a launch has a coach, resident or saved, on a cluster. -/
def Cluster.hasCoach (x : Cluster) (lid : BitVec 16) : Bool := x.coaches.any fun c => c.lid == lid

/-- The launches with a coach on a die, resident or saved. -/
def State.dieLids (s : State) (vdn : Nat) : List (BitVec 16) :=
  (s.clusters.flatMap fun p => if p.1 / 64 = vdn then p.2.coaches.map Coach.lid else []).dedup

/-- How many coaches of a launch a die holds, resident or saved. -/
def State.coachesOn (s : State) (vdn : Nat) (lid : BitVec 16) : Nat :=
  (s.clusters.map fun p => if p.1 / 64 = vdn then (p.2.coaches.filter fun c => c.lid == lid).length else 0).sum

/-- Whether a die holds a part of a launch: a coach, a record, a staged message, or a card with records still to be dealt. -/
def State.dieHolds (s : State) (vdn : Nat) (lid : BitVec 16) : Bool :=
  (s.clusters.any fun p => p.1 / 64 == vdn &&
      (p.2.hasCoach lid || (p.2.staged.any fun m => m.record.lid == lid) || (p.2.ring.any fun g => (s.readSlot p.1 g).lid == lid)
        || (p.2.spill.any fun r => r.2.lid == lid) || p.2.cards.any fun j => j.2.lid == lid))
    || (s.cores.any fun p => vdnOf p.1 == vdn && p.2.arrivals.any fun r => r.lid == lid)
    || s.records.any fun r => vdnOf r.1 == vdn && r.2.lid == lid

/-- A task of an aborted launch ends: as at KILL, but no card counter is incremented (R127, R358). -/
def State.abortTask (s : State) (k c : Nat) : State := (s.discardQueued k c).updCore k fun co => co.orphan c

/-- What is left of an aborted launch on a core: no record, no queue entry or row that waits for its coach, no channel. -/
def Core.forget (co : Core) (lid : BitVec 16) (slots : List Nat) (grants : Word) : Core :=
  let mine (ch : Nat) : Bool := let w := co.chtab.get ch 0; chEn w && slots.contains (bits w 50 48)
  let gone := co.slots.filter fun t => t.2.lid == lid && !t.2.ended
  { co with
    arrivals := co.arrivals.filter fun r => r.lid != lid
    queue := co.queue.filter fun e => !mine e.channel.toNat
    chtab := co.chtab.filter fun p => !mine p.1
    slots := co.slots.filter fun t => !(t.2.lid == lid && !t.2.ended)
    drainQ := co.drainQ.filter fun n => !gone.any fun t => t.1 == n
    mxq := co.mxq.filter fun o => !(o.lid == lid && (o.kind == .mdrain || o.waits))
    tags := co.tags.filter fun p => !bit grants p.1 }

/-- Every task of a launch on a core ends. -/
def State.abortCore (s : State) (k : Nat) (lid : BitVec 16) : State :=
  let mine := (s.core k).ctxs.filter fun p => p.2.lid == lid && p.2.coach.isSome && p.2.run != .idle
  mine.foldl (fun s p => s.abortTask k p.1) s

/-- An aborted launch leaves a cluster: its tasks end, its coaches and their save areas are discarded, and its barriers are
free (R358). -/
def State.abortCluster (s : State) (cl : Nat) (lid : BitVec 16) : State :=
  let own := (s.cluster cl).coaches.filter fun c => c.lid == lid
  let slots := own.filterMap fun c => if c.state == .saved && !s.bindsChannels lid then none else some c.slot
  let grants := own.foldl (fun g c => if c.state == .saved then g else g ||| c.grant) 0
  let s := (coresOf cl).foldl (fun s k => (s.abortCore k lid).updCore k fun co => co.forget lid slots grants) s
  let s := s.updCluster cl fun x =>
    { x with coaches := x.coaches.filter fun c => c.lid != lid
             staged := x.staged.filter fun m => m.record.lid != lid
             ring := x.ring.filter fun g => (s.readSlot cl g).lid != lid
             spill := x.spill.filter fun r => r.2.lid != lid
             cards := x.cards.filter fun j => j.2.lid != lid
             bars := x.bars.mapVal fun _ b => if b.owner = lid then { phase := b.phase } else b }
  (coresOf cl).foldl State.endBinding s

/-- A launch is aborted on every die (R358): steps 1 and 2. -/
def State.abortLaunch (s : State) (lid : BitVec 16) : State :=
  let s := (s.clusters.map Prod.fst).foldl (fun s cl => s.abortCluster cl lid) s
  { s with records := s.records.filter fun r => r.2.lid != lid
           freezes := s.freezes.filter fun p => p.1 != lid.toNat || decide (s.ptc < p.2)
           frozenLids := s.frozenLids.filter (· != lid.toNat) }.updLaunch lid.toNat fun l => { l with aborted := true }

/-- A line when a die's slices have returned their tokens and the die is gone (R276, R358). -/
def Line.withoutDie (l : Line) (vdn : Nat) : Line :=
  let l := { l with flying := l.flying.map fun (m : TokMsg) => if m.dst = vdn then { m with dst := homeHolder } else m
                    reqs := l.reqs.filter fun q => q.requester != vdn
                    asks := l.asks.filter fun a => a.1 != vdn && a.2.1 != vdn
                    asked := l.asked.filter (· != vdn), table := l.table.filter (· != vdn)
                    dones := l.dones.filter fun m => m.1 != vdn, wants := l.wants.filter fun m => m.1 != vdn
                    held := l.held.filter fun k => k.holder != vdn && vdnOf k.core != vdn
                    ons := l.ons.filter fun m => m.1 != vdn, offs := l.offs.filter fun m => m.1 != vdn
                    obeying := l.obeying.filter fun p => p.1 != vdn && p.2 != vdn
                    active := if l.active = some vdn then none else l.active }
  l.goHome vdn

/-- Every slice of a die returns its tokens to the homes (R276). -/
def State.returnTokens (s : State) (vdn : Nat) : State := { s with lines := s.lines.mapVal fun _ l => l.withoutDie vdn }

/-- Each die that discards a part of a launch logs it (R358, R375). -/
def State.logAborts (s : State) (vdn : Nat) (lid : BitVec 16) : State :=
  let dies := (List.range 32).filter fun v => s.dieHolds v lid
  let counts := dies.map fun v => (v, s.coachesOn v lid)
  counts.foldl (fun s p => s.logCore (coreOf (64 * p.1) 0) 11 lid (BitVec.ofNat 64 vdn) (BitVec.ofNat 64 p.2)) s

/-- Whether every die-to-die link of a die is down. -/
def State.cutOff (s : State) (vdn : Nat) : Bool :=
  match s.vdns.find? vdn with
  | none => false
  | some p => (List.range 4).all fun j => (s.link (4 * p + j)).down

/-- DIE_OUT_OF_SERVICE (R25, R358): the affected launches are aborted, the die's tokens go home and its VDN is unmapped. A die
that is cut off cannot return its tokens: BX-T holds every die in reset and logs the loss. What is lost stays so until the next
package reset. -/
def execDieOutOfService (s : State) : Result :=
  match s.agenda with
  | .dieOutOfService vdn :: _ =>
    let s := s.pop
    if !s.mapped vdn then .next s
    else if s.cutOff vdn then .next { s.logUnlisted 3 0 with held := true }
    else
      let lids := s.dieLids vdn
      let s := lids.foldl (fun s lid => (s.logAborts vdn lid).abortLaunch lid) s
      let s := s.returnTokens vdn
      .next { s with vdns := s.vdns.erase vdn, lost := s.lost ++ (s.vdns.find? vdn).toList.map fun p => (vdn, p) }
  | _ => .next s

/-- Whether a physical die can take a VDN: it left reset, and it is not one that was lost (R23, R27, R358, R372). -/
def State.dieWorks (s : State) (phys : Nat) : Bool :=
  decide (phys < 32) && !s.inReset.contains (.compute phys) && !s.lost.any fun p => p.2 == phys

/-- VDN_REMAP (R25, R276): a mapped VDN goes to another die that works; refused while a coach is resident on an affected die, or a
place-bound one is saved from it. -/
def execVdnRemap (s : State) : Result :=
  match s.agenda with
  | .vdnRemap vdn phys :: _ =>
    let s := s.pop
    let busy := s.clusters.any fun p => p.1 / 64 == vdn &&
      p.2.coaches.any fun c => c.state != .saved || c.saved.placeBound
    let taken := s.vdns.any fun p => p.2 == phys && p.1 != vdn
    if !s.mapped vdn ∨ !s.dieWorks phys ∨ busy ∨ taken then .next s
    else .next { (s.returnTokens vdn) with vdns := s.vdns.set vdn phys }
  | _ => .next s

/-! ### Time (R359, R360) -/

/-- Whether one of the package's own edge links works. -/
def State.edgeWorks (s : State) : Bool := (List.range 16).any fun n => !(s.link (128 + n)).down && !(s.link (128 + n)).retraining

/-- TIME_MESSAGE (R360): a message of the reference, the lowest-numbered package with a working edge link, crosses an edge link, and
the package changes its counter's rate, by at most 200 ppm, towards the reference's reading. A package that has a working edge
link takes none of a higher-numbered one. -/
def execTimeMessage (s : State) : Result :=
  match s.agenda with
  | .timeMessage p ref :: _ =>
    let s := s.pop
    let n : Int := (Config.rateStep s.free % 201 : Nat)
    if !s.edgeWorks ∨ !s.domain.contains p ∨ s.pkg ≤ p then .next s
    else .next { s.tick with rate := if s.ptc < ref then n else if ref < s.ptc then -n else 0 }
  | _ => .next s

/-- DOMAIN_JOIN (R360): the counter steps forward once, before the first launch is registered. -/
def execDomainJoin (s : State) : Result :=
  match s.agenda with
  | .domainJoin ref packages :: _ =>
    let s := s.pop
    if s.joined || s.registeredOnce || !packages.contains s.pkg || packages.any (fun p => decide (128 ≤ p)) then .next s
    else .next { s with joined := true, domain := packages, ptc := Nat.max s.ptc ref }
  | _ => .next s

end Sys2Proof.Machine
end

