-- ==== Sys2Proof/Machine/Trust.lean ====
section
/-!
DEFINITION. Budgets and power (R367 to R369), integrity (R370), power-on and the SPDM responder (R372 to R374).
-/

namespace Sys2Proof.Machine

/-! ### Budgets and power (R367 to R369). They delay traffic and issue, and change no value. -/

/-- What a setting of firmware does: a budget of R367, or one of the settings that other rules name (R13, R24, R313, R352, R362). A
ring in use neither moves nor changes its size. -/
def State.setting (s : State) (item : BudgetItem) (value : Nat) : State :=
  match item with
  | .window rkey asid va len rd wr =>
    let rest := s.windows.filter fun w => w.rkey != rkey
    { s with windows := if value = 0 then rest
             else rest ++ [{ rkey := rkey, asid := BitVec.ofNat 13 asid, va := va, len := len, rd := rd, wr := wr }] }
  | .layer lid =>
    { s with layerKinds := if value = 0 then s.layerKinds.erase lid else s.layerKinds.set lid (value == 2) }
  | .tierWays => if s.tiles.isEmpty then { s with tierWays := Nat.min value 2 } else s
  | .ring cl =>
    s.updCluster cl fun x =>
      if x.ring.isEmpty && value % 128 == 0 && decide (value + 128 * x.ringSlots ≤ memorySize) then { x with ringBase := some value }
      else x
  | .ringSlots cl =>
    s.updCluster cl fun x =>
      if x.ring.isEmpty && decide (4096 ≤ value) && decide (value ≤ 65536) then { x with ringSlots := value } else x
  | .farDies p => { s with farVdns := s.farVdns.set p value }
  | item => { s with budgets := s.budgets.filter (fun b => b.1 != item) ++ [(item, value)] }

/-- BUDGET_SETTING (R367): firmware sets a budget, or another of its settings, over the management plane. -/
def execBudgetSetting (s : State) : Result :=
  match s.agenda with
  | .budgetSetting item value :: _ => .next (s.pop.setting item value)
  | _ => .next s

/-- BUDGET_PERIOD (R368): each traffic budget is whole again; nothing carries over. -/
def execBudgetPeriod (s : State) : Result :=
  match s.agenda with
  | .budgetPeriod :: _ =>
    let s := s.pop
    .next { s with left := s.budgets.filter fun b => b.1 != .governor }
  | _ => .next s

/-- The energy of 1,800 W over a period of 100 µs, in microjoules: the TDP, and the most that firmware may allow (R1, R2, R369). -/
def tdpEnergy : Nat := 1800 * 100

/-- The governor's limit, in microjoules a period: what firmware has set, at most the TDP (R2, R369). -/
def State.governorLimit (s : State) : Nat :=
  Nat.min tdpEnergy (((s.budgets.find? fun b => b.1 == .governor).map Prod.snd).getD tdpEnergy)

/-- GOVERNOR_PERIOD (R369): a period whose estimated energy exceeds the limit makes the next one throttled. -/
def execGovernorPeriod (s : State) : Result :=
  match s.agenda with
  | .governorPeriod energy :: _ =>
    let s := s.pop
    .next { s with throttled := decide (s.governorLimit < energy) }
  | _ => .next s

/-- THERMAL_THROTTLE (R369): above a junction temperature of 105 °C the governor throttles regardless of the energy. -/
def execThermalThrottle (s : State) : Result :=
  match s.agenda with
  | .thermalThrottle celsius :: _ => .next { s.pop with hot := decide (105 < celsius) }
  | _ => .next s

/-- THERMAL_TRIP (R369): at 115 °C BX-T holds every other die in reset and logs the trip. -/
def execThermalTrip (s : State) : Result :=
  match s.agenda with
  | .thermalTrip celsius :: _ =>
    let s := s.pop
    if celsius < 115 then .next s else .next { s.logUnlisted 3 0 with held := true }
  | _ => .next s

/-! ### Integrity (R370) -/

/-- A word's number among the poisoned ones. -/
def poisonAdd (p : List Nat) (w : Nat) : List Nat := if p.contains w then p else w :: p

/-- The word at an address of package memory is poisoned. -/
def State.poisonWord (s : State) (a : Nat) : State := { s with poison := poisonAdd s.poison (a / 8) }

/-- UNCORRECTABLE_ERROR (R370): the 64-bit word at an address of package memory, of a scratchpad, of a service core's memory or of a
copy of a line in core k's L1 portion or its die's L2 is poisoned; the poison of a copy travels with its line, so that the
model's one copy of the data has it (log 37). An error in a macro fails the passes of its column (R235). A single-bit error is
corrected and counted. -/
def execUncorrectableError (s : State) : Result :=
  match s.agenda with
  | .uncorrectableError place k a :: _ =>
    let s := s.pop
    match place with
    | .memory => .next (if memorySize ≤ a then s else s.poisonWord a)
    | .l1 => .next (if memorySize ≤ a then s else if (s.line (lineOf a)).l1.contains k then s.poisonWord a else s)
    | .l2 => .next (if memorySize ≤ a then s else if (s.line (lineOf a)).valid.contains (vdnOf k) then s.poisonWord a else s)
    | .column =>
      .next (if !s.hasCompute k || decide (macroCols k ≤ a) then s
        else s.updCore k fun co => { co with faultyCols := poisonAdd co.faultyCols a })
    | .pass =>
      .next (if !s.hasCompute k || decide (macroCols k ≤ a) then s
        else s.updCore k fun co => { co with mismatches := co.mismatches ++ [a] })
    | .single => .next { s with corrected := s.corrected + 1 }
    | .scratchpad =>
      .next (if !s.hasCompute k || decide (131072 ≤ a) then s
        else s.updCore k fun co => { co with padPoison := poisonAdd co.padPoison (a / 8) })
    | .serviceMemory =>
      .next (if !(isSvc k && s.hasCore k) || decide (32768 ≤ a) then s
        else s.updCore k fun co => { co with padPoison := poisonAdd co.padPoison (a / 8) })
  | _ => .next s

/-! ### Power-on (R23, R372, R374) -/

/-- The physical compute dies that pass. -/
def passingDies (failing : List BootDie) : List Nat := (List.range 32).filter fun p => !failing.contains (.compute p)

/-- The VDN table that firmware makes: every die when all 32 pass, else the lowest 30 of them (R23; log 22). -/
def bootTable (pass : List Nat) : SMap Nat := (pass.take (if pass.length = 32 then 32 else 30)).zipIdx.map fun p => (p.2, p.1)

/-- Whether the package boots: every BX-M and BX-IO passes, and at least 30 compute dies (R372). -/
def boots (failing : List BootDie) : Bool :=
  (List.range 4).all (fun n => !failing.contains (.bxm n)) && !failing.contains .bxio
    && decide (30 ≤ (passingDies failing).length)

/-- The key by which package memory is encrypted: a new one at each reset, which nothing reads (R374). -/
def State.memKey (s : State) : BitVec 512 := Config.memoryKey s.resets

/-- What memory holds of a 128-byte line: its bytes encrypted, the tweak PA[51:7] (R374). Every access is decrypted, so that nothing
but the memory bus shows it. -/
def State.stored (s : State) (line : Nat) : BitVec 1024 := Config.aesXts s.memKey line (s.memRead (128 * line) 128)

/-- POWER_ON (R372, R374): the package is reset under a new memory key; each die that fails verification stays in reset and is
logged, and a package that does not boot is held. -/
def execPowerOn (s : State) : Result :=
  match s.agenda with
  | .powerOn failing :: rest =>
    let s' : State := { State.reset with
      agenda := rest, free := s.free, pkg := s.pkg, domain := [s.pkg], resets := s.resets + 1, inReset := failing
      vdns := bootTable (passingDies failing), held := !boots failing }
    .next (failing.foldl (fun s _ => s.logUnlisted 3 0) s')
  | _ => .next s

/-! ### SPDM (R373) -/

/-- An answer of BX-T. -/
def State.spdm (s : State) (a : SpdmAnswer) (bytes : List Byte) : State := { s with hostOut := s.hostOut ++ [.spdm a bytes] }

/-- GET_VERSION (R373): SPDM 1.3. -/
def execGetVersion (s : State) : Result :=
  match s.agenda with
  | .getVersion :: _ => .next (s.pop.spdm (.version 1 3) (Config.spdmBytes 0 0))
  | _ => .next s

/-- GET_CAPABILITIES (R373): no secure sessions. -/
def execGetCapabilities (s : State) : Result :=
  match s.agenda with
  | .getCapabilities :: _ => .next (s.pop.spdm (.capabilities false) (Config.spdmBytes 1 0))
  | _ => .next s

/-- NEGOTIATE_ALGORITHMS (R373): ML-DSA-87 only and SHA3-512 only. -/
def execNegotiateAlgorithms (s : State) : Result :=
  match s.agenda with
  | .negotiateAlgorithms :: _ => .next (s.pop.spdm (.algorithms .mlDsa87 .sha3_512) (Config.spdmBytes 2 0))
  | _ => .next s

/-- GET_DIGESTS (R373). -/
def execGetDigests (s : State) : Result :=
  match s.agenda with
  | .getDigests :: _ => .next (s.pop.spdm .digests (Config.spdmBytes 3 0))
  | _ => .next s

/-- GET_CERTIFICATE (R373): a part of the certificate chain. -/
def execGetCertificate (s : State) : Result :=
  match s.agenda with
  | .getCertificate off len :: _ => .next (s.pop.spdm .certificate (((Config.spdmBytes 4 0).drop off).take len))
  | _ => .next s

/-- CHALLENGE (R373): an answer signed by ML-DSA-87 for a nonce. -/
def execChallenge (s : State) : Result :=
  match s.agenda with
  | .challenge nonce :: _ => .next (s.pop.spdm .challengeAuth (Config.spdmBytes 5 nonce))
  | _ => .next s

/-- A number as data that a measurement covers. -/
def BudgetItem.code : BudgetItem → List Nat
  | .link n c => [0, n, c]
  | .memory n c => [1, n, c]
  | .tier n c => [2, n, c]
  | .governor => [3, 0, 0]
  | _ => [4, 0, 0]

/-- What index 40 measures: the VDN table and the budgets (R373). -/
def State.measured (s : State) (index : Nat) : List Nat :=
  if index = 40 then s.vdns.flatMap (fun p => [p.1, p.2]) ++ s.budgets.flatMap fun b => b.1.code ++ [b.2] else []

/-- GET_MEASUREMENTS (R373): the measurement of an index from 1 to 40, and a signature where one is asked for. -/
def execGetMeasurements (s : State) : Result :=
  match s.agenda with
  | .getMeasurements index signed nonce :: _ =>
    let s := s.pop
    if index = 0 ∨ 40 < index then .next (s.spdm .error [])
    else
      .next (s.spdm .measurements (toBytes 64 (Config.measurement index (s.measured index)).toNat
        ++ if signed then Config.spdmBytes 6 nonce else []))
  | _ => .next s

end Sys2Proof.Machine
end

