-- ==== Sys2Proof/Machine/VFloat.lean ====
section
/-!
DEFINITION. Majors VFP and VCVT (R153 to R158).
-/

namespace Sys2Proof.Machine

/-- Element width of a format (R142). -/
def fBits (f : FpFmt) : Nat := (fmtOf f).width

/-- VFADD (R153). -/
def execVfadd (vd vs1 vs2 : Reg) (fmt : FpFmt) (m : MaskReg) (stl : Stall) (s : State) : Result :=
  .next (s.vbin (.vfadd vd vs1 vs2 fmt m stl) 4 (fBits fmt) (fpAdd (fmtOf fmt)) vd vs1 vs2 m stl)

/-- VFSUB (R153). -/
def execVfsub (vd vs1 vs2 : Reg) (fmt : FpFmt) (m : MaskReg) (stl : Stall) (s : State) : Result :=
  .next (s.vbin (.vfsub vd vs1 vs2 fmt m stl) 4 (fBits fmt) (fpSub (fmtOf fmt)) vd vs1 vs2 m stl)

/-- VFMUL (R153). -/
def execVfmul (vd vs1 vs2 : Reg) (fmt : FpFmt) (m : MaskReg) (stl : Stall) (s : State) : Result :=
  .next (s.vbin (.vfmul vd vs1 vs2 fmt m stl) 4 (fBits fmt) (fpMul (fmtOf fmt)) vd vs1 vs2 m stl)

/-- VFDIV (R153). -/
def execVfdiv (vd vs1 vs2 : Reg) (fmt : FpFmt) (m : MaskReg) (stl : Stall) (s : State) : Result :=
  .next (s.vbin (.vfdiv vd vs1 vs2 fmt m stl) 4 (fBits fmt) (fpDiv (fmtOf fmt)) vd vs1 vs2 m stl)

/-- VFMIN (R153). -/
def execVfmin (vd vs1 vs2 : Reg) (fmt : FpFmt) (m : MaskReg) (stl : Stall) (s : State) : Result :=
  .next (s.vbin (.vfmin vd vs1 vs2 fmt m stl) 4 (fBits fmt) (fpMin (fmtOf fmt)) vd vs1 vs2 m stl)

/-- VFMAX (R153). -/
def execVfmax (vd vs1 vs2 : Reg) (fmt : FpFmt) (m : MaskReg) (stl : Stall) (s : State) : Result :=
  .next (s.vbin (.vfmax vd vs1 vs2 fmt m stl) 4 (fBits fmt) (fpMax (fmtOf fmt)) vd vs1 vs2 m stl)

/-- VFMA (R153). -/
def execVfma (vd vs1 vs2 : Reg) (fmt : FpFmt) (m : MaskReg) (stl : Stall) (s : State) : Result :=
  .next (s.vter (.vfma vd vs1 vs2 fmt m stl) 4 (fBits fmt) (fpFma (fmtOf fmt)) vd vs1 vs2 m stl)

/-- VFSQRT (R153, R154). -/
def execVfsqrt (vd vs1 : Reg) (fmt : FpFmt) (m : MaskReg) (stl : Stall) (s : State) : Result :=
  .next (s.vun (.vfsqrt vd vs1 fmt m stl) 4 (fBits fmt) (fpUn Fp.sqrt (fmtOf fmt)) vd vs1 m stl)

/-- VFEXP2 (R153, R154). -/
def execVfexp2 (vd vs1 : Reg) (fmt : FpFmt) (m : MaskReg) (stl : Stall) (s : State) : Result :=
  .next (s.vun (.vfexp2 vd vs1 fmt m stl) 4 (fBits fmt) (fpUn Fp.exp2 (fmtOf fmt)) vd vs1 m stl)

/-- VFABS (R153, R154). -/
def execVfabs (vd vs1 : Reg) (fmt : FpFmt) (m : MaskReg) (stl : Stall) (s : State) : Result :=
  .next (s.vun (.vfabs vd vs1 fmt m stl) 4 (fBits fmt) (fpSign (fmtOf fmt) false) vd vs1 m stl)

/-- VFNEG (R153, R154). -/
def execVfneg (vd vs1 : Reg) (fmt : FpFmt) (m : MaskReg) (stl : Stall) (s : State) : Result :=
  .next (s.vun (.vfneg vd vs1 fmt m stl) 4 (fBits fmt) (fun a => fpSign (fmtOf fmt) (!fpSignBit (fmtOf fmt) a) a) vd vs1 m stl)

/-- VFSGNJ (R153). -/
def execVfsgnj (vd vs1 vs2 : Reg) (fmt : FpFmt) (m : MaskReg) (stl : Stall) (s : State) : Result :=
  .next (s.vbin (.vfsgnj vd vs1 vs2 fmt m stl) 4 (fBits fmt) (fun a b => fpSign (fmtOf fmt) (fpSignBit (fmtOf fmt) b) a) vd vs1 vs2 m stl)

/-- A floating-point compare of FP32 elements: its condition on numbers that are no NaN, its value on NaNs, and whether a
quiet NaN sets NV (R155). -/
def fpCompare (cond : Int → Bool) (onNan quietNv : Bool) (a b : Nat) : Flagged Bool :=
  let x := Fp.decode fp32 a
  let y := Fp.decode fp32 b
  let nv := x.isSnan || y.isSnan || (quietNv && (x.isNan || y.isNan))
  (if x.isNan || y.isNan then onNan else cond (x.cmp y), if nv then flagNV else 0)

/-- VFCMPEQ (R155). -/
def execVfcmpeq (md : MaskReg) (vs1 vs2 : Reg) (m : MaskReg) (stl : Stall) (s : State) : Result :=
  .next (s.vcmp (.vfcmpeq md vs1 vs2 m stl) 4 32 (fpCompare (fun o => o == 0) false false) md vs1 vs2 m stl)

/-- VFCMPLT (R155). -/
def execVfcmplt (md : MaskReg) (vs1 vs2 : Reg) (m : MaskReg) (stl : Stall) (s : State) : Result :=
  .next (s.vcmp (.vfcmplt md vs1 vs2 m stl) 4 32 (fpCompare (fun o => decide (o < 0)) false true) md vs1 vs2 m stl)

/-- VFCMPLE (R155). -/
def execVfcmple (md : MaskReg) (vs1 vs2 : Reg) (m : MaskReg) (stl : Stall) (s : State) : Result :=
  .next (s.vcmp (.vfcmple md vs1 vs2 m stl) 4 32 (fpCompare (fun o => decide (o ≤ 0)) false true) md vs1 vs2 m stl)

/-- VFCMPUN (R155). -/
def execVfcmpun (md : MaskReg) (vs1 vs2 : Reg) (m : MaskReg) (stl : Stall) (s : State) : Result :=
  .next (s.vcmp (.vfcmpun md vs1 vs2 m stl) 4 32 (fpCompare (fun _ => false) true false) md vs1 vs2 m stl)

/-! ### Major VCVT (R156 to R158) -/

/-- The active elements j of a conversion of n elements (R158). -/
def cvtOn (mask : MWord) (n j : Nat) : Bool := mask.getLsbD (16 * j / n)

/-- A conversion from elements of ws bits to elements of wd bits, part p, in mode rm; f takes SR's draw and the source
element (R157, R158). SR without a RAND descriptor is illegal, found where the instruction's own traps are (R45, R78). -/
def State.cvt (s : State) (i : Instr) (ws wd p : Nat) (rm : RoundMode) (f : RoundMode → Nat → Nat → Flagged Nat)
    (vd vs1 : Reg) (m : MaskReg) (stl : Stall) : State :=
  s.onCompute i fun s =>
    s.issue { reads := useV vs1 :: maskReads m vd (decide (ws > wd)), writes := [useV vd], lat := 4 } fun s =>
      let noDraws (s : State) : Option State := if rm = .sr ∧ !s.me.canDraw then some (s.illegal i) else none
      s.vec { srcs := [vs1.toNat], dest := some vd.toNat } noDraws
          (fun s _ => match noDraws s with | some t => .stop t | none => .on s) fun s rv =>
        let c := s.me
        let mask := c.rm m.toNat
        let n := 512 / Nat.max ws wd
        let from' (j : Nat) : Nat := if ws < wd then p * n + j else j
        let to' (j : Nat) : Nat := if ws < wd then j else p * n + j
        let on (e : Nat) : Bool := cvtOn mask n (e - to' 0) && decide (to' 0 ≤ e) && decide (e < to' 0 + n)
        let r := (List.range n).map fun j =>
          if cvtOn mask n j then
            f rm (if rm = .sr then c.draw (countBelow j (cvtOn mask n)) else 0) (elem ws (rv vs1.toNat) (from' j))
          else (0, 0)
        let drawn := if rm = .sr then countBelow n (cvtOn mask n) else 0
        (s.putVec vd.toNat 4 (mkVec wd fun e => (r.getD (e - to' 0) (0, 0)).1) (enable wd on)).done stl
          fun c => (c.raise (orFlags r)).drew drawn

/-- A conversion between floating-point formats (R50). -/
def cvtFp (src dst : FloatFmt) (rm : RoundMode) (r a : Nat) : Flagged Nat := fpConvert src dst rm r a
/-- A conversion from a floating-point format to an integer of n bits (R51). -/
def cvtToInt (lo hi : Int) (n : Nat) (rm : RoundMode) (r a : Nat) : Flagged Nat :=
  let v := fpToInt fp32 lo hi rm r a
  (ofSigned n v.1, v.2)
/-- A conversion from an integer of n bits, read as signed, to FP32 (R52). -/
def cvtOfInt (n : Nat) (rm : RoundMode) (r a : Nat) : Flagged Nat := fpOfInt fp32 rm r (toSigned n a)
/-- Sign extension of an integer of n bits to 32 (R157). -/
def cvtSext (n : Nat) (_ : RoundMode) (_ a : Nat) : Flagged Nat := (ofSigned 32 (toSigned n a), 0)
/-- Saturation of an int32 to n bits (R157). -/
def cvtSat (n : Nat) (_ : RoundMode) (_ a : Nat) : Flagged Nat := (ofSigned n (satSigned n (toSigned 32 a)), 0)

/-- VCVT: f32 from bf16 (R157). -/
def execVcvtF32Bf16 (vd vs1 : Reg) (part : BitVec 1) (m : MaskReg) (stl : Stall) (s : State) : Result :=
  .next (s.cvt (.vcvtF32Bf16 vd vs1 part m stl) 16 32 part.toNat .rne (cvtFp bf16 fp32) vd vs1 m stl)

/-- VCVT: f32 from f16 (R157). -/
def execVcvtF32F16 (vd vs1 : Reg) (part : BitVec 1) (m : MaskReg) (stl : Stall) (s : State) : Result :=
  .next (s.cvt (.vcvtF32F16 vd vs1 part m stl) 16 32 part.toNat .rne (cvtFp fp16 fp32) vd vs1 m stl)

/-- VCVT: bf16 from f32 (R157). -/
def execVcvtBf16F32 (vd vs1 : Reg) (part : BitVec 1) (rm : RoundMode) (m : MaskReg) (stl : Stall) (s : State) : Result :=
  .next (s.cvt (.vcvtBf16F32 vd vs1 part rm m stl) 32 16 part.toNat rm (cvtFp fp32 bf16) vd vs1 m stl)

/-- VCVT: f16 from f32 (R157). -/
def execVcvtF16F32 (vd vs1 : Reg) (part : BitVec 1) (rm : RoundMode) (m : MaskReg) (stl : Stall) (s : State) : Result :=
  .next (s.cvt (.vcvtF16F32 vd vs1 part rm m stl) 32 16 part.toNat rm (cvtFp fp32 fp16) vd vs1 m stl)

/-- VCVT: f32 from e4m3 (R157). -/
def execVcvtF32E4m3 (vd vs1 : Reg) (part : BitVec 2) (m : MaskReg) (stl : Stall) (s : State) : Result :=
  .next (s.cvt (.vcvtF32E4m3 vd vs1 part m stl) 8 32 part.toNat .rne (cvtFp e4m3 fp32) vd vs1 m stl)

/-- VCVT: f32 from e5m2 (R157). -/
def execVcvtF32E5m2 (vd vs1 : Reg) (part : BitVec 2) (m : MaskReg) (stl : Stall) (s : State) : Result :=
  .next (s.cvt (.vcvtF32E5m2 vd vs1 part m stl) 8 32 part.toNat .rne (cvtFp e5m2 fp32) vd vs1 m stl)

/-- VCVT: e4m3 from f32 (R157). -/
def execVcvtE4m3F32 (vd vs1 : Reg) (part : BitVec 2) (rm : RoundMode) (m : MaskReg) (stl : Stall) (s : State) : Result :=
  .next (s.cvt (.vcvtE4m3F32 vd vs1 part rm m stl) 32 8 part.toNat rm (cvtFp fp32 e4m3) vd vs1 m stl)

/-- VCVT: e5m2 from f32 (R157). -/
def execVcvtE5m2F32 (vd vs1 : Reg) (part : BitVec 2) (rm : RoundMode) (m : MaskReg) (stl : Stall) (s : State) : Result :=
  .next (s.cvt (.vcvtE5m2F32 vd vs1 part rm m stl) 32 8 part.toNat rm (cvtFp fp32 e5m2) vd vs1 m stl)

/-- VCVT: bf16 from f16 (R157). -/
def execVcvtBf16F16 (vd vs1 : Reg) (rm : RoundMode) (m : MaskReg) (stl : Stall) (s : State) : Result :=
  .next (s.cvt (.vcvtBf16F16 vd vs1 rm m stl) 16 16 0 rm (cvtFp fp16 bf16) vd vs1 m stl)

/-- VCVT: f16 from bf16 (R157). -/
def execVcvtF16Bf16 (vd vs1 : Reg) (rm : RoundMode) (m : MaskReg) (stl : Stall) (s : State) : Result :=
  .next (s.cvt (.vcvtF16Bf16 vd vs1 rm m stl) 16 16 0 rm (cvtFp bf16 fp16) vd vs1 m stl)

/-- VCVT: f32 from i32 (R157). -/
def execVcvtF32I32 (vd vs1 : Reg) (rm : RoundMode) (m : MaskReg) (stl : Stall) (s : State) : Result :=
  .next (s.cvt (.vcvtF32I32 vd vs1 rm m stl) 32 32 0 rm (cvtOfInt 32) vd vs1 m stl)

/-- VCVT: f32 from u32 (R157). -/
def execVcvtF32U32 (vd vs1 : Reg) (rm : RoundMode) (m : MaskReg) (stl : Stall) (s : State) : Result :=
  .next (s.cvt (.vcvtF32U32 vd vs1 rm m stl) 32 32 0 rm (fun rm r a => fpOfInt fp32 rm r a) vd vs1 m stl)

/-- VCVT: i32 from f32 (R157). -/
def execVcvtI32F32 (vd vs1 : Reg) (rm : RoundMode) (m : MaskReg) (stl : Stall) (s : State) : Result :=
  .next (s.cvt (.vcvtI32F32 vd vs1 rm m stl) 32 32 0 rm (cvtToInt (-2147483648) 2147483647 32) vd vs1 m stl)

/-- VCVT: u32 from f32 (R157). -/
def execVcvtU32F32 (vd vs1 : Reg) (rm : RoundMode) (m : MaskReg) (stl : Stall) (s : State) : Result :=
  .next (s.cvt (.vcvtU32F32 vd vs1 rm m stl) 32 32 0 rm (cvtToInt 0 4294967295 32) vd vs1 m stl)

/-- VCVT: f32 from i16 (R157). -/
def execVcvtF32I16 (vd vs1 : Reg) (part : BitVec 1) (m : MaskReg) (stl : Stall) (s : State) : Result :=
  .next (s.cvt (.vcvtF32I16 vd vs1 part m stl) 16 32 part.toNat .rne (cvtOfInt 16) vd vs1 m stl)

/-- VCVT: f32 from i8 (R157). -/
def execVcvtF32I8 (vd vs1 : Reg) (part : BitVec 2) (m : MaskReg) (stl : Stall) (s : State) : Result :=
  .next (s.cvt (.vcvtF32I8 vd vs1 part m stl) 8 32 part.toNat .rne (cvtOfInt 8) vd vs1 m stl)

/-- VCVT: i16 from f32 (R157). -/
def execVcvtI16F32 (vd vs1 : Reg) (part : BitVec 1) (rm : RoundMode) (m : MaskReg) (stl : Stall) (s : State) : Result :=
  .next (s.cvt (.vcvtI16F32 vd vs1 part rm m stl) 32 16 part.toNat rm (cvtToInt (-32768) 32767 16) vd vs1 m stl)

/-- VCVT: i8 from f32 (R157). -/
def execVcvtI8F32 (vd vs1 : Reg) (part : BitVec 2) (rm : RoundMode) (m : MaskReg) (stl : Stall) (s : State) : Result :=
  .next (s.cvt (.vcvtI8F32 vd vs1 part rm m stl) 32 8 part.toNat rm (cvtToInt (-128) 127 8) vd vs1 m stl)

/-- VCVT: i32 from i16 (R157). -/
def execVcvtI32I16 (vd vs1 : Reg) (part : BitVec 1) (m : MaskReg) (stl : Stall) (s : State) : Result :=
  .next (s.cvt (.vcvtI32I16 vd vs1 part m stl) 16 32 part.toNat .rne (cvtSext 16) vd vs1 m stl)

/-- VCVT: i32 from i8 (R157). -/
def execVcvtI32I8 (vd vs1 : Reg) (part : BitVec 2) (m : MaskReg) (stl : Stall) (s : State) : Result :=
  .next (s.cvt (.vcvtI32I8 vd vs1 part m stl) 8 32 part.toNat .rne (cvtSext 8) vd vs1 m stl)

/-- VCVT: i16 from i32 (R157). -/
def execVcvtI16I32 (vd vs1 : Reg) (part : BitVec 1) (m : MaskReg) (stl : Stall) (s : State) : Result :=
  .next (s.cvt (.vcvtI16I32 vd vs1 part m stl) 32 16 part.toNat .rne (cvtSat 16) vd vs1 m stl)

/-- VCVT: i8 from i32 (R157). -/
def execVcvtI8I32 (vd vs1 : Reg) (part : BitVec 2) (m : MaskReg) (stl : Stall) (s : State) : Result :=
  .next (s.cvt (.vcvtI8I32 vd vs1 part m stl) 32 8 part.toNat .rne (cvtSat 8) vd vs1 m stl)

end Sys2Proof.Machine
end

