-- ==== Sys2Proof/Machine/VPerm.lean ====
section
/-!
DEFINITION. Major VPERM (R159 to R164): reductions, scans, permutes and the operations on masks.
-/

namespace Sys2Proof.Machine

/-- A reduction: f folds the active elements of vs1 into element 0 of vd (R160). -/
def State.vred (s : State) (i : Instr) (w : Nat) (f : Nat → Nat → Flagged Nat) (vd vs1 : Reg) (m : MaskReg)
    (stl : Stall) : State :=
  s.onCompute i fun s =>
    s.issue { reads := useV vs1 :: maskReads m vd true, writes := [useV vd], lat := 3 } fun s =>
      s.vec { srcs := [vs1.toNat, vd.toNat], dest := some vd.toNat } noEarly noOwn fun s rv =>
        let mask := s.me.rm m.toNat
        let r := ((List.range (512 / w)).filter (laneOn w mask)).foldl
          (fun (acc : Flagged Nat) e => let y := f acc.1 (elem w (rv vs1.toNat) e); (y.1 % 2 ^ w, acc.2 ||| y.2))
          (elem w (rv vd.toNat) 0, 0)
        (s.putVec vd.toNat 3 (BitVec.ofNat 512 r.1) (enable w (· == 0))).done stl fun c => c.raise r.2

/-- The elements that a scan or a compress keeps, in ascending order (R161). -/
def kept (w : Nat) (mask : MWord) (live : Nat → Bool) : List Nat :=
  (List.range (512 / w)).filter fun e => laneOn w mask e && live e

/-- A scan or compress of vs1 into elements of wd bits; val gives the value kept of an element (R161). -/
def State.vscanAs (s : State) (i : Instr) (w wd : Nat) (live : Nat → Bool) (val : VWord → Nat → Nat) (vd vs1 rc : Reg)
    (m : MaskReg) (stl : Stall) : State :=
  s.onCompute i fun s =>
    s.issue { reads := useV vs1 :: maskReads m vd true, writes := [useV vd, useX rc], lat := 3 } fun s =>
      s.vec { srcs := [vs1.toNat], dest := some vd.toNat } noEarly noOwn fun s rv =>
        let src := rv vs1.toNat
        let l := kept w (s.me.rm m.toNat) fun e => live (elem w src e)
        (s.putVec vd.toNat 3 (BitVec.ofNat 512 (packElems wd (l.map (val src)))) (enable wd fun e => decide (e < l.length))).done
          stl fun c => c.fixX rc.toNat 3 (BitVec.ofNat 64 l.length)

/-- An operation on mask registers into a mask register (R163). -/
def State.maskOp (s : State) (i : Instr) (reads : List (RegFile × Nat)) (md : MaskReg) (stl : Stall)
    (f : Ctx → MWord) : State :=
  s.onCompute i fun s =>
    s.issue { reads := reads, writes := [useM md], lat := 3 } fun s =>
      s.done stl fun c => c.writeFixed .m md.toNat 3 ((f c).setWidth 512)

/-- An operation on a mask register into an x register (R163). -/
def State.maskToX (s : State) (i : Instr) (rd : Reg) (ms1 : MaskReg) (stl : Stall) (f : MWord → Word) : State :=
  s.onCompute i fun s =>
    s.issue { reads := [useM ms1], writes := [useX rd], lat := 3 } fun s =>
      s.done stl fun c => c.fixX rd.toNat 3 (f (c.rm ms1.toNat))

/-- VREDSUM (R160). -/
def execVredsum (vd vs1 : Reg) (w : IntW) (m : MaskReg) (stl : Stall) (s : State) : Result :=
  .next (s.vred (.vredsum vd vs1 w m stl) (wBits w) (pure2 fun a b => a + b) vd vs1 m stl)

/-- VREDMIN (R160). -/
def execVredmin (vd vs1 : Reg) (w : IntW) (m : MaskReg) (stl : Stall) (s : State) : Result :=
  .next (s.vred (.vredmin vd vs1 w m stl) (wBits w) (pure2 fun a b => if toSigned (wBits w) a ≤ toSigned (wBits w) b then a else b) vd vs1 m stl)

/-- VREDMAX (R160). -/
def execVredmax (vd vs1 : Reg) (w : IntW) (m : MaskReg) (stl : Stall) (s : State) : Result :=
  .next (s.vred (.vredmax vd vs1 w m stl) (wBits w) (pure2 fun a b => if toSigned (wBits w) a ≤ toSigned (wBits w) b then b else a) vd vs1 m stl)

/-- VREDMINU (R160). -/
def execVredminu (vd vs1 : Reg) (w : IntW) (m : MaskReg) (stl : Stall) (s : State) : Result :=
  .next (s.vred (.vredminu vd vs1 w m stl) (wBits w) (pure2 fun a b => if a ≤ b then a else b) vd vs1 m stl)

/-- VREDMAXU (R160). -/
def execVredmaxu (vd vs1 : Reg) (w : IntW) (m : MaskReg) (stl : Stall) (s : State) : Result :=
  .next (s.vred (.vredmaxu vd vs1 w m stl) (wBits w) (pure2 fun a b => if a ≤ b then b else a) vd vs1 m stl)

/-- VFREDSUM (R160). -/
def execVfredsum (vd vs1 : Reg) (fmt : FpFmt) (m : MaskReg) (stl : Stall) (s : State) : Result :=
  .next (s.vred (.vfredsum vd vs1 fmt m stl) (fBits fmt) (fpAdd (fmtOf fmt)) vd vs1 m stl)

/-- VFREDMIN (R160). -/
def execVfredmin (vd vs1 : Reg) (fmt : FpFmt) (m : MaskReg) (stl : Stall) (s : State) : Result :=
  .next (s.vred (.vfredmin vd vs1 fmt m stl) (fBits fmt) (fpMin (fmtOf fmt)) vd vs1 m stl)

/-- VFREDMAX (R160). -/
def execVfredmax (vd vs1 : Reg) (fmt : FpFmt) (m : MaskReg) (stl : Stall) (s : State) : Result :=
  .next (s.vred (.vfredmax vd vs1 fmt m stl) (fBits fmt) (fpMax (fmtOf fmt)) vd vs1 m stl)

/-- VSCAN (R161). -/
def execVscan (vd vs1 rc : Reg) (half : Bool) (m : MaskReg) (stl : Stall) (s : State) : Result :=
  .next (s.vscanAs (.vscan vd vs1 rc half m stl) (if half then 16 else 32) 16 (fun v => v != 0) (fun _ e => e) vd vs1 rc m
    stl)

/-- VFSCAN: what is not ±0 is live (R161). -/
def execVfscan (vd vs1 rc : Reg) (fmt : FpFmt) (m : MaskReg) (stl : Stall) (s : State) : Result :=
  .next (s.vscanAs (.vfscan vd vs1 rc fmt m stl) (fBits fmt) 16 (fun v => v % 2 ^ (fBits fmt - 1) != 0) (fun _ e => e) vd
    vs1 rc m stl)

/-- VCOMPRESS (R161). -/
def execVcompress (vd vs1 rc : Reg) (w : IntW) (m : MaskReg) (stl : Stall) (s : State) : Result :=
  .next (s.vscanAs (.vcompress vd vs1 rc w m stl) (wBits w) (wBits w) (fun _ => true) (elem (wBits w)) vd vs1 rc m stl)

/-- VPERMX (R162). -/
def execVpermx (vd vs1 vs2 : Reg) (w : IntW) (m : MaskReg) (stl : Stall) (s : State) : Result :=
  .next (s.vmap (.vpermx vd vs1 vs2 w m stl) 3 (wBits w) [useV vs1, useV vs2] [vs1.toNat, vs2.toNat] vd m stl
    fun _ rv e => (elem (wBits w) (rv vs1.toNat) (elem (wBits w) (rv vs2.toNat) e % (512 / wBits w)), 0))

/-- VSLIDE (R162). -/
def execVslide (vd vs1 rs2 : Reg) (w : IntW) (m : MaskReg) (stl : Stall) (s : State) : Result :=
  .next (s.vmap (.vslide vd vs1 rs2 w m stl) 3 (wBits w) [useV vs1, useX rs2] [vs1.toNat] vd m stl
    fun c rv e =>
      let at' := (e : Int) + (c.rx rs2.toNat).toInt
      (if 0 ≤ at' ∧ at' < (512 / wBits w : Nat) then elem (wBits w) (rv vs1.toNat) at'.toNat else 0, 0))

/-- VMAND (R163). -/
def execVmand (md ms1 ms2 : MaskReg) (stl : Stall) (s : State) : Result :=
  .next (s.maskOp (.vmand md ms1 ms2 stl) [useM ms1, useM ms2] md stl fun c => c.rm ms1.toNat &&& c.rm ms2.toNat)

/-- VMOR (R163). -/
def execVmor (md ms1 ms2 : MaskReg) (stl : Stall) (s : State) : Result :=
  .next (s.maskOp (.vmor md ms1 ms2 stl) [useM ms1, useM ms2] md stl fun c => c.rm ms1.toNat ||| c.rm ms2.toNat)

/-- VMXOR (R163). -/
def execVmxor (md ms1 ms2 : MaskReg) (stl : Stall) (s : State) : Result :=
  .next (s.maskOp (.vmxor md ms1 ms2 stl) [useM ms1, useM ms2] md stl fun c => c.rm ms1.toNat ^^^ c.rm ms2.toNat)

/-- VMANDN (R163). -/
def execVmandn (md ms1 ms2 : MaskReg) (stl : Stall) (s : State) : Result :=
  .next (s.maskOp (.vmandn md ms1 ms2 stl) [useM ms1, useM ms2] md stl fun c => c.rm ms1.toNat &&& ~~~(c.rm ms2.toNat))

/-- VMNOT (R163). -/
def execVmnot (md ms1 : MaskReg) (stl : Stall) (s : State) : Result :=
  .next (s.maskOp (.vmnot md ms1 stl) [useM ms1] md stl fun c => ~~~(c.rm ms1.toNat))

/-- VMPOPC (R163). -/
def execVmpopc (rd : Reg) (ms1 : MaskReg) (stl : Stall) (s : State) : Result :=
  .next (s.maskToX (.vmpopc rd ms1 stl) rd ms1 stl fun m => BitVec.ofNat 64 (countBelow 16 m.getLsbD))

/-- VMFIRST (R163). -/
def execVmfirst (rd : Reg) (ms1 : MaskReg) (stl : Stall) (s : State) : Result :=
  .next (s.maskToX (.vmfirst rd ms1 stl) rd ms1 stl fun m =>
    match lowest 16 m.getLsbD with
    | some b => BitVec.ofNat 64 b
    | none => BitVec.allOnes 64)

/-- VMTOX (R163). -/
def execVmtox (rd : Reg) (ms1 : MaskReg) (stl : Stall) (s : State) : Result :=
  .next (s.maskToX (.vmtox rd ms1 stl) rd ms1 stl fun m => m.setWidth 64)

/-- VXTOM (R163). -/
def execVxtom (md : MaskReg) (rs1 : Reg) (stl : Stall) (s : State) : Result :=
  .next (s.maskOp (.vxtom md rs1 stl) [useX rs1] md stl fun c => (c.rx rs1.toNat).setWidth 16)

/-- VEXTR (R164). -/
def execVextr (rd vs1 rs2 : Reg) (w : IntW) (stl : Stall) (s : State) : Result :=
  .next (s.onCompute (.vextr rd vs1 rs2 w stl) fun s =>
    s.issue { reads := [useV vs1, useX rs2], writes := [useX rd], lat := 3 } fun s =>
      s.vec { srcs := [vs1.toNat] } noEarly noOwn fun s rv =>
        s.done stl fun c =>
          c.fixX rd.toNat 3
            (sextN (wBits w) (elem (wBits w) (rv vs1.toNat) ((c.rx rs2.toNat).toNat % (512 / wBits w)))))

/-- VINS (R164). -/
def execVins (vd rs1 rs2 : Reg) (w : IntW) (stl : Stall) (s : State) : Result :=
  .next (s.onCompute (.vins vd rs1 rs2 w stl) fun s =>
    s.issue { reads := [useX rs1, useX rs2, useV vd], writes := [useV vd], lat := 3 } fun s =>
      s.vec { dest := some vd.toNat } noEarly noOwn fun s _ =>
        let n := wBits w
        let at' := (s.me.rx rs2.toNat).toNat % (512 / n)
        (s.putVec vd.toNat 3 (mkVec n fun _ => (s.me.rx rs1.toNat).toNat) (enable n (· == at'))).done stl id)

end Sys2Proof.Machine
end

