-- ==== Sys2Proof/Machine/Dispatch.lean ====
section
/-!
DEFINITION. exec: one arm per row of the opcode table, each a direct call of its meaning.
-/

namespace Sys2Proof.Machine

/-- One instruction, or one step of the table without a word, at a state. -/
def exec (i : Instr) (s : State) : Host.Outcome State Fault Refusal :=
  match i with
  | .lb rd rs1 imm mode stl => Sys2Proof.Machine.execLb rd rs1 imm mode stl s
  | .lh rd rs1 imm mode stl => Sys2Proof.Machine.execLh rd rs1 imm mode stl s
  | .lw rd rs1 imm mode stl => Sys2Proof.Machine.execLw rd rs1 imm mode stl s
  | .ld rd rs1 imm mode stl => Sys2Proof.Machine.execLd rd rs1 imm mode stl s
  | .lbu rd rs1 imm mode stl => Sys2Proof.Machine.execLbu rd rs1 imm mode stl s
  | .lhu rd rs1 imm mode stl => Sys2Proof.Machine.execLhu rd rs1 imm mode stl s
  | .lwu rd rs1 imm mode stl => Sys2Proof.Machine.execLwu rd rs1 imm mode stl s
  | .sb src rs1 imm mode stl => Sys2Proof.Machine.execSb src rs1 imm mode stl s
  | .sh src rs1 imm mode stl => Sys2Proof.Machine.execSh src rs1 imm mode stl s
  | .sw src rs1 imm mode stl => Sys2Proof.Machine.execSw src rs1 imm mode stl s
  | .sd src rs1 imm mode stl => Sys2Proof.Machine.execSd src rs1 imm mode stl s
  | .addi rd rs1 imm stl => Sys2Proof.Machine.execAddi rd rs1 imm stl s
  | .andi rd rs1 imm stl => Sys2Proof.Machine.execAndi rd rs1 imm stl s
  | .ori rd rs1 imm stl => Sys2Proof.Machine.execOri rd rs1 imm stl s
  | .xori rd rs1 imm stl => Sys2Proof.Machine.execXori rd rs1 imm stl s
  | .slti rd rs1 imm stl => Sys2Proof.Machine.execSlti rd rs1 imm stl s
  | .sltiu rd rs1 imm stl => Sys2Proof.Machine.execSltiu rd rs1 imm stl s
  | .slli rd rs1 sh stl => Sys2Proof.Machine.execSlli rd rs1 sh stl s
  | .srli rd rs1 sh stl => Sys2Proof.Machine.execSrli rd rs1 sh stl s
  | .srai rd rs1 sh stl => Sys2Proof.Machine.execSrai rd rs1 sh stl s
  | .rori rd rs1 sh stl => Sys2Proof.Machine.execRori rd rs1 sh stl s
  | .clz rd rs1 stl => Sys2Proof.Machine.execClz rd rs1 stl s
  | .ctz rd rs1 stl => Sys2Proof.Machine.execCtz rd rs1 stl s
  | .popc rd rs1 stl => Sys2Proof.Machine.execPopc rd rs1 stl s
  | .add rd rs1 rs2 stl => Sys2Proof.Machine.execAdd rd rs1 rs2 stl s
  | .sub rd rs1 rs2 stl => Sys2Proof.Machine.execSub rd rs1 rs2 stl s
  | .and rd rs1 rs2 stl => Sys2Proof.Machine.execAnd rd rs1 rs2 stl s
  | .or rd rs1 rs2 stl => Sys2Proof.Machine.execOr rd rs1 rs2 stl s
  | .xor rd rs1 rs2 stl => Sys2Proof.Machine.execXor rd rs1 rs2 stl s
  | .slt rd rs1 rs2 stl => Sys2Proof.Machine.execSlt rd rs1 rs2 stl s
  | .sltu rd rs1 rs2 stl => Sys2Proof.Machine.execSltu rd rs1 rs2 stl s
  | .sll rd rs1 rs2 stl => Sys2Proof.Machine.execSll rd rs1 rs2 stl s
  | .srl rd rs1 rs2 stl => Sys2Proof.Machine.execSrl rd rs1 rs2 stl s
  | .sra rd rs1 rs2 stl => Sys2Proof.Machine.execSra rd rs1 rs2 stl s
  | .ror rd rs1 rs2 stl => Sys2Proof.Machine.execRor rd rs1 rs2 stl s
  | .min rd rs1 rs2 stl => Sys2Proof.Machine.execMin rd rs1 rs2 stl s
  | .max rd rs1 rs2 stl => Sys2Proof.Machine.execMax rd rs1 rs2 stl s
  | .minu rd rs1 rs2 stl => Sys2Proof.Machine.execMinu rd rs1 rs2 stl s
  | .maxu rd rs1 rs2 stl => Sys2Proof.Machine.execMaxu rd rs1 rs2 stl s
  | .addS rd rs1 rs2 stl => Sys2Proof.Machine.execAddS rd rs1 rs2 stl s
  | .subS rd rs1 rs2 stl => Sys2Proof.Machine.execSubS rd rs1 rs2 stl s
  | .adduS rd rs1 rs2 stl => Sys2Proof.Machine.execAdduS rd rs1 rs2 stl s
  | .subuS rd rs1 rs2 stl => Sys2Proof.Machine.execSubuS rd rs1 rs2 stl s
  | .mul rd rs1 rs2 stl => Sys2Proof.Machine.execMul rd rs1 rs2 stl s
  | .mulh rd rs1 rs2 stl => Sys2Proof.Machine.execMulh rd rs1 rs2 stl s
  | .mulhu rd rs1 rs2 stl => Sys2Proof.Machine.execMulhu rd rs1 rs2 stl s
  | .mulhsu rd rs1 rs2 stl => Sys2Proof.Machine.execMulhsu rd rs1 rs2 stl s
  | .div rd rs1 rs2 stl => Sys2Proof.Machine.execDiv rd rs1 rs2 stl s
  | .divu rd rs1 rs2 stl => Sys2Proof.Machine.execDivu rd rs1 rs2 stl s
  | .rem rd rs1 rs2 stl => Sys2Proof.Machine.execRem rd rs1 rs2 stl s
  | .remu rd rs1 rs2 stl => Sys2Proof.Machine.execRemu rd rs1 rs2 stl s
  | .addiw rd rs1 imm stl => Sys2Proof.Machine.execAddiw rd rs1 imm stl s
  | .slliw rd rs1 sh stl => Sys2Proof.Machine.execSlliw rd rs1 sh stl s
  | .srliw rd rs1 sh stl => Sys2Proof.Machine.execSrliw rd rs1 sh stl s
  | .sraiw rd rs1 sh stl => Sys2Proof.Machine.execSraiw rd rs1 sh stl s
  | .clzw rd rs1 stl => Sys2Proof.Machine.execClzw rd rs1 stl s
  | .ctzw rd rs1 stl => Sys2Proof.Machine.execCtzw rd rs1 stl s
  | .popcw rd rs1 stl => Sys2Proof.Machine.execPopcw rd rs1 stl s
  | .addw rd rs1 rs2 stl => Sys2Proof.Machine.execAddw rd rs1 rs2 stl s
  | .subw rd rs1 rs2 stl => Sys2Proof.Machine.execSubw rd rs1 rs2 stl s
  | .sllw rd rs1 rs2 stl => Sys2Proof.Machine.execSllw rd rs1 rs2 stl s
  | .srlw rd rs1 rs2 stl => Sys2Proof.Machine.execSrlw rd rs1 rs2 stl s
  | .sraw rd rs1 rs2 stl => Sys2Proof.Machine.execSraw rd rs1 rs2 stl s
  | .addwS rd rs1 rs2 stl => Sys2Proof.Machine.execAddwS rd rs1 rs2 stl s
  | .subwS rd rs1 rs2 stl => Sys2Proof.Machine.execSubwS rd rs1 rs2 stl s
  | .mulw rd rs1 rs2 stl => Sys2Proof.Machine.execMulw rd rs1 rs2 stl s
  | .divw rd rs1 rs2 stl => Sys2Proof.Machine.execDivw rd rs1 rs2 stl s
  | .divuw rd rs1 rs2 stl => Sys2Proof.Machine.execDivuw rd rs1 rs2 stl s
  | .remw rd rs1 rs2 stl => Sys2Proof.Machine.execRemw rd rs1 rs2 stl s
  | .remuw rd rs1 rs2 stl => Sys2Proof.Machine.execRemuw rd rs1 rs2 stl s
  | .lui rd imm stl => Sys2Proof.Machine.execLui rd imm stl s
  | .auipc rd imm stl => Sys2Proof.Machine.execAuipc rd imm stl s
  | .beq rs1 rs2 off stl => Sys2Proof.Machine.execBeq rs1 rs2 off stl s
  | .bne rs1 rs2 off stl => Sys2Proof.Machine.execBne rs1 rs2 off stl s
  | .blt rs1 rs2 off stl => Sys2Proof.Machine.execBlt rs1 rs2 off stl s
  | .bge rs1 rs2 off stl => Sys2Proof.Machine.execBge rs1 rs2 off stl s
  | .bltu rs1 rs2 off stl => Sys2Proof.Machine.execBltu rs1 rs2 off stl s
  | .bgeu rs1 rs2 off stl => Sys2Proof.Machine.execBgeu rs1 rs2 off stl s
  | .jal rd off stl => Sys2Proof.Machine.execJal rd off stl s
  | .jalr rd rs1 imm stl => Sys2Proof.Machine.execJalr rd rs1 imm stl s
  | .csrrw rd rs1 csr stl => Sys2Proof.Machine.execCsrrw rd rs1 csr stl s
  | .csrrs rd rs1 csr stl => Sys2Proof.Machine.execCsrrs rd rs1 csr stl s
  | .csrrc rd rs1 csr stl => Sys2Proof.Machine.execCsrrc rd rs1 csr stl s
  | .csrrwi rd csr uimm stl => Sys2Proof.Machine.execCsrrwi rd csr uimm stl s
  | .csrrsi rd csr uimm stl => Sys2Proof.Machine.execCsrrsi rd csr uimm stl s
  | .csrrci rd csr uimm stl => Sys2Proof.Machine.execCsrrci rd csr uimm stl s
  | .ecall stl => Sys2Proof.Machine.execEcall stl s
  | .ebreak stl => Sys2Proof.Machine.execEbreak stl s
  | .wfe rd rs1 stl => Sys2Proof.Machine.execWfe rd rs1 stl s
  | .fenceI stl => Sys2Proof.Machine.execFenceI stl s
  | .tlbw rs1 rs2 stl => Sys2Proof.Machine.execTlbw rs1 rs2 stl s
  | .tlbinv rs1 rs2 stl => Sys2Proof.Machine.execTlbinv rs1 rs2 stl s
  | .resume rd rs1 stl => Sys2Proof.Machine.execResume rd rs1 stl s
  | .kill rd rs1 stl => Sys2Proof.Machine.execKill rd rs1 stl s
  | .prio rs1 stl => Sys2Proof.Machine.execPrio rs1 stl s
  | .amoswap rd rs1 rs2 ord wide scope stl => Sys2Proof.Machine.execAmoswap rd rs1 rs2 ord wide scope stl s
  | .amoadd rd rs1 rs2 ord wide scope stl => Sys2Proof.Machine.execAmoadd rd rs1 rs2 ord wide scope stl s
  | .amoand rd rs1 rs2 ord wide scope stl => Sys2Proof.Machine.execAmoand rd rs1 rs2 ord wide scope stl s
  | .amoor rd rs1 rs2 ord wide scope stl => Sys2Proof.Machine.execAmoor rd rs1 rs2 ord wide scope stl s
  | .amoxor rd rs1 rs2 ord wide scope stl => Sys2Proof.Machine.execAmoxor rd rs1 rs2 ord wide scope stl s
  | .amomin rd rs1 rs2 ord wide scope stl => Sys2Proof.Machine.execAmomin rd rs1 rs2 ord wide scope stl s
  | .amomax rd rs1 rs2 ord wide scope stl => Sys2Proof.Machine.execAmomax rd rs1 rs2 ord wide scope stl s
  | .amominu rd rs1 rs2 ord wide scope stl => Sys2Proof.Machine.execAmominu rd rs1 rs2 ord wide scope stl s
  | .amomaxu rd rs1 rs2 ord wide scope stl => Sys2Proof.Machine.execAmomaxu rd rs1 rs2 ord wide scope stl s
  | .lr rd rs1 ord wide scope stl => Sys2Proof.Machine.execLr rd rs1 ord wide scope stl s
  | .sc rd rs1 rs2 ord wide scope stl => Sys2Proof.Machine.execSc rd rs1 rs2 ord wide scope stl s
  | .fence scope stl => Sys2Proof.Machine.execFence scope stl s
  | .fenceSc stl => Sys2Proof.Machine.execFenceSc stl s
  | .xfence dst src scope stl => Sys2Proof.Machine.execXfence dst src scope stl s
  | .vld vd rs1 mode w m stl => Sys2Proof.Machine.execVld vd rs1 mode w m stl s
  | .vlds vd rs1 rs2 mode w m stl => Sys2Proof.Machine.execVlds vd rs1 rs2 mode w m stl s
  | .vldx vd rs1 vs2 mode w m stl => Sys2Proof.Machine.execVldx vd rs1 vs2 mode w m stl s
  | .vst vs3 rs1 mode w m stl => Sys2Proof.Machine.execVst vs3 rs1 mode w m stl s
  | .vsts vs3 rs1 rs2 mode w m stl => Sys2Proof.Machine.execVsts vs3 rs1 rs2 mode w m stl s
  | .vstx vs3 rs1 vs2 mode w m stl => Sys2Proof.Machine.execVstx vs3 rs1 vs2 mode w m stl s
  | .vadd vd vs1 vs2 w m stl => Sys2Proof.Machine.execVadd vd vs1 vs2 w m stl s
  | .vsub vd vs1 vs2 w m stl => Sys2Proof.Machine.execVsub vd vs1 vs2 w m stl s
  | .vmul vd vs1 vs2 w m stl => Sys2Proof.Machine.execVmul vd vs1 vs2 w m stl s
  | .vmulh vd vs1 vs2 w m stl => Sys2Proof.Machine.execVmulh vd vs1 vs2 w m stl s
  | .vmulhu vd vs1 vs2 w m stl => Sys2Proof.Machine.execVmulhu vd vs1 vs2 w m stl s
  | .vmin vd vs1 vs2 w m stl => Sys2Proof.Machine.execVmin vd vs1 vs2 w m stl s
  | .vmax vd vs1 vs2 w m stl => Sys2Proof.Machine.execVmax vd vs1 vs2 w m stl s
  | .vminu vd vs1 vs2 w m stl => Sys2Proof.Machine.execVminu vd vs1 vs2 w m stl s
  | .vmaxu vd vs1 vs2 w m stl => Sys2Proof.Machine.execVmaxu vd vs1 vs2 w m stl s
  | .vand vd vs1 vs2 w m stl => Sys2Proof.Machine.execVand vd vs1 vs2 w m stl s
  | .vor vd vs1 vs2 w m stl => Sys2Proof.Machine.execVor vd vs1 vs2 w m stl s
  | .vxor vd vs1 vs2 w m stl => Sys2Proof.Machine.execVxor vd vs1 vs2 w m stl s
  | .vsll vd vs1 vs2 w m stl => Sys2Proof.Machine.execVsll vd vs1 vs2 w m stl s
  | .vsrl vd vs1 vs2 w m stl => Sys2Proof.Machine.execVsrl vd vs1 vs2 w m stl s
  | .vsra vd vs1 vs2 w m stl => Sys2Proof.Machine.execVsra vd vs1 vs2 w m stl s
  | .vaddS vd vs1 vs2 w m stl => Sys2Proof.Machine.execVaddS vd vs1 vs2 w m stl s
  | .vsubS vd vs1 vs2 w m stl => Sys2Proof.Machine.execVsubS vd vs1 vs2 w m stl s
  | .vadduS vd vs1 vs2 w m stl => Sys2Proof.Machine.execVadduS vd vs1 vs2 w m stl s
  | .vsubuS vd vs1 vs2 w m stl => Sys2Proof.Machine.execVsubuS vd vs1 vs2 w m stl s
  | .vmacc vd vs1 vs2 w m stl => Sys2Proof.Machine.execVmacc vd vs1 vs2 w m stl s
  | .vsel vd vs1 vs2 w m stl => Sys2Proof.Machine.execVsel vd vs1 vs2 w m stl s
  | .vbcast vd rs1 w m stl => Sys2Proof.Machine.execVbcast vd rs1 w m stl s
  | .vcmpeq md vs1 vs2 w m stl => Sys2Proof.Machine.execVcmpeq md vs1 vs2 w m stl s
  | .vcmpne md vs1 vs2 w m stl => Sys2Proof.Machine.execVcmpne md vs1 vs2 w m stl s
  | .vcmplt md vs1 vs2 w m stl => Sys2Proof.Machine.execVcmplt md vs1 vs2 w m stl s
  | .vcmple md vs1 vs2 w m stl => Sys2Proof.Machine.execVcmple md vs1 vs2 w m stl s
  | .vcmpltu md vs1 vs2 w m stl => Sys2Proof.Machine.execVcmpltu md vs1 vs2 w m stl s
  | .vcmpleu md vs1 vs2 w m stl => Sys2Proof.Machine.execVcmpleu md vs1 vs2 w m stl s
  | .vfadd vd vs1 vs2 fmt m stl => Sys2Proof.Machine.execVfadd vd vs1 vs2 fmt m stl s
  | .vfsub vd vs1 vs2 fmt m stl => Sys2Proof.Machine.execVfsub vd vs1 vs2 fmt m stl s
  | .vfmul vd vs1 vs2 fmt m stl => Sys2Proof.Machine.execVfmul vd vs1 vs2 fmt m stl s
  | .vfdiv vd vs1 vs2 fmt m stl => Sys2Proof.Machine.execVfdiv vd vs1 vs2 fmt m stl s
  | .vfmin vd vs1 vs2 fmt m stl => Sys2Proof.Machine.execVfmin vd vs1 vs2 fmt m stl s
  | .vfmax vd vs1 vs2 fmt m stl => Sys2Proof.Machine.execVfmax vd vs1 vs2 fmt m stl s
  | .vfma vd vs1 vs2 fmt m stl => Sys2Proof.Machine.execVfma vd vs1 vs2 fmt m stl s
  | .vfsqrt vd vs1 fmt m stl => Sys2Proof.Machine.execVfsqrt vd vs1 fmt m stl s
  | .vfexp2 vd vs1 fmt m stl => Sys2Proof.Machine.execVfexp2 vd vs1 fmt m stl s
  | .vfabs vd vs1 fmt m stl => Sys2Proof.Machine.execVfabs vd vs1 fmt m stl s
  | .vfneg vd vs1 fmt m stl => Sys2Proof.Machine.execVfneg vd vs1 fmt m stl s
  | .vfsgnj vd vs1 vs2 fmt m stl => Sys2Proof.Machine.execVfsgnj vd vs1 vs2 fmt m stl s
  | .vfcmpeq md vs1 vs2 m stl => Sys2Proof.Machine.execVfcmpeq md vs1 vs2 m stl s
  | .vfcmplt md vs1 vs2 m stl => Sys2Proof.Machine.execVfcmplt md vs1 vs2 m stl s
  | .vfcmple md vs1 vs2 m stl => Sys2Proof.Machine.execVfcmple md vs1 vs2 m stl s
  | .vfcmpun md vs1 vs2 m stl => Sys2Proof.Machine.execVfcmpun md vs1 vs2 m stl s
  | .vcvtF32Bf16 vd vs1 part m stl => Sys2Proof.Machine.execVcvtF32Bf16 vd vs1 part m stl s
  | .vcvtF32F16 vd vs1 part m stl => Sys2Proof.Machine.execVcvtF32F16 vd vs1 part m stl s
  | .vcvtBf16F32 vd vs1 part rm m stl => Sys2Proof.Machine.execVcvtBf16F32 vd vs1 part rm m stl s
  | .vcvtF16F32 vd vs1 part rm m stl => Sys2Proof.Machine.execVcvtF16F32 vd vs1 part rm m stl s
  | .vcvtF32E4m3 vd vs1 part m stl => Sys2Proof.Machine.execVcvtF32E4m3 vd vs1 part m stl s
  | .vcvtF32E5m2 vd vs1 part m stl => Sys2Proof.Machine.execVcvtF32E5m2 vd vs1 part m stl s
  | .vcvtE4m3F32 vd vs1 part rm m stl => Sys2Proof.Machine.execVcvtE4m3F32 vd vs1 part rm m stl s
  | .vcvtE5m2F32 vd vs1 part rm m stl => Sys2Proof.Machine.execVcvtE5m2F32 vd vs1 part rm m stl s
  | .vcvtBf16F16 vd vs1 rm m stl => Sys2Proof.Machine.execVcvtBf16F16 vd vs1 rm m stl s
  | .vcvtF16Bf16 vd vs1 rm m stl => Sys2Proof.Machine.execVcvtF16Bf16 vd vs1 rm m stl s
  | .vcvtF32I32 vd vs1 rm m stl => Sys2Proof.Machine.execVcvtF32I32 vd vs1 rm m stl s
  | .vcvtF32U32 vd vs1 rm m stl => Sys2Proof.Machine.execVcvtF32U32 vd vs1 rm m stl s
  | .vcvtI32F32 vd vs1 rm m stl => Sys2Proof.Machine.execVcvtI32F32 vd vs1 rm m stl s
  | .vcvtU32F32 vd vs1 rm m stl => Sys2Proof.Machine.execVcvtU32F32 vd vs1 rm m stl s
  | .vcvtF32I16 vd vs1 part m stl => Sys2Proof.Machine.execVcvtF32I16 vd vs1 part m stl s
  | .vcvtF32I8 vd vs1 part m stl => Sys2Proof.Machine.execVcvtF32I8 vd vs1 part m stl s
  | .vcvtI16F32 vd vs1 part rm m stl => Sys2Proof.Machine.execVcvtI16F32 vd vs1 part rm m stl s
  | .vcvtI8F32 vd vs1 part rm m stl => Sys2Proof.Machine.execVcvtI8F32 vd vs1 part rm m stl s
  | .vcvtI32I16 vd vs1 part m stl => Sys2Proof.Machine.execVcvtI32I16 vd vs1 part m stl s
  | .vcvtI32I8 vd vs1 part m stl => Sys2Proof.Machine.execVcvtI32I8 vd vs1 part m stl s
  | .vcvtI16I32 vd vs1 part m stl => Sys2Proof.Machine.execVcvtI16I32 vd vs1 part m stl s
  | .vcvtI8I32 vd vs1 part m stl => Sys2Proof.Machine.execVcvtI8I32 vd vs1 part m stl s
  | .vredsum vd vs1 w m stl => Sys2Proof.Machine.execVredsum vd vs1 w m stl s
  | .vredmin vd vs1 w m stl => Sys2Proof.Machine.execVredmin vd vs1 w m stl s
  | .vredmax vd vs1 w m stl => Sys2Proof.Machine.execVredmax vd vs1 w m stl s
  | .vredminu vd vs1 w m stl => Sys2Proof.Machine.execVredminu vd vs1 w m stl s
  | .vredmaxu vd vs1 w m stl => Sys2Proof.Machine.execVredmaxu vd vs1 w m stl s
  | .vfredsum vd vs1 fmt m stl => Sys2Proof.Machine.execVfredsum vd vs1 fmt m stl s
  | .vfredmin vd vs1 fmt m stl => Sys2Proof.Machine.execVfredmin vd vs1 fmt m stl s
  | .vfredmax vd vs1 fmt m stl => Sys2Proof.Machine.execVfredmax vd vs1 fmt m stl s
  | .vscan vd vs1 rc half m stl => Sys2Proof.Machine.execVscan vd vs1 rc half m stl s
  | .vfscan vd vs1 rc fmt m stl => Sys2Proof.Machine.execVfscan vd vs1 rc fmt m stl s
  | .vcompress vd vs1 rc w m stl => Sys2Proof.Machine.execVcompress vd vs1 rc w m stl s
  | .vpermx vd vs1 vs2 w m stl => Sys2Proof.Machine.execVpermx vd vs1 vs2 w m stl s
  | .vslide vd vs1 rs2 w m stl => Sys2Proof.Machine.execVslide vd vs1 rs2 w m stl s
  | .vmand md ms1 ms2 stl => Sys2Proof.Machine.execVmand md ms1 ms2 stl s
  | .vmor md ms1 ms2 stl => Sys2Proof.Machine.execVmor md ms1 ms2 stl s
  | .vmxor md ms1 ms2 stl => Sys2Proof.Machine.execVmxor md ms1 ms2 stl s
  | .vmandn md ms1 ms2 stl => Sys2Proof.Machine.execVmandn md ms1 ms2 stl s
  | .vmnot md ms1 stl => Sys2Proof.Machine.execVmnot md ms1 stl s
  | .vmpopc rd ms1 stl => Sys2Proof.Machine.execVmpopc rd ms1 stl s
  | .vmfirst rd ms1 stl => Sys2Proof.Machine.execVmfirst rd ms1 stl s
  | .vmtox rd ms1 stl => Sys2Proof.Machine.execVmtox rd ms1 stl s
  | .vxtom md rs1 stl => Sys2Proof.Machine.execVxtom md rs1 stl s
  | .vextr rd vs1 rs2 w stl => Sys2Proof.Machine.execVextr rd vs1 rs2 w stl s
  | .vins vd rs1 rs2 w stl => Sys2Proof.Machine.execVins vd rs1 rs2 w stl s
  | .sbind n stl => Sys2Proof.Machine.execSbind n stl s
  | .sclose n stl => Sys2Proof.Machine.execSclose n stl s
  | .evsend rs1 rs2 stl => Sys2Proof.Machine.execEvsend rs1 rs2 stl s
  | .evsendnb rd rs1 rs2 stl => Sys2Proof.Machine.execEvsendnb rd rs1 rs2 stl s
  | .evpop rd rs1 stl => Sys2Proof.Machine.execEvpop rd rs1 stl s
  | .evmc rs1 rs2 stl => Sys2Proof.Machine.execEvmc rs1 rs2 stl s
  | .sdq rd vs rs1 m stl => Sys2Proof.Machine.execSdq rd vs rs1 m stl s
  | .exit stl => Sys2Proof.Machine.execExit stl s
  | .spawn rs1 rs2 stl => Sys2Proof.Machine.execSpawn rs1 rs2 stl s
  | .migr rs1 rs2 stl => Sys2Proof.Machine.execMigr rs1 rs2 stl s
  | .yield stl => Sys2Proof.Machine.execYield stl s
  | .jobcard rd rs1 rs2 stl => Sys2Proof.Machine.execJobcard rd rs1 rs2 stl s
  | .barinit rd rs1 rs2 stl => Sys2Proof.Machine.execBarinit rd rs1 rs2 stl s
  | .bararv rd rs1 stl => Sys2Proof.Machine.execBararv rd rs1 stl s
  | .barwait rs1 rs2 stl => Sys2Proof.Machine.execBarwait rs1 rs2 stl s
  | .barsync rs1 stl => Sys2Proof.Machine.execBarsync rs1 stl s
  | .tarm rs1 stl => Sys2Proof.Machine.execTarm rs1 stl s
  | .tclr rs1 stl => Sys2Proof.Machine.execTclr rs1 stl s
  | .twany rd rs1 stl => Sys2Proof.Machine.execTwany rd rs1 stl s
  | .twall rs1 stl => Sys2Proof.Machine.execTwall rs1 stl s
  | .tffr rd rs1 stl => Sys2Proof.Machine.execTffr rd rs1 stl s
  | .cntwaitge rs1 rs2 stl => Sys2Proof.Machine.execCntwaitge rs1 rs2 stl s
  | .mset er rs1 stl => Sys2Proof.Machine.execMset er rs1 stl s
  | .mget rd er stl => Sys2Proof.Machine.execMget rd er stl s
  | .mloadw rd rs1 rs2 stl => Sys2Proof.Machine.execMloadw rd rs1 rs2 stl s
  | .mmul rd rs1 rs2 stl => Sys2Proof.Machine.execMmul rd rs1 rs2 stl s
  | .evmac rd rs1 stl => Sys2Proof.Machine.execEvmac rd rs1 stl s
  | .mdrain rd rs1 stl => Sys2Proof.Machine.execMdrain rd rs1 stl s
  | .mzero rd rs1 stl => Sys2Proof.Machine.execMzero rd rs1 stl s
  | .mchk rd rs1 stl => Sys2Proof.Machine.execMchk rd rs1 stl s
  | .cpush rs1 rs2 stl => Sys2Proof.Machine.execCpush rs1 rs2 stl s
  | .cpushnb rd rs1 rs2 stl => Sys2Proof.Machine.execCpushnb rd rs1 rs2 stl s
  | .gather rd rs1 rs2 stl => Sys2Proof.Machine.execGather rd rs1 rs2 stl s
  | .scatadd rd rs1 rs2 stl => Sys2Proof.Machine.execScatadd rd rs1 rs2 stl s
  | .bin rd rs1 rs2 stl => Sys2Proof.Machine.execBin rd rs1 rs2 stl s
  | .get rd rs1 rs2 stl => Sys2Proof.Machine.execGet rd rs1 rs2 stl s
  | .put rd rs1 rs2 stl => Sys2Proof.Machine.execPut rd rs1 rs2 stl s
  | .redcopy rd rs1 rs2 stl => Sys2Proof.Machine.execRedcopy rd rs1 rs2 stl s
  | .ramo rd rs1 rs2 stl => Sys2Proof.Machine.execRamo rd rs1 rs2 stl s
  | .wfeNotice => Sys2Proof.Machine.execWfeNotice s
  | .streamPrefetch => Sys2Proof.Machine.execStreamPrefetch s
  | .jobCardDeal => Sys2Proof.Machine.execJobCardDeal s
  | .cardTaskStart => Sys2Proof.Machine.execCardTaskStart s
  | .matrixOpStart => Sys2Proof.Machine.execMatrixOpStart s
  | .mmulGroupCommit => Sys2Proof.Machine.execMmulGroupCommit s
  | .drainRow => Sys2Proof.Machine.execDrainRow s
  | .drainDispatch => Sys2Proof.Machine.execDrainDispatch s
  | .rowDeparture => Sys2Proof.Machine.execRowDeparture s
  | .engineRequestStart => Sys2Proof.Machine.execEngineRequestStart s
  | .tagPost => Sys2Proof.Machine.execTagPost s
  | .copyBytesWritten => Sys2Proof.Machine.execCopyBytesWritten s
  | .counterAdd => Sys2Proof.Machine.execCounterAdd s
  | .requestHalt => Sys2Proof.Machine.execRequestHalt s
  | .requestResume => Sys2Proof.Machine.execRequestResume s
  | .requestAccessFault => Sys2Proof.Machine.execRequestAccessFault s
  | .gatherSnapshot => Sys2Proof.Machine.execGatherSnapshot s
  | .scataddUpdate => Sys2Proof.Machine.execScataddUpdate s
  | .netRemoteWrite => Sys2Proof.Machine.execNetRemoteWrite s
  | .netRemoteRead => Sys2Proof.Machine.execNetRemoteRead s
  | .netAck => Sys2Proof.Machine.execNetAck s
  | .netRefusal => Sys2Proof.Machine.execNetRefusal s
  | .redcopyBlock => Sys2Proof.Machine.execRedcopyBlock s
  | .ramoAtTarget => Sys2Proof.Machine.execRamoAtTarget s
  | .ramoResponse => Sys2Proof.Machine.execRamoResponse s
  | .remoteFlatAccess => Sys2Proof.Machine.execRemoteFlatAccess s
  | .remoteLoadResponse => Sys2Proof.Machine.execRemoteLoadResponse s
  | .remoteStoreAck => Sys2Proof.Machine.execRemoteStoreAck s
  | .eventArrival => Sys2Proof.Machine.execEventArrival s
  | .clockGate => Sys2Proof.Machine.execClockGate s
  | .flitHopResend => Sys2Proof.Machine.execFlitHopResend s
  | .eventParityError => Sys2Proof.Machine.execEventParityError s
  | .eventDispatch => Sys2Proof.Machine.execEventDispatch s
  | .repartition => Sys2Proof.Machine.execRepartition s
  | .chtabWrite => Sys2Proof.Machine.execChtabWrite s
  | .genWrite => Sys2Proof.Machine.execGenWrite s
  | .stlchkWrite => Sys2Proof.Machine.execStlchkWrite s
  | .fflagsAccess => Sys2Proof.Machine.execFflagsAccess s
  | .asidWrite => Sys2Proof.Machine.execAsidWrite s
  | .trappairWrite => Sys2Proof.Machine.execTrappairWrite s
  | .ctxwinWrite => Sys2Proof.Machine.execCtxwinWrite s
  | .regnWrite => Sys2Proof.Machine.execRegnWrite s
  | .csrWrite => Sys2Proof.Machine.execCsrWrite s
  | .trapNotice => Sys2Proof.Machine.execTrapNotice s
  | .serviceContextRestart => Sys2Proof.Machine.execServiceContextRestart s
  | .tlbMissNotice => Sys2Proof.Machine.execTlbMissNotice s
  | .parkResume => Sys2Proof.Machine.execParkResume s
  | .coachSwap => Sys2Proof.Machine.execCoachSwap s
  | .coachSave => Sys2Proof.Machine.execCoachSave s
  | .coachReadmission => Sys2Proof.Machine.execCoachReadmission s
  | .recordArrival => Sys2Proof.Machine.execRecordArrival s
  | .ringReturn => Sys2Proof.Machine.execRingReturn s
  | .bankRecordWithdrawn => Sys2Proof.Machine.execBankRecordWithdrawn s
  | .recordStart => Sys2Proof.Machine.execRecordStart s
  | .coachAdmission => Sys2Proof.Machine.execCoachAdmission s
  | .placementStep => Sys2Proof.Machine.execPlacementStep s
  | .predlExpiry => Sys2Proof.Machine.execPredlExpiry s
  | .gangReadyPost => Sys2Proof.Machine.execGangReadyPost s
  | .gangReadyMessage => Sys2Proof.Machine.execGangReadyMessage s
  | .gangDecision => Sys2Proof.Machine.execGangDecision s
  | .sliceStart => Sys2Proof.Machine.execSliceStart s
  | .sliceEnd => Sys2Proof.Machine.execSliceEnd s
  | .stageWeightUpdate => Sys2Proof.Machine.execStageWeightUpdate s
  | .contextAged => Sys2Proof.Machine.execContextAged s
  | .activeMessage => Sys2Proof.Machine.execActiveMessage s
  | .logForward => Sys2Proof.Machine.execLogForward s
  | .hostSend => Sys2Proof.Machine.execHostSend s
  | .hostRdmaWrite => Sys2Proof.Machine.execHostRdmaWrite s
  | .hostRdmaRead => Sys2Proof.Machine.execHostRdmaRead s
  | .registerLaunch => Sys2Proof.Machine.execRegisterLaunch s
  | .retireLaunch => Sys2Proof.Machine.execRetireLaunch s
  | .reqRead => Sys2Proof.Machine.execReqRead s
  | .reqWrite => Sys2Proof.Machine.execReqWrite s
  | .tokens => Sys2Proof.Machine.execTokens s
  | .transientTimeout => Sys2Proof.Machine.execTransientTimeout s
  | .persistReq => Sys2Proof.Machine.execPersistReq s
  | .persistOn => Sys2Proof.Machine.execPersistOn s
  | .persistOff => Sys2Proof.Machine.execPersistOff s
  | .persistDone => Sys2Proof.Machine.execPersistDone s
  | .lineEviction => Sys2Proof.Machine.execLineEviction s
  | .tierPromote => Sys2Proof.Machine.execTierPromote s
  | .tierEvict => Sys2Proof.Machine.execTierEvict s
  | .tierQuery => Sys2Proof.Machine.execTierQuery s
  | .tileHeld => Sys2Proof.Machine.execTileHeld s
  | .tileAbsent => Sys2Proof.Machine.execTileAbsent s
  | .freeze => Sys2Proof.Machine.execFreeze s
  | .freezeAtTick => Sys2Proof.Machine.execFreezeAtTick s
  | .release => Sys2Proof.Machine.execRelease s
  | .releaseAtTick => Sys2Proof.Machine.execReleaseAtTick s
  | .scanRead => Sys2Proof.Machine.execScanRead s
  | .linkUnitReplay => Sys2Proof.Machine.execLinkUnitReplay s
  | .linkRetrain => Sys2Proof.Machine.execLinkRetrain s
  | .dieOutOfService => Sys2Proof.Machine.execDieOutOfService s
  | .timeMessage => Sys2Proof.Machine.execTimeMessage s
  | .domainJoin => Sys2Proof.Machine.execDomainJoin s
  | .budgetPeriod => Sys2Proof.Machine.execBudgetPeriod s
  | .governorPeriod => Sys2Proof.Machine.execGovernorPeriod s
  | .thermalThrottle => Sys2Proof.Machine.execThermalThrottle s
  | .thermalTrip => Sys2Proof.Machine.execThermalTrip s
  | .uncorrectableError => Sys2Proof.Machine.execUncorrectableError s
  | .powerOn => Sys2Proof.Machine.execPowerOn s
  | .getVersion => Sys2Proof.Machine.execGetVersion s
  | .getCapabilities => Sys2Proof.Machine.execGetCapabilities s
  | .negotiateAlgorithms => Sys2Proof.Machine.execNegotiateAlgorithms s
  | .getDigests => Sys2Proof.Machine.execGetDigests s
  | .getCertificate => Sys2Proof.Machine.execGetCertificate s
  | .challenge => Sys2Proof.Machine.execChallenge s
  | .getMeasurements => Sys2Proof.Machine.execGetMeasurements s
  | .illegalInstruction => Sys2Proof.Machine.execIllegalInstruction s
  | .fetchFault => Sys2Proof.Machine.execFetchFault s
  | .transientAttempt => Sys2Proof.Machine.execTransientAttempt s
  | .constrainedSequenceLimit => Sys2Proof.Machine.execConstrainedSequenceLimit s
  | .vdnRemap => Sys2Proof.Machine.execVdnRemap s
  | .spareColumnSubstitution => Sys2Proof.Machine.execSpareColumnSubstitution s
  | .budgetSetting => Sys2Proof.Machine.execBudgetSetting s

end Sys2Proof.Machine
end

