-- ==== Sys2Proof/Machine/Sched.lean ====
section
/-!
DEFINITION. The issue scheduler (R323, R324), what ends a wait, the passing of time (R120, R359, R360), and the fetch of the
next instruction (R101, R109), with the instruction placed for a fetch.
-/

namespace Sys2Proof.Machine

/-! ### What ends a wait -/

/-- Whether a deferred fault of a context waits on a tag of a mask (R254). -/
def Ctx.faultOnTags (x : Ctx) (mask : Word) : Bool :=
  x.deferred.any fun d => (d.tag.map fun n => bit mask n).getD false

/-- Whether a tag of a mask has received more than was posted (R329). -/
def Core.pastOnTags (co : Core) (mask : Word) : Bool :=
  (List.range 64).any fun n => bit mask n && decide ((co.tag n).expected < (co.tag n).arrived.toNat)

/-- Whether the counter that a context waits for has reached its target, or cannot be read as memory (R253). -/
def State.counterDone (s : State) (k : Nat) (x : Ctx) (a target : Word) : Bool :=
  (x.deferred.any fun d => d.counter == a.toNat && d.counter != 0) ||
    match s.translate k x.asid x.sup .read a with
    | .mem pa => poisonedAt s.poison pa 8 || decide (target.toNat ≤ s.memRead pa 8)
    | _ => true

/-- Whether what a context waits for has come, so that it executes its instruction again. -/
def State.wakes (s : State) (k c : Nat) (x : Ctx) : Wait → Bool
  | .event mask => ((s.core k).eventOf mask).isSome || x.preq
  | .notice => !(s.cluster (clusterOf k)).notices.isEmpty && !s.noticeBelow k c
  | .barrier b phase =>
    let y := (s.cluster (clusterOf k)).bars.get b {}
    y.phase != phase || y.members == 0
  | .tagAny mask =>
    ((List.range 64).any fun n => bit mask n && ((s.core k).tag n).ready)
      || (s.core k).pastOnTags mask || x.faultOnTags mask
  | .tagAll mask =>
    ((List.range 64).all fun n => !bit mask n || ((s.core k).tag n).ready)
      || (s.core k).pastOnTags mask || x.faultOnTags mask
  | .counter a target => s.counterDone k x a target
  | .flits n => (s.core k).grants c n
  | .fifo => !(s.core k).fifoFull
  | .enginePlace =>
    (((s.core k).mxq.findIdx? fun o => o.waits && o.owned && o.ctx == c).map fun n => decide (n < 4)).getD true
  | .engineIdle => ((s.core k).mxq.head?.map fun o => o.kind == .evmac && o.owned && o.ctx == c).getD true
  | .engineOwn departed => !(s.core k).mxOwn c departed || !x.deferred.isEmpty
  | .tlb acc va => s.translate k x.asid x.sup acc va != .miss
  | .line h n write => !s.lineBlocked h n write (some (k, c))
  | .inval tag extent => !s.usesRemoved (clusterOf k) tag extent
  | .ring j => s.recordRoom j
  | .remote => false
  | .fence src => !s.classBusy k c src

/-! ### Which context issues (R323, R324) -/

/-- Whether a context's coach lets it issue: its save has not begun, but for an instruction that has issued (R239, R339). -/
def State.coachLets (s : State) (k c : Nat) (x : Ctx) : Bool := !s.beingSaved k x || s.underWay k c x

/-- Whether a context parks at its next instruction: a request of its task has halted, and no instruction of it is under way at
another package (R254, R261, R277). -/
def Ctx.parksNext (x : Ctx) : Bool := x.parkNext.isSome && !x.remoteAsked && x.remoteVals.isEmpty

/-- Whether a context could issue in this cycle (R82, R323). -/
def State.canIssue (s : State) (k c : Nat) (x : Ctx) : Bool :=
  let up := match x.run with
    | .ready => true
    | .waiting w => x.parksNext || s.wakes k c x w
    | _ => false
  up && x.stall == 0 && !s.isFrozen k x && s.coachLets k c x

/-- The contexts of a core that could issue. -/
def State.ready (s : State) (k : Nat) : List Nat :=
  (List.range (ctxCount k)).filter fun c => s.hasCore k && s.canIssue k c (s.ctx k c)

/-- The weight of a context: that of its stage, else 1 (R322). -/
def State.weightOf (s : State) (k c : Nat) : Nat :=
  ((s.ctx k c).handlerOf.bind (s.core k).weightsOf.find?).getD 1

/-- The pick among the ready contexts of one class by weighted round-robin, and the class's pointer after it (R323). -/
def roundRobin (weight : Nat → Nat) (t : Turn) (cands : List Nat) : Option (Nat × Turn) :=
  if cands.contains t.ptr && decide (t.cnt < weight t.ptr) then some (t.ptr, { t with cnt := t.cnt + 1 })
  else
    ((List.range 8).map fun i => (t.ptr + 1 + i) % 8).findSome? fun c =>
      if cands.contains c then some (c, { ptr := c, cnt := 1 }) else none

/-- The Eff of a context that governs the next cycle: its class, and what it inherited a cycle ago (R129, R325). -/
def State.effGoverns (s : State) (k c : Nat) : Nat := Nat.max (s.ctx k c).cls.toNat ((s.core k).inherits.get c 0)

/-- Whether a ready context is aged: its Eff is above 0, and 256 cycles have passed (R324). -/
def State.isAged (s : State) (k c : Nat) : Bool :=
  decide (1 ≤ s.effGoverns k c) && ((s.ctx k c).aged || decide (256 ≤ (s.ctx k c).age))

/-- What the scheduler picks on a core: the context, and the core with its pointers (R206, R323). -/
def State.pick (s : State) (k : Nat) : Option (Nat × Core) :=
  let co := s.core k
  let ready := s.ready k
  match ready.find? (s.isAged k) with
  | some c => some (c, co)
  | none =>
    let cls := ready.foldl (fun m c => max m (s.effGoverns k c)) 0
    let mine := ready.filter fun c => s.effGoverns k c == cls
    let willing := mine.filter fun c => !(s.ctx k c).passed
    let cands := if willing.isEmpty then mine else willing
    (roundRobin (s.weightOf k) (co.rr.get cls {}) cands).map fun p =>
      (p.1, { co with rr := co.rr.set cls p.2
                      ctxs := co.ctxs.mapVal fun c x => if mine.contains c then { x with passed := false } else x })

/-! ### Time -/

/-- Time passes on the package: PTC by some nanoseconds at the corrected rate, and each die's CYCLE (R120, R359, R360; log 4). -/
def State.timePasses (s : State) : State :=
  let ns := Config.elapsedNs s.free
  let cyc (m : SMap Nat) (p : Nat × Nat) : SMap Nat := m.set p.1 (m.get p.1 0 + Config.elapsedCycles s.free p.1)
  { s with ptc := s.ptc + ((ns : Int) * (1000000 + s.rate) / 1000000).toNat, cycles := s.vdns.foldl cyc s.cycles }.tick

/-- What each context of a core inherits above its class (R325). -/
def State.inheritance (s : State) (k : Nat) : SMap Nat :=
  (List.range (ctxCount k)).filterMap fun c =>
    if (s.ctx k c).cls.toNat < s.effOf k c then some (c, s.effOf k c) else none

/-- A cycle of core k in which context c issues, or none when c is 8: the others' stall counts fall and their ages rise, and what
they inherit governs from the next cycle (R82, R324, R325). -/
def State.coreCycle (s : State) (k c : Nat) : State :=
  let other (x : Ctx) (n : Nat) : Ctx :=
    if n = c then { x with age := 0, aged := false }
    else if x.stall ≠ 0 then { x with stall := x.stall - 1 }
    else if s.canIssue k n x then { x with age := x.age + 1 } else { x with age := 0, aged := false }
  s.updCore k fun co =>
    { co with gated := false, inherits := s.inheritance k, ctxs := co.ctxs.mapVal fun n x => other x n }

/-! ### The next instruction -/

/-- The core that acts next: the first of `turns`, else the one that acted last. -/
def State.turn (s : State) : State :=
  match s.turns with
  | [] => s
  | k :: r => { s with turns := r, focus := if s.hasCore k then k else s.focus }

/-- The halted requests of a context go on before its next instruction, once its re-executed one is done, in the order of their issue:
four at a time in progress (R241, R336). -/
def State.resumeRequests (s : State) (k c : Nat) : State :=
  if (s.ctx k c).resumeHalted = some true then
    (s.updCore k fun co =>
      (sortBy Req.seq (co.reqs.filter fun r => r.owned && r.ctx == c && r.halted)).foldl (fun co r => co.goOn r.num) co).updCtx k c
        fun x => { x with resumeHalted := none }
  else s

/-- The issuing context is ready: it executes its instruction, for the first time or again. -/
def State.begin (s : State) (c : Nat) : State :=
  let s := { s with active := c }
  let s := if s.me.run = .ready then s.resumeRequests s.focus c else s
  s.setMe { s.me with run := .ready }

/-- The fetch of an instruction uses its translation and takes a token of its line (R109, R270, R349). -/
def State.noteFetch (s : State) : State :=
  let c := s.me
  match s.translate s.focus c.asid c.sup .fetch c.pc with
  | .mem pa => (s.tlbCopy s.focus c.asid c.pc).tokenRead s.focus pa
  | _ => s

/-- Whether a constrained LR/SC sequence may hold an instruction between its LR and SC: majors OP, OPIMM, OP32, OPIMM32, LUI and
AUIPC, and a forward BRANCH (R135). -/
def mayConstrain (i : Instr) : Bool :=
  match i with
  | .beq _ _ off _ | .bne _ _ off _ | .blt _ _ off _ | .bge _ _ off _ | .bltu _ _ off _ | .bgeu _ _ off _ => !off.msb
  | i =>
    let maj := ((encode i).extractLsb' 2 5).toNat
    decide (2 ≤ maj) && decide (maj ≤ 7)

/-- The instruction that comes next is counted in the constrained sequence of its context, or ends it (R135). SC and LR end it
themselves, and so does the trap or the park of a fetch; a fetch that only waits leaves it. -/
def State.countSequence (s : State) (i : Instr) : State :=
  match i with
  | .sc _ _ _ _ _ _ _ | .lr _ _ _ _ _ _ | .fetchFault => s
  | i =>
    if mayConstrain i then
      { s with lines := s.lines.mapVal fun _ l =>
          { l with held := l.held.filterMap fun p =>
              if p.core = s.focus ∧ p.ctx = s.active then
                if p.left = 0 then none else some { p with left := p.left - 1 }
              else some p } }
    else s.letGo s.focus s.active

/-- An event put at the head of the agenda. -/
def State.push (s : State) (e : Event) : State := { s with agenda := e :: s.agenda }

/-- The instruction that a word stands for at the issuing context, and the state at which it executes (R19, R76, R332). -/
def State.instrOf (s : State) (w : BitVec 32) : Instr × State :=
  if isSvc s.focus && svcLacks w then (.illegalInstruction, s.push (.illegalInstruction w))
  else match decode w with
    | none => (.illegalInstruction, s.push (.illegalInstruction w))
    | some (.wfe rd rs1 stl) =>
      if isSvc s.focus then (.wfeNotice, s.push (.wfeNotice rd rs1 stl)) else (.wfe rd rs1 stl, s)
    | some i => (i, s)

/-- What the issuing context executes next (R101, R109). -/
def State.nextInstr (s : State) : Instr × State :=
  match s.fetch with
  | .word w => s.noteFetch.instrOf w
  | _ => (.fetchFault, s.push .fetchFault)

/-- What a step does on its own: nothing but the passing of time, a park, or an instruction at a state. -/
inductive Issue where
  | rest (s : State)
  | run (i : Instr) (s : State)

/-- The issuing context stops waiting to send or for the matrix engine, as it parks. -/
def State.leaveQueues (s : State) : State :=
  s.leaveSendQ.updCore s.focus fun co =>
    { co with mxq := co.mxq.filter fun o => !((o.kind == .evmac || o.waits) && o.owned && o.ctx == s.active) }

/-- The context that the scheduler picks, when its step is due: before it issues it parks, if a request of its task has halted
(R254). -/
def State.issueNow (s : State) : Issue :=
  let s := s.turn.timePasses
  match s.pick s.focus with
  | none => .rest (s.coreCycle s.focus 8)
  | some (c, co) =>
    let s := (s.setCore s.focus co).coreCycle s.focus c
    match (s.ctx s.focus c).parkNext.filter fun _ => (s.ctx s.focus c).parksNext with
    | some va =>
      let s := { s with active := c }.leaveQueues
      .rest ((s.setMe { s.me with parkNext := none }).park va)
    | none =>
      let n := (s.begin c).nextInstr
      .run n.1 (n.2.countSequence n.1)

/-- Whether a step goes on while the dies are held in reset: those of BX-T and the board controller, which still reads BX-T's log (R369,
R372, R373, R375). -/
def Event.whenHeld : Event → Bool
  | .powerOn _ | .getVersion | .getCapabilities | .negotiateAlgorithms | .getDigests | .getCertificate _ _ | .challenge _
  | .getMeasurements _ _ _ | .scanRead _ _ (.log 192 _) => true
  | _ => false

/-! ### An instruction placed for the next step -/

/-- A page-table entry for memory at the addresses of va's page, readable, writable and executable by all (R346). -/
def openPte (va : Nat) (sub : Bool) : Word :=
  let size := if sub then 1024 else 2097152
  BitVec.ofNat 64 (va / size * size + 14)

/-- Context c of core k is ready at a pc that it can fetch from. -/
def State.placeCtx (s : State) (k c : Nat) : State :=
  let x := s.ctx k c
  let pc := if x.pc.toNat < 2 ^ 48 then x.pc else 0
  { s with focus := k, active := c, agenda := [], turns := [], held := false }.setCtx k c
    { x with run := .ready, stall := 0, parkNext := none, pc := pc
             coach := if s.isFrozen k x || !s.coachLets k c x then none else x.coach }

/-- Every token at the home, if a fetch of the issuing context would wait for its line's. -/
def State.placeLine (s : State) : State :=
  match s.fetch with
  | .line _ => { s with lines := [] }
  | _ => s

/-- A translation of the issuing context's pc, if a fetch there would fail. -/
def State.placePage (s : State) : State :=
  match s.fetch with
  | .word _ => s
  | _ =>
    let c := s.me
    let sub := s.myCore.inRegion c.pc.toNat
    let e : TlbEntry := ⟨c.asid, vpnOf c.pc.toNat sub, sub, openPte c.pc.toNat sub⟩
    let s := { s with poison := s.poison.filter fun w => w != c.pc.toNat / 8 }
    (s.updCluster (clusterOf s.focus) fun x => { x with tlb := tlbInsert 1024 0 x.tlb e }).updCore s.focus fun co =>
      { co with tlb := tlbInsert 32 0 co.tlb e }

/-- A word in memory where the issuing context fetches. -/
def State.placeWord (s : State) (w : BitVec 32) : State :=
  let c := s.me
  match s.translate s.focus c.asid c.sup .fetch c.pc with
  | .mem pa => { s with mem := writeCells s.mem pa 4 w.toNat }
  | _ => s

/-- The context that issues next: the scheduler's pick on the core that acts next, else context 0. -/
def State.placeAt (s : State) : Nat × Nat :=
  let t := s.turn
  let k := if t.hasCore t.focus then t.focus else 0
  (k, ((t.pick k).map Prod.fst).getD 0)

end Sys2Proof.Machine
end

