-- ==== Sys2Proof/Machine/Step.lean ====
section
/-!
DEFINITION. One step of the machine: the head of the agenda, or the next instruction of the core whose turn it is.
-/

namespace Sys2Proof.Machine

/-- One step (log 3). -/
def step (s : State) : Host.Outcome State Fault Refusal :=
  match s.agenda with
  | e :: _ => if s.held && !e.whenHeld then .fault .heldInReset else exec e.instr s
  | [] =>
    if s.held then .fault .heldInReset
    else match s.issueNow with
      | .rest t => .next t
      | .run i t => exec i t

/-- s with the instruction w of nbits bits where step fetches its next instruction (log 5). -/
def State.withFetchWord (s : State) (_nbits w : Nat) : State :=
  let p := s.placeAt
  (s.placeCtx p.1 p.2).placeLine.placePage.placeWord (BitVec.ofNat 32 w)

end Sys2Proof.Machine
end

