-- ==== Sys2Proof/Safety.lean ====
section
/-!
DEFINITION. The words that the statements use: what a well-kept state is, what a step leaves alone, the shapes of
instructions that one statement speaks of, and the values of R102 to R106 and R150 to R164 written from the spec's tables
apart from the model's own functions.
-/

namespace Sys2Proof.Machine

/-! ### Well-kept states -/

/-- Package memory, every scratchpad and every saved scratchpad are in canonical form, so that equal contents are equal
data. -/
def State.StoresWf (s : State) : Prop :=
  cellsWf s.mem = true ∧ (∀ k, cellsWf (s.core k).pad = true) ∧
    ∀ cl, ∀ c ∈ (s.cluster cl).coaches, ∀ p ∈ c.saved.pads, cellsWf p.2 = true

/-- R268, R270: a line has 64 tokens, one of them the owner token; its holder has a token and valid data, or it is on its way
with data. -/
def Line.Wf (l : Line) : Prop :=
  SMap.wf 0 l.tokens = true ∧ (l.tokens.map Prod.snd).sum + (l.flying.map TokMsg.count).sum = 64 ∧
  (∀ m ∈ l.flying, m.owner = true → m.data = true ∧ 0 < m.count) ∧
  match l.owner with
  | some h => 0 < l.count h ∧ h ∈ l.valid ∧ ∀ m ∈ l.flying, m.owner = false
  | none => (l.flying.filter TokMsg.owner).length = 1

/-- Every line of package memory is as R268 and R270 say. -/
def State.LinesWf (s : State) : Prop := ∀ n, (s.line n).Wf

/-! ### What a step leaves alone -/

/-- Every byte of package memory reads as before. -/
def State.SameMem (s t : State) : Prop := ∀ a, cell t.mem a = cell s.mem a

/-- Every byte of package memory outside n bytes from a reads as before. -/
def State.SameMemBut (s t : State) (a n : Nat) : Prop :=
  ∀ b, b < a ∨ a + n ≤ b → cell t.mem b = cell s.mem b

/-- Every byte of every scratchpad reads as before. -/
def State.SamePads (s t : State) : Prop := ∀ k a, cell (t.core k).pad a = cell (s.core k).pad a

/-- Every byte of every scratchpad outside n bytes from a of core j reads as before. -/
def State.SamePadsBut (s t : State) (j a n : Nat) : Prop :=
  ∀ k b, k ≠ j ∨ b < a ∨ a + n ≤ b → cell (t.core k).pad b = cell (s.core k).pad b

/-- Every context but one is as before. -/
def State.SameCtxsBut (s t : State) (k c : Nat) : Prop :=
  ∀ k' c', (k' ≠ k ∨ c' ≠ c) → t.ctx k' c' = s.ctx k' c'

/-- Only the issuing context differs. -/
def State.OnlyMe (s t : State) : Prop := t = s.setMe t.me

/-- A context differs only in its program counter, its three register files with their pending writes, and what the issue
logic keeps (position, stall count, whether it issues, a branch's pc, a barrier's answer, values on their way, age): so
no flag and no special register differs. -/
def Ctx.SameSpecial (x y : Ctx) : Prop :=
  { y with x := x.x, v := x.v, m := x.m, pend := x.pend, pc := x.pc, pos := x.pos, stall := x.stall, run := x.run,
           branch := x.branch, arrivedAt := x.arrivedAt, released := x.released, remoteVals := x.remoteVals,
           remoteAsked := x.remoteAsked, fetching := x.fetching, passed := x.passed, age := x.age, aged := x.aged,
           resumeHalted := x.resumeHalted } = x

/-- A stream without the vectors that it has fetched ahead. -/
def Stream.bare (t : Stream) : Stream := { t with fetched := [], windowed := [], skipped := [] }

/-- A context differs only in the vectors that its streams have fetched ahead (R172), and in what its reads of another package keep
meanwhile. -/
def Ctx.SameButFetched (x y : Ctx) : Prop :=
  { y with streams := x.streams, fetching := x.fetching, remoteVals := x.remoteVals, remoteAsked := x.remoteAsked } = x ∧
    ∀ n, (y.streams.find? n).map Stream.bare = (x.streams.find? n).map Stream.bare

/-- Every register but x[n] reads what the writes that were pending before make it by y's position (R84). -/
def Ctx.SameRegsBut (x y : Ctx) (n : Nat) : Prop :=
  (∀ j, j ≠ n → y.rx j = (x.retire y.pos).rx j) ∧ (∀ j, y.rv j = (x.retire y.pos).rv j) ∧
    ∀ j, y.rm j = (x.retire y.pos).rm j

/-- Some pending write to a register takes effect after time lo and not after time hi (R84). -/
def Ctx.PendsBetween (c : Ctx) (f : RegFile) (n lo hi : Nat) : Prop :=
  ∃ p ∈ c.pend, p.file = f ∧ p.reg = n ∧ lo < p.eff ∧ p.eff ≤ hi

/-! ### The checking scoreboard (R88) -/

/-- Some pending write to a register that does not discard its writes takes effect after time t. -/
def Ctx.Late (c : Ctx) (t : Nat) (r : RegFile × Nat) : Prop :=
  (r.1 = .v ∨ r.2 ≠ 0) ∧ ∃ p ∈ c.pend, p.file = r.1 ∧ p.reg = r.2 ∧ t < p.eff

/-- A register as the STALL trap's TVAL numbers it. -/
def stallCode (r : RegFile × Nat) : Nat := r.2 + match r.1 with | .x => 0 | .v => 32 | .m => 64

/-- r is the least register of l that f marks. -/
def LeastOf (l : List (RegFile × Nat)) (f : RegFile × Nat → Prop) (r : RegFile × Nat) : Prop :=
  r ∈ l ∧ f r ∧ ∀ q ∈ l, f q → stallCode r ≤ stallCode q

/-- An instruction of a use meets the STALL trap with TVAL w: a register that it reads is late, or, with a fixed latency, a
register that it writes would be overtaken. -/
def Ctx.StallsOn (c : Ctx) (u : Use) (w : Nat) : Prop :=
  c.stlchk = true ∧
    ((∃ r, LeastOf u.reads (c.Late c.pos) r ∧ w = stallCode r) ∨
      ((∀ r ∈ u.reads, ¬ c.Late c.pos r) ∧ u.lat ≠ 0 ∧
        ∃ r, LeastOf u.writes (c.Late (c.pos + u.lat)) r ∧ w = 128 + stallCode r))

/-! ### Shapes of scalar instructions -/

/-- An instruction of the R format and fixed latency lat computes for x[rd] the value that val relates to x[rs1] and
x[rs2], whenever rd is 0 or the checking scoreboard finds nothing. -/
def GivesR (lat : Nat) (i : Reg → Reg → Reg → Stall → Instr) (val : Word → Word → Word → Prop) : Prop :=
  ∀ (s : State) (rd rs1 rs2 : Reg) (stl : Stall),
    (rd = 0 ∨ s.me.hazard { reads := [useX rs1, useX rs2], writes := [useX rd], lat := lat } = none) →
      ∃ r, val (s.me.rx rs1.toNat) (s.me.rx rs2.toNat) r ∧
        exec (i rd rs1 rs2 stl) s = .next (s.done stl fun c => c.fixX rd.toNat lat r)

/-- The same with variable latency. With rd = 0 the instruction only advances. -/
def GivesVar (i : Reg → Reg → Reg → Stall → Instr) (val : Word → Word → Word → Prop) : Prop :=
  ∀ (s : State) (rd rs1 rs2 : Reg) (stl : Stall),
    (rd = 0 → exec (i rd rs1 rs2 stl) s = .next (s.done stl id)) ∧
    (rd ≠ 0 → s.me.hazard { reads := [useX rs1, useX rs2], writes := [useX rd] } = none →
      ∃ r, val (s.me.rx rs1.toNat) (s.me.rx rs2.toNat) r ∧
        exec (i rd rs1 rs2 stl) s = .next (s.done stl fun c => c.varX rd.toNat r))

/-- An instruction of one source register and latency 1. -/
def GivesI (i : Reg → Reg → Stall → Instr) (val : Word → Word → Prop) : Prop :=
  ∀ (s : State) (rd rs1 : Reg) (stl : Stall),
    (rd = 0 ∨ s.me.hazard { reads := [useX rs1], writes := [useX rd], lat := 1 } = none) →
      ∃ r, val (s.me.rx rs1.toNat) r ∧ exec (i rd rs1 stl) s = .next (s.done stl fun c => c.fixX rd.toNat 1 r)

/-- A conditional branch: to pc + 4 × the signed offset when the condition holds, else to pc + 4. -/
def BranchesOn (i : Reg → Reg → BitVec 12 → Stall → Instr) (cond : Word → Word → Prop) : Prop :=
  ∀ (s : State) (rs1 rs2 : Reg) (off : BitVec 12) (stl : Stall),
    s.me.hazard { reads := [useX rs1, useX rs2] } = none →
      (cond (s.me.rx rs1.toNat) (s.me.rx rs2.toNat) →
        exec (i rs1 rs2 off stl) s =
          .next (s.setMe { s.me.goto stl (BitVec.ofInt 64 (s.me.pc.toNat + 4 * off.toInt)) with branch := some s.me.pc })) ∧
      (¬ cond (s.me.rx rs1.toNat) (s.me.rx rs2.toNat) →
        exec (i rs1 rs2 off stl) s = .next (s.setMe (s.me.goto stl (BitVec.ofInt 64 (s.me.pc.toNat + 4)))))

/-- A word of the R format, from its fields (R69). -/
def wordR (f7 : BitVec 7) (rs2 rs1 : BitVec 5) (f3 : BitVec 3) (rd maj : BitVec 5) (stl : Stall) : BitVec 32 :=
  f7 ++ rs2 ++ rs1 ++ f3 ++ rd ++ maj ++ stl

/-- A word of the I format, from its fields (R69). -/
def wordI (imm : BitVec 12) (rs1 : BitVec 5) (f3 : BitVec 3) (rd maj : BitVec 5) (stl : Stall) : BitVec 32 :=
  imm ++ rs1 ++ f3 ++ rd ++ maj ++ stl

/-- A major and a function code of the R format stand for an instruction of three registers. -/
def CodesR (maj : BitVec 5) (f7 : BitVec 7) (f3 : BitVec 3) (i : Reg → Reg → Reg → Stall → Instr) : Prop :=
  ∀ rd rs1 rs2 stl, decode (wordR f7 rs2 rs1 f3 rd maj stl) = some (i rd rs1 rs2 stl)

/-- A major and a function code of the I format stand for an instruction with a 12-bit immediate. -/
def CodesI (maj : BitVec 5) (f3 : BitVec 3) (i : Reg → Reg → BitVec 12 → Stall → Instr) : Prop :=
  ∀ rd rs1 imm stl, decode (wordI imm rs1 f3 rd maj stl) = some (i rd rs1 imm stl)

/-- A major, a function code and an immediate of the I format stand for an instruction of two registers. -/
def CodesU (maj : BitVec 5) (f3 : BitVec 3) (imm : BitVec 12) (i : Reg → Reg → Stall → Instr) : Prop :=
  ∀ rd rs1 stl, decode (wordI imm rs1 f3 rd maj stl) = some (i rd rs1 stl)

/-- The register that an instruction of majors OPIMM, OP, OPIMM32, OP32, LUI, AUIPC, JAL or JALR writes. -/
def resultReg : Instr → Option Reg
  | .add rd _ _ _ | .sub rd _ _ _ | .and rd _ _ _ | .or rd _ _ _ | .xor rd _ _ _ | .slt rd _ _ _ | .sltu rd _ _ _
  | .sll rd _ _ _ | .srl rd _ _ _ | .sra rd _ _ _ | .ror rd _ _ _ | .min rd _ _ _ | .max rd _ _ _ | .minu rd _ _ _
  | .maxu rd _ _ _ | .addS rd _ _ _ | .subS rd _ _ _ | .adduS rd _ _ _ | .subuS rd _ _ _ | .mul rd _ _ _
  | .mulh rd _ _ _ | .mulhu rd _ _ _ | .mulhsu rd _ _ _ | .div rd _ _ _ | .divu rd _ _ _ | .rem rd _ _ _
  | .remu rd _ _ _ | .addw rd _ _ _ | .subw rd _ _ _ | .sllw rd _ _ _ | .srlw rd _ _ _ | .sraw rd _ _ _
  | .addwS rd _ _ _ | .subwS rd _ _ _ | .mulw rd _ _ _ | .divw rd _ _ _ | .divuw rd _ _ _ | .remw rd _ _ _
  | .remuw rd _ _ _
  | .addi rd _ _ _ | .andi rd _ _ _ | .ori rd _ _ _ | .xori rd _ _ _ | .slti rd _ _ _ | .sltiu rd _ _ _
  | .slli rd _ _ _ | .srli rd _ _ _ | .srai rd _ _ _ | .rori rd _ _ _ | .addiw rd _ _ _ | .slliw rd _ _ _
  | .srliw rd _ _ _ | .sraiw rd _ _ _
  | .clz rd _ _ | .ctz rd _ _ | .popc rd _ _ | .clzw rd _ _ | .ctzw rd _ _ | .popcw rd _ _ | .lui rd _ _
  | .auipc rd _ _ | .jal rd _ _
  | .jalr rd _ _ _ => some rd
  | _ => none

/-- The conditional branches. -/
def isBranch : Instr → Bool
  | .beq .. | .bne .. | .blt .. | .bge .. | .bltu .. | .bgeu .. => true
  | _ => false

/-- The register that a scalar load writes. -/
def loadReg : Instr → Option Reg
  | .lb rd _ _ _ _ | .lh rd _ _ _ _ | .lw rd _ _ _ _ | .ld rd _ _ _ _
  | .lbu rd _ _ _ _ | .lhu rd _ _ _ _ | .lwu rd _ _ _ _ => some rd
  | _ => none

/-! ### Shapes of loads, stores and atomics -/

/-- A load of n bytes at x[rs1] + n × imm whose value ext makes of the bytes: from each kind of place, after the reads of streams that
precede it (R172; log 6). -/
def LoadsAs (n : Nat) (i : Reg → Reg → BitVec 10 → AddrMode → Stall → Instr) (ext : Nat → Word) : Prop :=
  ∀ (s : State) (rd rs1 : Reg) (imm : BitVec 10) (mode : AddrMode) (stl : Stall),
    s.me.hazard { reads := [useX rs1], writes := [useX rd] } = none →
    let a := BitVec.ofInt 64 ((s.me.rx rs1.toNat).toNat + n * imm.toInt)
    let gives (u : State) (v : Nat) : Prop :=
      exec (i rd rs1 imm mode stl) s = .next (u.done stl fun c => c.varX rd.toNat (ext v))
    let f := s.fetchWindows
    (∀ pa, s.reach mode .read a n = .ok (.mem pa) → poisonedAt s.poison pa n = false →
      gives (f.noteRead a (.mem pa)) (s.memRead pa n)) ∧
    (∀ k off, s.reach mode .read a n = .ok (.pad k off) → poisonedAt (s.core k).padPoison off n = false →
      gives f (s.padRead k off n)) ∧
    (∀ off, s.reach mode .read a n = .ok (.svc off) → poisonedAt s.myCore.padPoison off n = false →
      gives f (s.padRead s.focus off n)) ∧
    (∀ d v, s.reach mode .read a n = .ok (.gen d) → s.genRead s.focus s.me.gens d a.toNat n = some v →
      gives (f.noteRead a (.gen d)) v) ∧
    (∀ off v, s.reach mode .read a n = .ok (.window off) → 4 ≤ n → s.windowRead off n = some v → gives s v) ∧
    ∀ p, s.reach mode .read a n = .ok (.remote p) →
      (∀ u v, s.finishReads = .on u → u.me.remoteVals.head? = some v → gives u v.toNat) ∧
      ∀ t, s.finishReads = .stop t → exec (i rd rs1 imm mode stl) s = .next t

/-- A store of the n low bytes of x[src] at x[rs1] + n × imm: to each kind of place, after the reads of streams that precede it
(R172). -/
def StoresAs (n : Nat) (i : Reg → Reg → BitVec 10 → AddrMode → Stall → Instr) : Prop :=
  ∀ (s : State) (src rs1 : Reg) (imm : BitVec 10) (mode : AddrMode) (stl : Stall),
    s.me.hazard { reads := [useX rs1, useX src] } = none →
    let a := BitVec.ofInt 64 ((s.me.rx rs1.toNat).toNat + n * imm.toInt)
    let v := (s.me.rx src.toNat).toNat
    (∀ pa, s.reach mode .write a n = .ok (.mem pa) →
      ∃ t, exec (i src rs1 imm mode stl) s = .next t ∧ t.memRead pa n = v % 256 ^ n ∧ s.SameMemBut t pa n ∧
        s.SamePads t ∧ t.me = s.fetchWindows.me.next stl ∧
        ∀ k c, (k ≠ s.focus ∨ c ≠ s.active) → t.ctx k c = (s.ctx k c).loseLine (pa / 128)) ∧
    (∀ k off, s.reach mode .write a n = .ok (.pad k off) →
      ∃ t, exec (i src rs1 imm mode stl) s = .next t ∧ t.padRead k off n = v % 256 ^ n ∧ s.SameMem t ∧
        s.SamePadsBut t k off n ∧ t.me = s.fetchWindows.me.next stl ∧ s.SameCtxsBut t s.focus s.active) ∧
    (∀ off, s.reach mode .write a n = .ok (.svc off) →
      ∃ t, exec (i src rs1 imm mode stl) s = .next t ∧ t.padRead s.focus off n = v % 256 ^ n ∧ s.SameMem t ∧
        s.SamePadsBut t s.focus off n ∧ t.me = s.fetchWindows.me.next stl ∧ s.SameCtxsBut t s.focus s.active) ∧
    (∀ off u, s.reach mode .write a n = .ok (.window off) → 4 ≤ n → s.windowWrite off n v = some u →
      exec (i src rs1 imm mode stl) s = .next (u.done stl id)) ∧
    ∀ p, p ≠ s.pkg → s.reach mode .write a n = .ok (.remote p) →
      (∀ t, s.finishReads = .stop t → exec (i src rs1 imm mode stl) s = .next t) ∧
      ∀ u, s.finishReads = .on u →
        ∃ t id, exec (i src rs1 imm mode stl) s = .next t ∧ u.SameMem t ∧ u.SamePads t ∧
          t.netOut = u.netOut ++ [(p, .flatStore (u.netSrc 0) u.me.asid.toNat a.toNat id (toBytes n v))] ∧
          t.me.stores.map RemoteStore.id = u.me.stores.map RemoteStore.id ++ [id] ∧ t.me.pc = u.me.pc + 4

/-- An instruction of the M format whose access is stopped: a trap, a park, or a wait for its translation or for tokens. The
translation has been looked up where there was one (R349). -/
def StopsAs (n : Nat) (acc : Access) (use : Reg → Reg → Use) (i : Reg → Reg → BitVec 10 → AddrMode → Stall → Instr) :
    Prop :=
  ∀ (s : State) (r rs1 : Reg) (imm : BitVec 10) (mode : AddrMode) (stl : Stall), s.me.hazard (use r rs1) = none →
    let a := BitVec.ofInt 64 ((s.me.rx rs1.toNat).toNat + n * imm.toInt)
    let stops (t : State) : Prop := exec (i r rs1 imm mode stl) s = .next t
    (a.toNat % n ≠ 0 → stops (s.trap 2 a)) ∧ (∀ w, s.reach mode acc a n = .trap 2 w → stops (s.trap 2 w)) ∧
    (∀ code w, s.reach mode acc a n = .trap code w → code ≠ 2 → stops ((s.looked mode a).trap code w)) ∧
    (∀ d, a.toNat % n = 0 → mode = .flat → acc = .write → s.translate s.focus s.me.asid s.me.sup acc a = .gen d →
      stops ((s.looked .flat a).trap 6 a)) ∧
    (∀ w, s.reach mode acc a n = .absent w → stops ((s.looked mode a).park w)) ∧
    (∀ w, s.reach mode acc a n = .miss acc w → stops (s.wait (.tlb acc w))) ∧
    (∀ h l w, s.reach mode acc a n = .line h l w → stops (((s.looked mode a).want h l w (.ctx s.focus s.active)).wait (.line h l w))) ∧
    (∀ off, s.reach mode acc a n = .ok (.window off) →
      (n < 4 → stops (s.trap 2 a)) ∧ (4 ≤ n → n ≤ 8 → s.window off = none → stops (s.trap 3 a))) ∧
    ∀ pa, acc = .read → s.reach mode acc a n = .ok (.mem pa) → poisonedAt s.poison pa n = true →
      ∃ u e, stops (u.trap 3 a) ∧ s.SameMem u ∧ u.me = s.fetchWindows.me ∧ u.forward = s.forward ++ [e] ∧
        e.w2 = BitVec.ofNat 64 pa

/-- An atomic read-modify-write that replaces the number a of w bits at x[rs1] by f w a b, where b is the low part of
x[rs2], and gives the sign-extended a: no other byte changes, and the other contexts lose their reservations on the line. Stream reads
that have issued precede it, all of them where it is a release (R133, R172; log 6). -/
def AmosAs (i : Reg → Reg → Reg → AmoOrd → Bool → AmoScope → Stall → Instr) (f : Nat → Nat → Nat → Nat) : Prop :=
  ∀ (s : State) (rd rs1 rs2 : Reg) (ord : AmoOrd) (wide : Bool) (scope : AmoScope) (stl : Stall) (pa : Nat),
    s.me.hazard { reads := [useX rs1, useX rs2], writes := [useX rd] } = none →
    let n := if wide then 8 else 4
    s.reachAt (amoHolder scope s.focus) .flat .readWrite (s.me.rx rs1.toNat) n = .ok (.mem pa) →
    poisonedAt s.poison pa n = false →
    (∀ t, s.readsBefore (ord == .rel || ord == .ar) = .stop t → exec (i rd rs1 rs2 ord wide scope stl) s = .next t) ∧
    ∀ u, s.readsBefore (ord == .rel || ord == .ar) = .on u →
      let old := u.memRead pa n
      ∃ t, exec (i rd rs1 rs2 ord wide scope stl) s = .next t ∧
        t.memRead pa n = f (8 * n) old ((u.me.rx rs2.toNat).toNat % 256 ^ n) ∧ u.SameMemBut t pa n ∧ u.SamePads t ∧
        t.me = (u.me.varX rd.toNat (BitVec.ofInt 64 (BitVec.ofNat (8 * n) old).toInt)).next stl ∧
        ∀ k c, (k ≠ u.focus ∨ c ≠ u.active) → t.ctx k c = (u.ctx k c).loseLine (pa / 128)

/-- What a CSR form makes of a state: the CSR is written when `writes`, and x[rd] takes the old value when rd is not x0. -/
def State.csrDone (s : State) (a : Nat) (writes : Bool) (new : Word) (rd : Reg) (stl : Stall) : State :=
  let old := s.csrRead s.focus s.active a
  (if writes then s.csrWrite s.focus s.active a new else s).done stl fun c => if rd = 0 then c else c.varX rd.toNat old

/-- The bits of a CSR that a write replaces, where every other bit reads 0 after it (R47, R87, R119, R120, R165, R176, R290,
R327, R334, R337, R345). STRCTL, TRAPPAIR and CHTAB have rules of their own. -/
def csrRwBits (svc : Bool) (a : Nat) : Option Word :=
  if a = 0x001 then some 0xF
  else if a = 0x002 then some 1
  else if a = 0x801 then some 0x1FFF
  else if a = 0x802 then some 0x3F
  else if a = 0x803 then some 0xFFFFFFFFFFFFFFFC
  else if a = 0x804 then some 0xFFFFFFFFFFFFFFFF
  else if 0x810 ≤ a ∧ a ≤ 0x813 then some 0xFFFFFFFFFFE00000
  else if a = 0x821 then some 0x13F
  else if a = 0x822 then some 0xFFFFFFFF
  else if svc then (if a = 0x800 then some 7 else if a = 0x830 then some 0x1FFFF else none)
  else if 0x010 ≤ a ∧ a ≤ 0x02F then some (if a % 4 = 0 then 0xFF00FFFFFFFFFFFF else 0xFFFFFFFFFFFFFFFF)
  else if a = 0x030 then some 0xFFFFFFFF8001FFFF
  else if 0x040 ≤ a ∧ a ≤ 0x05F then
    some (if a % 4 = 0 then 0x0003FFFFFFFFFFFF else if a % 4 = 1 then 0x0000FFFFFFFFFFFF
      else if a % 4 = 2 then 0xFFFFFFFFFFFFFFFF else 3)
  else none

/-! ### Floating-point values, from the spec's table (R33, R35, R42 to R46) -/

/-- The sign bit of an encoding. -/
def FloatFmt.negOf (f : FloatFmt) (v : Nat) : Bool := v / 2 ^ (f.ebits + f.mbits) % 2 == 1
/-- The exponent field of an encoding. -/
def FloatFmt.expOf (f : FloatFmt) (v : Nat) : Nat := v / 2 ^ f.mbits % 2 ^ f.ebits
/-- The fraction of an encoding. -/
def FloatFmt.fracOf (f : FloatFmt) (v : Nat) : Nat := v % 2 ^ f.mbits
/-- Whether an encoding is a NaN. -/
def FloatFmt.isNanEnc (f : FloatFmt) (v : Nat) : Bool :=
  f.expOf v == 2 ^ f.ebits - 1 && if f.hasInf then f.fracOf v != 0 else f.fracOf v == 2 ^ f.mbits - 1
/-- Whether an encoding is a signalling NaN. -/
def FloatFmt.isSigEnc (f : FloatFmt) (v : Nat) : Bool :=
  f.isNanEnc v && f.hasInf && decide (f.fracOf v < 2 ^ (f.mbits - 1))
/-- Whether an encoding is an infinity. -/
def FloatFmt.isInfEnc (f : FloatFmt) (v : Nat) : Bool :=
  f.hasInf && f.expOf v == 2 ^ f.ebits - 1 && f.fracOf v == 0
/-- Whether an encoding is a finite number. -/
def FloatFmt.isNum (f : FloatFmt) (v : Nat) : Prop := v < 2 ^ f.width ∧ f.isNanEnc v = false ∧ f.isInfEnc v = false

/-- The number of a finite encoding. -/
def FloatFmt.rat (f : FloatFmt) (v : Nat) : ℚ :=
  (if f.negOf v then -1 else 1) *
    if f.expOf v = 0 then (f.fracOf v : ℚ) / 2 ^ f.mbits * (2 : ℚ) ^ (1 - (f.bias : Int))
    else (1 + (f.fracOf v : ℚ) / 2 ^ f.mbits) * (2 : ℚ) ^ ((f.expOf v : Int) - f.bias)

/-- A zero, or an infinity, of a sign. -/
def FloatFmt.zeroEnc (f : FloatFmt) (neg : Bool) : Nat := if neg then 2 ^ (f.width - 1) else 0
/-- An infinity of a sign. -/
def FloatFmt.infEnc (f : FloatFmt) (neg : Bool) : Nat := f.zeroEnc neg + (2 ^ f.ebits - 1) * 2 ^ f.mbits
/-- The canonical NaN (R35). -/
def FloatFmt.nanEnc (f : FloatFmt) : Nat :=
  (2 ^ f.ebits - 1) * 2 ^ f.mbits + if f.hasInf then 2 ^ (f.mbits - 1) else 2 ^ f.mbits - 1
/-- The largest finite number (R33). -/
def FloatFmt.largest (f : FloatFmt) : ℚ :=
  if f.hasInf then (2 - 1 / 2 ^ f.mbits) * 2 ^ f.bias else (2 - 2 / 2 ^ f.mbits) * 2 ^ (f.bias + 1)
/-- An encoding's place in the order of numbers, -0 before +0. -/
def FloatFmt.rank (f : FloatFmt) (v : Nat) : Int :=
  let mag : Int := v % 2 ^ (f.width - 1)
  if f.negOf v then -mag - 1 else mag

/-- n is the magnitude y, of a sign, rounded to a whole number in a mode; r is SR's draw (R42, R45). -/
def RoundsInt (mode : RoundMode) (r : Nat) (neg : Bool) (y : ℝ) (n : Nat) : Prop :=
  ∃ lo : Nat, (lo : ℝ) ≤ y ∧ y < lo + 1 ∧
    let up : Prop := match mode with
      | .rne => 1 / 2 < y - lo ∨ (y - lo = 1 / 2 ∧ lo % 2 = 1)
      | .rtz => False
      | .rdn => neg = true ∧ y ≠ lo
      | .rup => neg = false ∧ y ≠ lo
      | .sr => (r + 1 : ℝ) ≤ (y - lo) * 2 ^ 16
    (up → n = lo + 1) ∧ (¬ up → n = lo)

/-- The encoding v with the flags fl is the number x ≠ 0 rounded once into a format (R42 to R46): to a unit of its last place,
that of the subnormal numbers at least, where beyond the largest finite number R44 applies. -/
def FloatFmt.RoundsTo (f : FloatFmt) (mode : RoundMode) (r : Nat) (x : ℝ) (res : Nat × BitVec 4) : Prop :=
  ∃ (neg : Bool) (lead : Int) (n nu : Nat), (neg = true ↔ x < 0) ∧ (2 : ℝ) ^ lead ≤ |x| ∧ |x| < (2 : ℝ) ^ (lead + 1) ∧
    let qu : Int := lead - f.mbits
    let q : Int := max qu (1 - f.bias - f.mbits)
    RoundsInt mode r neg (|x| / (2 : ℝ) ^ q) n ∧ RoundsInt mode r neg (|x| / (2 : ℝ) ^ qu) nu ∧
    (((f.largest : ℚ) : ℝ) < (n : ℝ) * (2 : ℝ) ^ q →
      res.2 = flagOF ||| flagNX ∧
      (f.hasInf = true → mode = .rne ∨ mode = .sr ∨ (mode = .rdn ∧ neg = true) ∨ (mode = .rup ∧ neg = false) →
        res.1 = f.infEnc neg) ∧
      (f.hasInf = false ∨ mode = .rtz ∨ (mode = .rdn ∧ neg = false) ∨ (mode = .rup ∧ neg = true) →
        f.isNum res.1 ∧ f.negOf res.1 = neg ∧ |f.rat res.1| = f.largest)) ∧
    ((n : ℝ) * (2 : ℝ) ^ q ≤ ((f.largest : ℚ) : ℝ) →
      f.isNum res.1 ∧ f.negOf res.1 = neg ∧ ((|f.rat res.1| : ℚ) : ℝ) = (n : ℝ) * (2 : ℝ) ^ q ∧
      (res.2.getLsbD 0 = true ↔ |x| ≠ (n : ℝ) * (2 : ℝ) ^ q) ∧
      (res.2.getLsbD 1 = true ↔ |x| ≠ (n : ℝ) * (2 : ℝ) ^ q ∧ (nu : ℝ) * (2 : ℝ) ^ qu < (2 : ℝ) ^ (1 - (f.bias : Int))) ∧
      res.2.getLsbD 2 = false ∧ res.2.getLsbD 3 = false)

/-! ### Generator windows, from the spec's text (R289 to R298) -/

/-- r rounds of Philox4x32 on 32-bit words (R297). -/
def philoxWords : Nat → BitVec 32 → BitVec 32 → BitVec 32 → BitVec 32 → BitVec 32 → BitVec 32 → Fin 4 → BitVec 32
  | 0, _, _, c0, c1, c2, c3 => fun i => if i = 0 then c0 else if i = 1 then c1 else if i = 2 then c2 else c3
  | r + 1, k0, k1, c0, c1, c2, c3 =>
    let p : BitVec 64 := 0xD2511F53#64 * c0.setWidth 64
    let q : BitVec 64 := 0xCD9E8D57#64 * c2.setWidth 64
    philoxWords r (k0 + 0x9E3779B9#32) (k1 + 0xBB67AE85#32) (q.extractLsb' 32 32 ^^^ c1 ^^^ k0) (q.setWidth 32)
      (p.extractLsb' 32 32 ^^^ c3 ^^^ k1) (p.setWidth 32)

/-- Word i of the block of a 64-bit counter under the keys of a descriptor's words: n is the descriptor, c3 tells draws from window
reads (R297, R298). -/
def philoxBlock (w2 : Word) (ctr : Word) (n c3 : BitVec 32) (i : Fin 4) : BitVec 32 :=
  philoxWords 10 (w2.setWidth 32) (w2.extractLsb' 32 32) (ctr.setWidth 32) (ctr.extractLsb' 32 32) n c3 i

/-- The bytes of an element of a descriptor (R291). -/
def genSize (w0 : Word) : Nat := if w0.toNat / 2 ^ 59 % 8 < 2 then 4 else 2

/-- Whether R291 to R293 accept a descriptor, whose words are w, for a core with scratchpad size S. -/
def GenValid (w : Fin 4 → Word) (S : Nat) : Prop :=
  let kind := (w 0).toNat / 2 ^ 62
  let fmt := (w 0).toNat / 2 ^ 59 % 8
  let sub := (w 0).toNat / 2 ^ 56 % 8
  let pitch := (w 1).toNat % 2 ^ 32
  let b := (w 2).toNat / 2 ^ 32
  let c := (w 2).toNat % 2 ^ 32
  pitch ≠ 0 ∧ pitch % genSize (w 0) = 0 ∧
  ((kind = 0 ∧ fmt ≤ 3 ∧ sub = 0 ∧ w 3 = 0) ∨
   (kind = 1 ∧ fmt ≤ 3 ∧ sub = 0 ∧ w 3 = 0 ∧ (fmt < 2 ∨ (b < 2 ^ 16 ∧ c < 2 ^ 16))) ∨
   (kind = 2 ∧ (fmt = 1 ∨ fmt = 2) ∧ sub = 0 ∧ w 3 = 0 ∧ b = 0 ∧ c < 2 ^ 17 ∧ c % 4 = 0 ∧ c + 256 ≤ S) ∨
   (kind = 3 ∧ ((sub = 0 ∧ fmt = 0) ∨ (sub = 1 ∧ 1 ≤ fmt ∧ fmt ≤ 3) ∨ (sub = 2 ∧ fmt ≤ 3))))

/-- v encodes the whole number x of units 2^e in the format of a code, or as an int32, rounded once (R291, R294). -/
def GenEncodes (fmt : Nat) (x e : Int) (v : Nat) : Prop :=
  if fmt = 0 then v = (x % 2 ^ 32).toNat
  else
    let f := if fmt = 1 then fp32 else if fmt = 2 then bf16 else fp16
    (x = 0 → v = 0) ∧ (x ≠ 0 → ∃ fl, f.RoundsTo .rne 0 ((x : ℝ) * (2 : ℝ) ^ e) (v, fl))

/-- v is the element gen(row, col) of descriptor n, whose words are w; freq is the frequency table (R294 to R297). The values of
`cosTable` are stated apart. -/
def GenElemIs (n : BitVec 32) (w : Fin 4 → Word) (freq : Nat → Nat) (row col v : Nat) : Prop :=
  let kind := (w 0).toNat / 2 ^ 62
  let fmt := (w 0).toNat / 2 ^ 59 % 8
  let sub := (w 0).toNat / 2 ^ 56 % 8
  let pitch := (w 1).toNat % 2 ^ 32
  let a := (w 1).toNat / 2 ^ 32
  let b := (w 2).toNat / 2 ^ 32
  let c := (w 2).toNat % 2 ^ 32
  if kind = 0 then GenEncodes fmt (BitVec.ofNat 32 (a + b * row + c * col)).toInt 0 v
  else if kind = 1 then v = if (col : Int) - row ≤ (BitVec.ofNat 32 a).toInt then b else c
  else if kind = 2 then
    let turns : Int := ((row + a) % 2 ^ 32 * freq (col / 2 % 64) : Nat) - if col % 2 = 1 then 2 ^ 30 else 0
    let ph := (turns % 2 ^ 32).toNat
    GenEncodes fmt (cosTable (ph / 2 ^ 22) + (cosTable (ph / 2 ^ 22 + 1) - cosTable (ph / 2 ^ 22)) * (ph % 2 ^ 22 : Nat) / 2 ^ 22)
      (-30) v
  else
    let e := row * (pitch / genSize (w 0)) + col
    let x := (philoxBlock (w 2) (BitVec.ofNat 64 (e / 4)) n 0 (Fin.ofNat 4 (e % 4))).toNat
    if sub = 0 then v = x
    else if sub = 1 then
      let sh : Nat := if fmt = 1 then 8 else if fmt = 2 then 24 else 21
      GenEncodes fmt (x / 2 ^ sh : Nat) ((sh : Int) - 32) v
    else GenEncodes fmt (if x < a then 1 else 0) 0 v

/-! ### Shapes of vector instructions -/

/-- What an instruction that reads v register n takes: the register, or the vector at the cursor of the read stream bound to
it, prefetched (R172), or zero from an exhausted one under DryZero (R168, R169). -/
def State.Delivers (s : State) (n : Nat) (w : VWord) : Prop :=
  match s.me.stream n with
  | none => w = s.me.rv n
  | some t => t.isWrite = false ∧
      ((t.exhausted = true ∧ s.me.dryZero = true ∧ w = 0) ∨ (t.exhausted = false ∧ t.fetched.find? t.cursor = some w))

/-- The issuing context after its instruction has read some v registers: each bound read stream has moved on once. -/
def State.consumed (s : State) (srcs : List Nat) (rv : Nat → VWord) : Ctx :=
  srcs.dedup.foldl (fun c n => c.consume n (rv n)) s.me

/-- Whether the operands of a vector instruction are at hand on a compute core: no hazard, every source delivers its value,
the destination can be written, and one that lies in another package waits for no stream read that has issued (R172, R277). -/
def State.VReady (s : State) (u : Use) (srcs : List Nat) (rv : Nat → VWord) (dest : Option Reg) : Prop :=
  isSvc s.focus = false ∧ s.me.hazard u = none ∧ (∀ n ∈ srcs, s.Delivers n (rv n)) ∧
    (∀ vd ∈ dest, s.destCheck vd.toNat = .fine) ∧
    (s.farDest { srcs := srcs, dest := dest.map BitVec.toNat } = true → s.finishReads = .on s)

/-- fl are the flags that the elements below n with `on` set together. -/
def FlagsOf (n : Nat) (on : Nat → Bool) (each : Nat → BitVec 4) (fl : BitVec 4) : Prop :=
  ∀ b < 4, fl.getLsbD b = true ↔ ∃ e < n, on e = true ∧ (each e).getLsbD b = true

/-- An elementwise instruction of width w: every active element of vd takes val, modulo 2^w, and the flags of the active
elements are set; the sources' streams move on. -/
def VMapDone (s : State) (i : Instr) (lat w : Nat) (reads : List (RegFile × Nat)) (srcs : List Nat) (vd : Reg)
    (m : MaskReg) (stl : Stall) (rv : Nat → VWord) (val : Nat → Nat × BitVec 4) : Prop :=
  s.VReady { reads := reads ++ maskReads m vd false, writes := [useV vd], lat := lat } srcs rv (some vd) →
    let on := laneOn w (s.me.rm m.toNat)
    ∃ r fl, (∀ e < 512 / w, on e = true → elem w r e = (val e).1 % 2 ^ w) ∧
      FlagsOf (512 / w) on (fun e => (val e).2) fl ∧
      exec i s = .next (((s.setMe (s.consumed srcs rv)).putVec vd.toNat lat r (enable w on)).done stl fun c =>
        { c with fflags := c.fflags ||| fl })

/-- An element read as a signed number. -/
def sgn (w x : Nat) : Int := (BitVec.ofNat w x).toInt

/-- An integer instruction of R150 on vs1 and vs2. -/
def VIntGives (i : Reg → Reg → Reg → IntW → MaskReg → Stall → Instr) (f : Nat → Nat → Nat → Int) : Prop :=
  ∀ (s : State) (vd vs1 vs2 : Reg) (w : IntW) (m : MaskReg) (stl : Stall) (rv : Nat → VWord),
    VMapDone s (i vd vs1 vs2 w m stl) 2 (wBits w) [useV vs1, useV vs2] [vs1.toNat, vs2.toNat] vd m stl rv fun e =>
      ((f (wBits w) (elem (wBits w) (rv vs1.toNat) e) (elem (wBits w) (rv vs2.toNat) e) % 2 ^ wBits w).toNat, 0)

/-- A floating-point instruction of R153 on vs1 and vs2. -/
def VFpGives (i : Reg → Reg → Reg → FpFmt → MaskReg → Stall → Instr) (f : FloatFmt → Nat → Nat → Nat × BitVec 4) :
    Prop :=
  ∀ (s : State) (vd vs1 vs2 : Reg) (fmt : FpFmt) (m : MaskReg) (stl : Stall) (rv : Nat → VWord),
    let w := (fmtOf fmt).width
    VMapDone s (i vd vs1 vs2 fmt m stl) 4 w [useV vs1, useV vs2] [vs1.toNat, vs2.toNat] vd m stl rv fun e =>
      f (fmtOf fmt) (elem w (rv vs1.toNat) e) (elem w (rv vs2.toNat) e)

/-- A floating-point instruction of R153 on vs1 alone. -/
def VFpUnGives (i : Reg → Reg → FpFmt → MaskReg → Stall → Instr) (f : FloatFmt → Nat → Nat × BitVec 4) : Prop :=
  ∀ (s : State) (vd vs1 : Reg) (fmt : FpFmt) (m : MaskReg) (stl : Stall) (rv : Nat → VWord),
    let w := (fmtOf fmt).width
    VMapDone s (i vd vs1 fmt m stl) 4 w [useV vs1] [vs1.toNat] vd m stl rv fun e =>
      f (fmtOf fmt) (elem w (rv vs1.toNat) e)

/-- A compare of width w into mask register md: the bits of an active element are its condition, the others stay. -/
def VCmpDone (s : State) (i : Instr) (lat w : Nat) (vs1 vs2 : Reg) (md m : MaskReg) (stl : Stall) (rv : Nat → VWord)
    (cond : Nat → Bool × BitVec 4) : Prop :=
  s.VReady { reads := [useV vs1, useV vs2] ++ (if m = 0 then [] else [useM m, useM md]), writes := [useM md], lat := lat }
      [vs1.toNat, vs2.toNat] rv none →
    let on := laneOn w (s.me.rm m.toNat)
    let part (b : Nat) := if w = 64 then b / 2 else b
    ∃ (r : MWord) (fl : BitVec 4),
      (∀ b < 16, r.getLsbD b = if on (part b) then (cond (part b)).1 else (s.me.rm md.toNat).getLsbD b) ∧
      FlagsOf (512 / w) on (fun e => (cond e).2) fl ∧
      exec i s = .next ((s.setMe (s.consumed [vs1.toNat, vs2.toNat] rv)).done stl fun c =>
        { c.writeFixed .m md.toNat lat (r.setWidth 512) with
          fflags := (c.writeFixed .m md.toNat lat (r.setWidth 512)).fflags ||| fl })

/-- An integer compare of R151, at the widths it accepts. -/
def VCmpGives (i : MaskReg → Reg → Reg → IntW → MaskReg → Stall → Instr) (f : Nat → Nat → Nat → Bool) : Prop :=
  ∀ (s : State) (md : MaskReg) (vs1 vs2 : Reg) (w : IntW) (m : MaskReg) (stl : Stall) (rv : Nat → VWord),
    w.comparable = true →
    VCmpDone s (i md vs1 vs2 w m stl) 2 (wBits w) vs1 vs2 md m stl rv fun e =>
      (f (wBits w) (elem (wBits w) (rv vs1.toNat) e) (elem (wBits w) (rv vs2.toNat) e), 0)

/-- A floating-point compare of R155. -/
def VFCmpGives (i : MaskReg → Reg → Reg → MaskReg → Stall → Instr) (f : Fp → Fp → Bool) (onNan quiet : Bool) : Prop :=
  ∀ (s : State) (md : MaskReg) (vs1 vs2 : Reg) (m : MaskReg) (stl : Stall) (rv : Nat → VWord),
    VCmpDone s (i md vs1 vs2 m stl) 4 32 vs1 vs2 md m stl rv fun e =>
      let x := Fp.decode fp32 (elem 32 (rv vs1.toNat) e)
      let y := Fp.decode fp32 (elem 32 (rv vs2.toNat) e)
      (if x.isNan || y.isNan then onNan else f x y,
        if x.isSnan || y.isSnan || (quiet && (x.isNan || y.isNan)) then flagNV else 0)

/-- A conversion of R157 from elements of ws bits to elements of wd bits, part p, in mode rm; f takes SR's draw and the source
element. With SR the draws follow the generator's position, one for each active element (R158, R298); without a RAND descriptor in
GEN7 it is illegal (R45). -/
def CvtDone (s : State) (i : Instr) (ws wd p : Nat) (rm : RoundMode) (f : Nat → Nat → Nat × BitVec 4) (vd vs1 : Reg)
    (m : MaskReg) (stl : Stall) (rv : Nat → VWord) : Prop :=
  s.VReady { reads := useV vs1 :: maskReads m vd (decide (ws > wd)), writes := [useV vd], lat := 4 } [vs1.toNat] rv
      (some vd) →
    (rm = RoundMode.sr → (s.me.gens.get 28 0).toNat / 2 ^ 62 ≠ 3 →
      exec i s = .next (s.trap 1 ((encode i).setWidth 64))) ∧
    ((rm = RoundMode.sr → (s.me.gens.get 28 0).toNat / 2 ^ 62 = 3) →
    let n := 512 / max ws wd
    let on (j : Nat) := (s.me.rm m.toNat).getLsbD (16 * j / n)
    let src (j : Nat) := if ws < wd then p * n + j else j
    let dst (j : Nat) := if ws < wd then j else p * n + j
    let before (j : Nat) := (List.range j).countP on
    let val (j : Nat) := f (if rm = RoundMode.sr then s.me.draw (before j) else 0) (elem ws (rv vs1.toNat) (src j))
    ∃ r en fl, (∀ j < n, on j = true → elem wd r (dst j) = (val j).1 % 2 ^ wd ∧ elem wd en (dst j) = 2 ^ wd - 1) ∧
      (∀ e < 512 / wd, (∀ j < n, on j = true → dst j ≠ e) → elem wd en e = 0) ∧
      FlagsOf n on (fun j => (val j).2) fl ∧
      exec i s = .next (((s.setMe (s.consumed [vs1.toNat] rv)).putVec vd.toNat 4 r en).done stl fun c =>
        ({ c with fflags := c.fflags ||| fl }).drew (if rm = RoundMode.sr then before n else 0)))

/-- A reduction of R160: the active elements of vs1 are folded in ascending order into element 0 of vd. -/
def VRedDone (s : State) (i : Instr) (w : Nat) (f : Nat → Nat → Nat × BitVec 4) (vd vs1 : Reg) (m : MaskReg) (stl : Stall)
    (rv : Nat → VWord) : Prop :=
  s.VReady { reads := useV vs1 :: maskReads m vd true, writes := [useV vd], lat := 3 } [vs1.toNat, vd.toNat] rv (some vd) →
    let on := (List.range (512 / w)).filter (laneOn w (s.me.rm m.toNat))
    let r := on.foldl (fun acc e => ((f acc.1 (elem w (rv vs1.toNat) e)).1 % 2 ^ w, acc.2 ||| (f acc.1 (elem w (rv vs1.toNat) e)).2))
      (elem w (rv vd.toNat) 0, (0 : BitVec 4))
    ∃ v en : VWord, elem w v 0 = r.1 ∧ (∀ e < 512 / w, elem w en e = if e = 0 then 2 ^ w - 1 else 0) ∧
      exec i s = .next (((s.setMe (s.consumed [vs1.toNat, vd.toNat] rv)).putVec vd.toNat 3 v en).done stl fun c =>
        { c with fflags := c.fflags ||| r.2 })

/-- A scan or compress of R161: the kept elements in ascending order fill vd from element 0 on, as elements of wd bits, and
their number goes to x[rc]. -/
def VScanDone (s : State) (i : Instr) (w wd : Nat) (live : Nat → Bool) (val : VWord → Nat → Nat) (vd vs1 rc : Reg)
    (m : MaskReg) (stl : Stall) (rv : Nat → VWord) : Prop :=
  s.VReady { reads := useV vs1 :: maskReads m vd true, writes := [useV vd, useX rc], lat := 3 } [vs1.toNat] rv (some vd) →
    let l := (List.range (512 / w)).filter fun e => laneOn w (s.me.rm m.toNat) e && live (elem w (rv vs1.toNat) e)
    ∃ v en : VWord, (∀ k < l.length, elem wd v k = val (rv vs1.toNat) (l.getD k 0) % 2 ^ wd) ∧
      (∀ k < 512 / wd, elem wd en k = if k < l.length then 2 ^ wd - 1 else 0) ∧
      exec i s = .next (((s.setMe (s.consumed [vs1.toNat] rv)).putVec vd.toNat 3 v en).done stl fun c =>
        c.fixX rc.toNat 3 (BitVec.ofNat 64 l.length))

/-- The message m has gone to its package: to the own one inside, to another outside. -/
def State.Answered (u t : State) (p : Nat) (m : NetMsg) : Prop :=
  if p = u.pkg then t.net = u.net ++ [m] ∧ t.netOut = u.netOut else t.netOut = u.netOut ++ [(p, m)] ∧ t.net = u.net

/-! ### Shapes of vector accesses -/

/-- A read of n bytes at address a and place p gives v (R111, R293, R370). -/
def State.Reads (s : State) (a : Word) (n : Nat) (p : Place) (v : Nat) : Prop :=
  match p with
  | .mem pa => poisonedAt s.poison pa n = false ∧ v = s.memRead pa n
  | .pad k off => poisonedAt (s.core k).padPoison off n = false ∧ v = s.padRead k off n
  | .gen d => s.genRead s.focus s.me.gens d a.toNat n = some v
  | _ => False

/-- A vector load of R147: every active element takes the bytes at its address, after the reads of streams that precede it (R172; log
6), and nothing but the issuing context, the core's TLB and the lines' tokens changes before vd is written, where it was found to go at
first. -/
def VLoadDone (s : State) (i : Instr) (reads : List (RegFile × Nat)) (srcs : List Nat) (w : IntW) (mode : AddrMode)
    (vd rs1 : Reg) (m : MaskReg) (stl : Stall) (rv : Nat → VWord) (step : Nat → Word) : Prop :=
  s.VReady { reads := useX rs1 :: reads ++ maskReads m vd false, writes := [useV vd] } srcs rv (some vd) →
    let n := wBits w / 8
    let on := laneOn (wBits w) (s.me.rm m.toNat)
    let addr (e : Nat) := s.me.rx rs1.toNat + step e
    ∀ (pl : Nat → Place) (v : Nat → Nat),
      (∀ e < 512 / wBits w, on e = true →
        s.reach mode .read (addr e) n = .ok (pl e) ∧ s.Reads (addr e) n (pl e) (v e)) →
      ∃ u r, (∀ e < 512 / wBits w, on e = true → elem (wBits w) r e = v e % 2 ^ wBits w) ∧
        s.SameMem u ∧ s.SamePads u ∧ s.SameCtxsBut u s.focus s.active ∧ u.me = (s.setMe (s.consumed srcs rv)).fetchWindows.me ∧
        exec i s = .next ((u.putVec vd.toNat 0 r (enable (wBits w) on) (s.setMe (s.consumed srcs rv))).done stl id)

/-- Byte b of memory after a vector store: that of the highest active element that covers it, else as before. -/
def StoredByte (old : Byte) (count n : Nat) (on : Nat → Bool) (start : Nat → Option Nat) (val : Nat → Nat) (b : Nat)
    (new : Byte) : Prop :=
  let covers (e : Nat) := on e = true ∧ ∃ a, start e = some a ∧ a ≤ b ∧ b < a + n
  ((∀ e < count, ¬ covers e) → new = old) ∧
  ∀ e < count, covers e → (∀ d < count, e < d → ¬ covers d) →
    ∀ a, start e = some a → new = BitVec.ofNat 8 (val e / 256 ^ (b - a))

/-- A vector store of R147 to memory and scratchpads: every byte is that of the highest active element that covers it, or as
before. -/
def VStoreDone (s : State) (i : Instr) (reads : List (RegFile × Nat)) (srcs : List Nat) (w : IntW) (mode : AddrMode)
    (vs3 rs1 : Reg) (m : MaskReg) (stl : Stall) (rv : Nat → VWord) (step : Nat → Word) : Prop :=
  s.VReady { reads := useX rs1 :: useV vs3 :: reads ++ (if m = 0 then [] else [useM m]) } (srcs ++ [vs3.toNat]) rv none →
    let n := wBits w / 8
    let on := laneOn (wBits w) (s.me.rm m.toNat)
    let addr (e : Nat) := s.me.rx rs1.toNat + step e
    ∀ pl : Nat → Place,
      (∀ e < 512 / wBits w, on e = true → s.reach mode .write (addr e) n = .ok (pl e) ∧
        match pl e with | .mem _ => True | .pad _ _ => True | _ => False) →
      ∃ t, exec i s = .next t ∧ t.me = (s.setMe (s.consumed (srcs ++ [vs3.toNat]) rv)).fetchWindows.me.next stl ∧
        (∀ b, StoredByte (cell s.mem b) (512 / wBits w) n on
          (fun e => match pl e with | .mem pa => some pa | _ => none) (elem (wBits w) (rv vs3.toNat)) b (cell t.mem b)) ∧
        ∀ k b, StoredByte (cell (s.core k).pad b) (512 / wBits w) n on
          (fun e => match pl e with | .pad j off => if j = k then some off else none | _ => none)
          (elem (wBits w) (rv vs3.toNat)) b (cell (t.core k).pad b)

/-- The active elements below e that lie in another package. -/
def farBefore (on : Nat → Bool) (pl : Nat → Place) (e : Nat) : Nat := (List.range e).countP fun d => on d && (pl d).isRemote

/-- A vector load some of whose active elements lie in another package (R147, R277; log 29): it follows every stream read that has issued
(R172; log 6), asks for those elements one after the other, waits for each answer, and completes with the last. -/
def VFarLoad (s : State) (i : Instr) (reads : List (RegFile × Nat)) (srcs : List Nat) (w : IntW) (mode : AddrMode)
    (vd rs1 : Reg) (m : MaskReg) (stl : Stall) (rv : Nat → VWord) (step : Nat → Word) : Prop :=
  s.VReady { reads := useX rs1 :: reads ++ maskReads m vd false, writes := [useV vd] } srcs rv (some vd) →
    let n := wBits w / 8
    let on := laneOn (wBits w) (s.me.rm m.toNat)
    let addr (e : Nat) := s.me.rx rs1.toNat + step e
    ∀ (pl : Nat → Place) (near : Nat → Nat),
      (∀ e < 512 / wBits w, on e = true → s.reach mode .read (addr e) n = .ok (pl e) ∧
        ((pl e).isRemote = true ∨ s.Reads (addr e) n (pl e) (near e))) →
      (∃ e < 512 / wBits w, on e = true ∧ (pl e).isRemote = true) →
      (∀ t, s.finishReads = .stop t → exec i s = .next t) ∧
      ∀ u, s.finishReads = .on u → (∀ e < 512 / wBits w, on e = true → u.reach mode .read (addr e) n = .ok (pl e)) →
        (u.destCheck vd.toNat = .fine →
          (∀ e < 512 / wBits w, on e = true → (pl e).isRemote = true → farBefore on pl e < u.me.remoteVals.length) →
          ∃ x r, (∀ e < 512 / wBits w, on e = true → elem (wBits w) r e =
              (if (pl e).isRemote then (u.me.remoteVals.getD (farBefore on pl e) 0).toNat else near e) % 2 ^ wBits w) ∧
            u.SameMem x ∧ u.SamePads x ∧ u.SameCtxsBut x u.focus u.active ∧
            exec i s = .next ((x.putVec vd.toNat 0 r (enable (wBits w) on) (u.setMe (u.consumed srcs rv))).done stl id)) ∧
        ∀ e < 512 / wBits w, ∀ q, on e = true → pl e = .remote q → farBefore on pl e = u.me.remoteVals.length →
          ∃ t, exec i s = .next t ∧ t.me.run = .waiting .remote ∧ t.me.remoteAsked = true ∧ t.me.pc = u.me.pc ∧
            u.SameMem t ∧ u.SamePads t ∧
            if u.me.remoteAsked then t.net = u.net ∧ t.netOut = u.netOut
            else u.Answered t q (.flatLoad (u.netSrc 0) u.me.asid.toNat (addr e).toNat n)

/-- A vector store some of whose active elements lie in another package (R147, R277; log 29): it follows every stream read that has issued,
stores the other elements, sends a message for each of those in ascending order, and completes; each still awaits its
acknowledgement. -/
def VFarStore (s : State) (i : Instr) (reads : List (RegFile × Nat)) (srcs : List Nat) (w : IntW) (mode : AddrMode)
    (vs3 rs1 : Reg) (m : MaskReg) (rv : Nat → VWord) (step : Nat → Word) : Prop :=
  s.VReady { reads := useX rs1 :: useV vs3 :: reads ++ (if m = 0 then [] else [useM m]) } (srcs ++ [vs3.toNat]) rv none →
    let n := wBits w / 8
    let on := laneOn (wBits w) (s.me.rm m.toNat)
    let addr (e : Nat) := s.me.rx rs1.toNat + step e
    let val := elem (wBits w) (rv vs3.toNat)
    ∀ (pl : Nat → Place) (q : Nat → Nat),
      (∀ e < 512 / wBits w, on e = true → s.reach mode .write (addr e) n = .ok (pl e) ∧
        match pl e with | .mem _ => True | .pad _ _ => True | .remote p => p = q e ∧ p ≠ s.pkg | _ => False) →
      (∃ e < 512 / wBits w, on e = true ∧ (pl e).isRemote = true) →
      (∀ t, s.finishReads = .stop t → exec i s = .next t) ∧
      ∀ u, s.finishReads = .on u → (∀ e < 512 / wBits w, on e = true → u.reach mode .write (addr e) n = .ok (pl e)) →
        let far := (List.range (512 / wBits w)).filter fun e => on e && (pl e).isRemote
        let id (e : Nat) := u.me.storeIds + farBefore on pl e
        ∃ t, exec i s = .next t ∧ t.me.pc = u.me.pc + 4 ∧
          t.netOut = u.netOut ++ far.map (fun e =>
            (q e, .flatStore (u.netSrc 0) u.me.asid.toNat (addr e).toNat (id e) (toBytes n (val e)))) ∧
          t.me.stores.map RemoteStore.id = u.me.stores.map RemoteStore.id ++ far.map id ∧
          (∀ b, StoredByte (cell u.mem b) (512 / wBits w) n on (fun e => match pl e with | .mem pa => some pa | _ => none) val b
            (cell t.mem b)) ∧
          ∀ k b, StoredByte (cell (u.core k).pad b) (512 / wBits w) n on
            (fun e => match pl e with | .pad j off => if j = k then some off else none | _ => none) val b (cell (t.core k).pad b)

/-- A vector access of n bytes an element whose operands are at hand is stopped by what its active elements meet (R112, R148): a
misaligned one first, then a miss (log 62), an access fault (which an invalid descriptor is), GENWRITE, an absent page, and of each the
lowest element; then a load by the lowest poisoned element (R370). Nothing else happens, but that the stream reads which precede such a
load are made (R172; log 6). -/
def VStops (s : State) (i : Instr) (acc : Access) (count n : Nat) (mode : AddrMode) (on : Nat → Bool) (addr : Nat → Word) :
    Prop :=
  let r (e : Nat) := s.reach mode acc (addr e) n
  let stops (t : State) : Prop := exec i s = .next t
  let crooked (e : Nat) : Prop := (addr e).toNat % n ≠ 0 ∨ (mode = .clust ∧ n = 8)
  let missed (e : Nat) : Prop := r e = .miss acc (addr e)
  let denied (e : Nat) : Prop := r e = .trap 3 (addr e) ∨
    ∃ g, r e = .ok (.gen g) ∧ s.genRead s.focus s.me.gens g (addr e).toNat n = none
  let noWrite (e : Nat) : Prop := r e = .trap 6 (addr e)
  let absent (e : Nat) : Prop := r e = .absent (addr e)
  let poisoned (e : Nat) : Prop := acc = .read ∧ ∃ p, r e = .ok p ∧ s.placePoisoned p n = true
  let stored (e : Nat) : Prop := ∃ p, r e = .ok p ∧ match p with | .mem _ => True | .pad _ _ => True | _ => False
  let none' (f : Nat → Prop) : Prop := ∀ d < count, on d = true → ¬ f d
  ∀ e < count, on e = true →
    let first (f : Nat → Prop) : Prop := f e ∧ ∀ d < e, on d = true → ¬ f d
    (first crooked → stops (s.trap 2 (addr e))) ∧
    (none' crooked →
      (first missed → stops (s.wait (.tlb acc (addr e)))) ∧
      (none' missed →
        (first denied → stops ((s.looked mode (addr e)).trap 3 (addr e))) ∧
        (none' denied →
          (first noWrite → stops ((s.looked mode (addr e)).trap 6 (addr e))) ∧
          (none' noWrite → first absent → stops ((s.looked mode (addr e)).park (addr e))) ∧
          ((∀ d < count, on d = true → stored d) → first poisoned →
            ∃ u, stops (u.trap 3 (addr e)) ∧ s.SameMem u ∧ s.SamePads u ∧ u.me = s.fetchWindows.me))))

/-! ### Events and tasks -/

/-- The number of packets that the issuing core has sent of the triple of R176 that a target and a channel make. -/
def State.seqOf (s : State) (target : Word) (ch : Nat) : Nat :=
  (s.myCore.seqs.get (64 * (target.toNat / 2 ^ 3 % 2 ^ 20) + ch) 0).toNat

/-- The packet that the issuing context sends to a target (R175, R176). -/
def State.packetTo (s : State) (target : Word) (ch index delta : Nat) (mcast : Bool) (seq : Nat) : BitVec 128 :=
  mkFlit s.active mcast seq s.focus s.pkg delta index ch (target.toNat / 2 ^ 3 % 2 ^ 13) (target.toNat / 2 ^ 16 % 2 ^ 7)

/-- A send request of the issuing context for n packets is granted now (R177). -/
def State.MaySend (s : State) (n : Nat) : Prop :=
  (s.myCore.sendQ = [] ∨ s.myCore.sendQ.head? = some s.active) ∧ s.myCore.outFlits.length + n ≤ 32

/-- t is s after the issuing core has sent packets: the injection buffer holds them last, in order, and nothing but the
core's sequence numbers and its waiting requests differs. -/
def State.Sent (s t : State) (ps : List (BitVec 128)) : Prop :=
  ∃ seqs sendQ, t = s.updCore s.focus fun co => { co with outFlits := co.outFlits ++ ps, seqs := seqs, sendQ := sendQ }

/-- A context as a task starts on it (R306): its pc and arguments, x4 at KP, the identity of its coach, and every other
register, flag and binding at 0. -/
def Ctx.Started (x : Ctx) (co : Coach) (pc : Word) (args : List Word) (cls : Nat) (tile : BitVec 48) : Prop :=
  x.pc = pc ∧ x.run = .ready ∧ x.coach = some co.slot ∧ x.lid = co.lid ∧ x.asid = co.asid ∧ x.tile = tile ∧
    x.cls.toNat = min cls co.cap.toNat ∧ x.cap = co.cap ∧ x.predl = co.predl ∧
    (∀ n, x.rx n = if n = 4 then co.kp else if 10 ≤ n then args.getD (n - 10) 0 else 0) ∧
    (∀ n, x.rv n = 0) ∧ (∀ n, n ≠ 0 → x.rm n = 0) ∧ x.pend = [] ∧ x.streams = [] ∧ x.gens = [] ∧ x.fflags = 0 ∧
    x.sdout = 0 ∧ x.reserve = none

/-- The slot of context c of core k has left every barrier that its launch owns, which completes where that was the last arrival
missing; the others are as before (R214). -/
def State.BarsLeft (s t : State) (k c : Nat) : Prop :=
  ∀ n x, (s.cluster (clusterOf k)).bars.find? n = some x →
    ∃ y, (t.cluster (clusterOf k)).bars.find? n = some y ∧ y.owner = x.owner ∧
      if x.owner = (s.ctx k c).lid then
        (∀ i < 32, y.members.getLsbD i = (x.members.getLsbD i && i != slotOf k c)) ∧
        (y.arrived = 0 ∧ y.phase = (!x.phase) ∧ y.members ≠ 0 ∨
          (∀ i < 32, y.arrived.getLsbD i = (x.arrived.getLsbD i && i != slotOf k c)) ∧ y.phase = x.phase ∧
            (y.members = 0 ∨ y.arrived ≠ y.members))
      else y = x

/-- t is what s becomes when the task of context c of core k ends (R203, R214): the context is idle, its slot leaves every
barrier of its launch, and no memory changes. -/
def State.TaskEnds (s t : State) (k c : Nat) : Prop :=
  (t.ctx k c).run = .idle ∧ (t.ctx k c).coach = none ∧ s.SameMem t ∧ s.SamePads t ∧ s.BarsLeft t k c

/-- Barrier b of the issuing context's cluster after it has arrived: the last member completes it (R211), and a waiter whose coach's save
has begun goes on after its readmission (R339). -/
def State.Arrived (s t : State) (b : Nat) : Prop :=
  let x := s.myCluster.bars.get b {}
  let y := (t.cluster (clusterOf s.focus)).bars.get b {}
  let all := ∀ i < 32, x.members.getLsbD i = (x.arrived.getLsbD i || i == slotOf s.focus s.active)
  y.members = x.members ∧ y.owner = x.owner ∧
    (all → y.arrived = 0 ∧ y.phase = !x.phase) ∧
    (¬ all → y.phase = x.phase ∧ ∀ i < 32, y.arrived.getLsbD i = (x.arrived.getLsbD i || i == slotOf s.focus s.active)) ∧
    ∀ k c p, clusterOf k = clusterOf s.focus → k < 10240 → (k ≠ s.focus ∨ c ≠ s.active) →
      (s.ctx k c).run = .waiting (.barrier b p) →
      (t.ctx k c).run = if y.phase = x.phase then .waiting (.barrier b p) else if s.beingSaved k (s.ctx k c) then .stopped else .ready

/-! ### Engines and messages -/

/-- The byte at a place of package memory or of a scratchpad. -/
def State.byteIn (s : State) : Place → Byte
  | .mem pa => cell s.mem pa
  | .pad k off => cell (s.core k).pad off
  | _ => 0

/-- The byte at such a place as an access of a path class finds it: where nothing has ordered a write before that access, it may be what the
write replaced (R263, R282, R283; log 6). -/
def State.seenIn (s : State) (cls : BitVec 6) : Place → Byte
  | .mem pa => BitVec.ofNat 8 (s.memSeen cls pa 1)
  | .pad k off => BitVec.ofNat 8 (s.padSeen cls k off 1)
  | _ => 0

/-- A place of package memory or of a scratchpad. -/
def Place.Stored : Place → Prop
  | .mem _ => True
  | .pad _ _ => True
  | _ => False

/-- t holds the len bytes val at the places dst and every other byte of s. -/
def State.BytesAt (s t : State) (len : Nat) (dst : Nat → Place) (val : Nat → Byte) : Prop :=
  (∀ j < len, t.byteIn (dst j) = val j) ∧ ∀ p, (∀ j < len, p ≠ dst j) → t.byteIn p = s.byteIn p

/-- The request has counted len bytes from lo more: its progress holds them, or it has left because every byte is performed
and counted. -/
def State.Counted (t : State) (k : Nat) (r : Req) (lo len : Nat) : Prop :=
  (∃ x, t.req k r.num = some x ∧ x.dones = r.dones ++ [(lo, len)] ∧ x.delivered = r.delivered + len ∧ x.kind = r.kind ∧
      x.w0 = r.w0 ∧ x.w1 = r.w1 ∧ x.w2 = r.w2 ∧ x.w3 = r.w3) ∨
    (t.req k r.num = none ∧ r.bytes ≤ r.delivered + len)

/-- u is s after its agenda's head and message m have been taken: from the package's own messages, or from outside. -/
def State.Took (s u : State) (m : NetMsg) (sender : NetSrc) : Prop :=
  (m ∈ s.net ∧ u = { s.pop with net := s.net.erase m }) ∨ (m ∉ s.net ∧ sender.pkg ≠ s.pkg ∧ u = s.pop)

/-- Bits [hi:lo] of a word. -/
def fieldOf (w : Word) (hi lo : Nat) : Nat := w.toNat / 2 ^ lo % 2 ^ (hi + 1 - lo)

/-- The bytes of an element of a type of R243 and R256: int32, int64, FP32, BF16. -/
def typeBytes (t : Nat) : Nat := if t = 1 then 8 else if t = 3 then 2 else 4

/-- R243 to R245, R256, R259, R260: a request whose words have a field outside its limits, an overlapping destination or a
non-zero reserved field. -/
def ReqMalformed (kind : ReqKind) (w0 w1 w2 w3 : Word) : Prop :=
  let len0 := fieldOf w2 45 32
  let count1 := fieldOf w2 55 46
  let count2 := fieldOf w2 63 56
  let stride1 := fieldOf w2 31 16
  let box := len0 = 0 ∨ count1 = 0 ∨ count2 = 0 ∨ (fieldOf w3 18 17 % 2 = 0 ∧ ((1 < count1 ∧ stride1 < len0) ∨
    (1 < count2 ∧ 64 * fieldOf w2 15 0 < stride1 * (count1 - 1) + len0)))
  let near (w : Word) := fieldOf w 63 50 ≠ 0
  let dest (w : Word) := if w.getLsbD 63 then fieldOf w 62 60 ≠ 0 ∨ fieldOf w 55 17 ≠ 0 ∨ fieldOf w 59 56 = 0
    else fieldOf w 62 50 ≠ 0
  let far (w : Word) := w.getLsbD 63 = true ∨ fieldOf w 55 48 ≠ 0
  let crooked (w : Word) (n : Nat) := fieldOf w 47 0 % n ≠ 0
  fieldOf w3 11 8 ≠ 0 ∨ w3.getLsbD 6 = true ∨
  match kind with
  | .copy => fieldOf w3 16 12 ≠ 0 ∨ box ∨ near w0 ∨ dest w1
  | .get => fieldOf w3 16 12 ≠ 0 ∨ box ∨ far w0 ∨ dest w1
  | .put => fieldOf w3 15 12 ≠ 0 ∨ box ∨ near w0 ∨ far w1
  | .redcopy =>
    let n := typeBytes (fieldOf w3 13 12)
    fieldOf w3 15 14 = 3 ∨ box ∨ near w0 ∨ far w1 ∨ len0 % n ≠ 0 ∨ stride1 % n ≠ 0 ∨ crooked w0 n ∨ crooked w1 n
  | .gather => fieldOf w3 18 12 ≠ 0 ∨ fieldOf w0 63 48 ≠ 0 ∨ near w1 ∨ fieldOf w2 63 48 = 0 ∨ fieldOf w2 47 44 < 2 ∨
      10 < fieldOf w2 47 44 ∨ fieldOf w2 43 17 ≠ 0 ∨ crooked w0 (2 ^ fieldOf w2 47 44) ∨ crooked w1 4
  | .scatadd => fieldOf w3 18 12 ≠ 0 ∨ fieldOf w0 63 48 ≠ 0 ∨ near w1 ∨ fieldOf w2 63 48 = 0 ∨ 3 < fieldOf w2 47 44 ∨
      fieldOf w2 43 17 ≠ 0 ∨ crooked w0 (typeBytes (fieldOf w2 47 44)) ∨ crooked w1 4
  | .bin => fieldOf w3 18 12 ≠ 0 ∨ near w0 ∨ near w1 ∨ fieldOf w2 63 48 = 0 ∨ fieldOf w2 44 32 = 0 ∨
      4096 < fieldOf w2 44 32 ∨ fieldOf w2 47 45 ≠ 0 ∨ fieldOf w2 31 21 ≠ 0 ∨ fieldOf w2 15 0 ≠ 0 ∨ crooked w0 4 ∨ crooked w1 4

/-- The bytes that a request posts (R245, R256). -/
def ReqPosts (kind : ReqKind) (w2 : Word) : Nat :=
  match kind with
  | .gather => fieldOf w2 63 48 * 2 ^ fieldOf w2 47 44
  | .scatadd => fieldOf w2 63 48 * typeBytes (fieldOf w2 47 44)
  | .bin => 4 * (fieldOf w2 44 32 + 1 + fieldOf w2 63 48)
  | _ => fieldOf w2 45 32 * fieldOf w2 55 46 * fieldOf w2 63 56

/-- The cores that count a request's bytes (R247): the receivers of a multicast copy or GET, else the issuing core. -/
def ReqTargets (k : Nat) (kind : ReqKind) (w1 : Word) : List Nat :=
  if (kind = .copy ∨ kind = .get) ∧ w1.getLsbD 63 = true then
    ((List.range 4).filter fun j => w1.getLsbD (56 + j)).map (coreOf (clusterOf k))
  else [k]

/-- The first and last byte of every scratchpad side of a request of core k pass R16 (R247, R256). -/
def State.ReqSidesPass (s : State) (k : Nat) (kind : ReqKind) (w0 w1 w2 w3 : Word) : Prop :=
  let ok (k : Nat) (mode a last : Nat) : Prop := mode = 0 ∨
    ((s.padPlace k (AddrMode.ofBits (BitVec.ofNat 2 mode)) a).isSome ∧
      (s.padPlace k (AddrMode.ofBits (BitVec.ofNat 2 mode)) (a + last)).isSome)
  let side (w : Word) (last : Nat) : Prop := ok k (fieldOf w 49 48) (fieldOf w 47 0) last
  let len0 := fieldOf w2 45 32
  let count1 := fieldOf w2 55 46
  let count2 := fieldOf w2 63 56
  let last (strided : Bool) : Nat :=
    if strided then len0 - 1 + fieldOf w2 31 16 * (count1 - 1) + 64 * fieldOf w2 15 0 * (count2 - 1)
    else len0 * count1 * count2 - 1
  let src : Prop := side w0 (last (fieldOf w3 18 17 < 2))
  let dst : Prop :=
    if w1.getLsbD 63 then ∀ j ∈ ReqTargets k .copy w1, ok j 1 (fieldOf w1 16 0) (last (fieldOf w3 18 17 % 2 = 0))
    else side w1 (last (fieldOf w3 18 17 % 2 = 0))
  match kind with
  | .copy => src ∧ dst
  | .get => dst
  | .put => src
  | .redcopy => src
  | .bin => side w0 (4 * fieldOf w2 63 48 - 1) ∧ side w1 (ReqPosts .bin w2 - 1)
  | kind => side w1 (4 * fieldOf w2 63 48 - 1) ∧ ok k 1 (fieldOf w2 16 0) (ReqPosts kind w2 - 1)

/-- The virtual address that must not begin in a generator window: a FLAT destination or base, and the destination of a PUT or REDCOPY
in the own package (R247, R256, R302; log 47). -/
def State.ReqBase (s : State) (kind : ReqKind) (w0 w1 : Word) : Option Nat :=
  if kind = .gather ∨ kind = .scatadd then some (fieldOf w0 47 0)
  else if kind = .put ∨ kind = .redcopy then (if fieldOf w1 62 56 = s.pkg then some (fieldOf w1 47 0) else none)
  else if w1.getLsbD 63 = false ∧ fieldOf w1 49 48 = 0 then some (fieldOf w1 47 0) else none

/-- The issuing context's instruction, having come from s to f, reports the first in program order of the deferred faults that sel selects:
it traps there with the fault's CAUSE and its Deferred bit, and the fault is no longer pending (R141, R236, R251, R253, R254, R327). -/
def State.ReportsAt (s f : State) (i : Instr) (sel : Deferred → Prop) : Prop :=
  ∀ d ∈ f.me.deferred, sel d → (∀ e ∈ f.me.deferred, sel e → e = d ∨ d.ord < e.ord) →
    ∃ t, exec i s = .next t ∧ f.SameMem t ∧ f.SamePads t ∧ f.SameCtxsBut t f.focus f.active ∧
      t.me.run = (if isSvc f.focus then .halted else .trapped) ∧ t.me.epc = f.me.pc &&& ~~~3#64 ∧
      t.me.deferred = f.me.deferred.erase d ∧
      match d.why with
      | .access va => t.me.cause.toNat = 32 + 3 ∧ t.me.tval = va
      | .refusal pc => t.me.cause.toNat = 32 + 10 ∧ t.me.tval = pc
      | .cimerr v => t.me.cause.toNat = 32 + 9 ∧ t.me.tval = v

/-- The issuing context's instruction reports such a fault from where it stands. -/
def State.Reports (s : State) (i : Instr) (sel : Deferred → Prop) : Prop := s.ReportsAt s i sel

/-- A tag after n bytes are posted (R249, R250): Expected grows, and an armed tag is ready when Arrived equals it. -/
def TagPosted (t u : Tag) (n : Nat) : Prop :=
  u.expected = (t.expected + n) % 2 ^ 31 ∧ u.arrived = t.arrived ∧ u.armed = t.armed ∧
    (u.ready = true ↔ t.ready = true ∨ (t.armed = true ∧ u.arrived.toNat = u.expected))

/-- A tag after n bytes are counted (R249, R250): Arrived grows modulo 2^31, and an armed tag is ready when Arrived equals
Expected at one of them. -/
def TagCounted (t u : Tag) (n : Nat) : Prop :=
  u.expected = t.expected ∧ u.arrived.toNat = (t.arrived.toNat + n) % 2 ^ 31 ∧ u.armed = t.armed ∧
    (t.expected < 2 ^ 31 → (u.ready = true ↔ t.ready = true ∨
      (t.armed = true ∧ ∃ i, 0 < i ∧ i ≤ n ∧ (t.arrived.toNat + i) % 2 ^ 31 = t.expected)))

/-! ### The matrix engine -/

/-- The issuing task may use its core's macro, and no fault of the engine waits for it (R216, R236). -/
def State.MxFree (s : State) : Prop :=
  isSvc s.focus = false ∧ s.me.coach.isSome = true ∧ (s.myCore.bound = none ∨ s.myCore.boundLid = s.me.lid) ∧
    ∀ d ∈ s.me.deferred, d.cls ≠ clsMX

/-- s with the core's macro bound to the issuing task's coach (R216). -/
def State.binds (s : State) : State :=
  s.updCore s.focus fun co => { co with bound := s.me.coach, boundLid := s.me.lid }

/-- t is s after an operation of the issuing context has joined the engine queue last, with the engine registers as they stand,
and its busy code 0 has gone to rd; nothing but the macro's binding differs besides (R221). -/
def State.MxQueued (s t : State) (kind : MxKind) (a b : Word) (rd : Reg) (stl : Stall) : Prop :=
  (∃ o, (t.core s.focus).mxq = s.myCore.mxq ++ [o] ∧ o.kind = kind ∧ o.regs = s.myCore.mx ∧ o.a = a ∧ o.b = b ∧
    o.ctx = s.active ∧ o.lid = s.me.lid ∧ o.asid = s.me.asid ∧ o.sup = s.me.sup ∧ o.tile = s.me.tile ∧ o.pc = s.me.pc ∧
    o.started = false ∧ o.done = 0 ∧ o.owned = true) ∧
  t.me = ({ s.me with storeIds := s.me.storeIds + 1 }.varX rd.toNat 0).next stl ∧ s.SameMem t ∧ s.SamePads t ∧
  (t.core s.focus).bound = s.me.coach ∧ (t.core s.focus).mx = s.myCore.mx

/-- No checksum of a pass over n columns from c0 fails (R235). -/
def Core.SumsAgree (co : Core) (c0 n : Nat) : Prop :=
  ∀ c ∈ co.faultyCols ++ co.mismatches, ¬ (c0 ≤ c ∧ c < c0 + n)

/-! ### Checks of the matrix engine, from the spec's table (R218, R222) -/

/-- Regions of a scratchpad of which no two share a byte. -/
def Apart (l : List (Nat × Nat)) : Prop :=
  l.Pairwise fun a b => a.2 = 0 ∨ b.2 = 0 ∨ a.1 + a.2 ≤ b.1 ∨ b.1 + b.2 ≤ a.1

/-- Regions that fit a scratchpad of size S. -/
def Fit (S : Nat) (l : List (Nat × Nat)) : Prop := ∀ g ∈ l, g.1 + g.2 ≤ S

/-- The columns of core k's kind (R12). -/
def columnsOf (k : Nat) : Nat := if isWide (clusterOf k) then 256 else 1024

/-- K, N, Row0 and Col0 are within the macro of core k. -/
def MxRegs.GeoFits (r : MxRegs) (k : Nat) : Prop :=
  fieldOf r.mgeo 26 17 ≠ 0 ∧ fieldOf r.mgeo 47 37 ≠ 0 ∧ fieldOf r.mgeo 16 8 % 32 = 0 ∧
    fieldOf r.mgeo 16 8 + fieldOf r.mgeo 26 17 ≤ 512 ∧ fieldOf r.mgeo 36 27 + fieldOf r.mgeo 47 37 ≤ columnsOf k

/-- N alone is within the macro of core k. -/
def MxRegs.ColsFit (r : MxRegs) (k : Nat) : Prop := fieldOf r.mgeo 47 37 ≠ 0 ∧ fieldOf r.mgeo 47 37 ≤ columnsOf k

/-- Core k's kind holds WFmt (R13). -/
def MxRegs.WeightsFit (r : MxRegs) (k : Nat) : Prop :=
  if isWide (clusterOf k) then fieldOf r.mfmt 1 0 = 1 ∨ fieldOf r.mfmt 1 0 = 2 else fieldOf r.mfmt 1 0 = 0

/-- Core k's kind takes ActFmt. -/
def MxRegs.ActsFit (r : MxRegs) (k : Nat) : Prop :=
  if isWide (clusterOf k) then fieldOf r.mfmt 10 8 = 4 ∨ fieldOf r.mfmt 10 8 = 5 else fieldOf r.mfmt 10 8 ≤ 2

/-- Core k's kind takes the accumulator's format, for events where `events`; MACC.Off is a multiple of 8 (R218). -/
def MxRegs.AccFits (r : MxRegs) (k : Nat) (events : Bool) : Prop :=
  (isWide (clusterOf k) = true → r.macc.getLsbD 31 = false) ∧
    (isWide (clusterOf k) = false → events = true → r.macc.getLsbD 31 = true) ∧
    (r.macc.getLsbD 31 = true → fieldOf r.macc 29 24 ≤ 47) ∧ fieldOf r.macc 16 0 % 8 = 0

/-- MSCP.Off is a multiple of 16 on a narrow core (R218). -/
def MxRegs.ScaleFits (r : MxRegs) (k : Nat) : Prop := isWide (clusterOf k) = false → fieldOf r.mscp 16 0 % 16 = 0

/-- The bytes of an accumulator element. -/
def MxRegs.accBytes (r : MxRegs) : Nat := if r.macc.getLsbD 31 then 8 else 4

/-- The scale table of a narrow core up to the last column named. -/
def MxRegs.scaleBytes (r : MxRegs) (k : Nat) : List (Nat × Nat) :=
  if isWide (clusterOf k) then [] else [(fieldOf r.mscp 16 0, 16 * (fieldOf r.mgeo 36 27 + fieldOf r.mgeo 47 37))]

/-- Accumulator rows first … stop - 1. -/
def MxRegs.accBytesOf (r : MxRegs) (first stop : Nat) : List (Nat × Nat) :=
  let row := fieldOf r.mgeo 47 37 * r.accBytes
  if first < stop then [(fieldOf r.macc 16 0 + first * row, (stop - first) * row)] else []

/-- The bytes of an output element. -/
def MxRegs.outBytes (r : MxRegs) : Nat :=
  if fieldOf r.mdrh 57 56 = 0 then r.accBytes else if fieldOf r.mdrh 57 56 = 1 then 4 else 2

/-- The slots, each an output row rounded up to 64 bytes. -/
def MxRegs.slotBytes (r : MxRegs) : List (Nat × Nat) :=
  let size := (fieldOf r.mgeo 47 37 * r.outBytes + 63) / 64 * 64
  (List.range (fieldOf r.mdrh 60 58 + 1)).map fun n => (1024 * fieldOf r.mdrh 55 49 + n * size, size)

/-- MLOADW passes the table's checks on core k, whose scratchpad has S bytes; a is its source word. -/
def MxRegs.LoadPasses (r : MxRegs) (k S : Nat) (a : Word) : Prop :=
  r.GeoFits k ∧ r.WeightsFit k ∧ r.ScaleFits k ∧ Fit S (r.scaleBytes k) ∧ fieldOf a 49 48 ≤ 1

/-- MMUL with source words a and b passes them. -/
def MxRegs.MulPasses (r : MxRegs) (k S : Nat) (a b : Word) : Prop :=
  let size := fieldOf r.mgeo 26 17 * (if fieldOf r.mfmt 10 8 < 3 then 1 else 2)
  let rows := fieldOf r.mgeo 63 48
  let pitch := fieldOf b 63 48
  let acts := (if a.getLsbD 63 then [] else (List.range rows).map fun i => (fieldOf a 16 0 + i * pitch, size)) ++
    if fieldOf r.mfmt 10 8 = 0 then [(fieldOf b 16 0, 4 * rows)] else []
  let regions := acts ++ r.slotBytes ++ r.accBytesOf 0 rows ++ r.scaleBytes k
  r.GeoFits k ∧ rows ≠ 0 ∧ r.WeightsFit k ∧ r.ActsFit k ∧ r.AccFits k false ∧ r.ScaleFits k ∧
    (a.getLsbD 63 = false → pitch % 4 = 0 ∧ size ≤ pitch) ∧ (fieldOf r.mfmt 10 8 = 0 → fieldOf b 16 0 % 4 = 0) ∧
    Fit S regions ∧ Apart regions

/-- MZERO of rows first … stop - 1 passes them. -/
def MxRegs.ZeroPasses (r : MxRegs) (k S first stop : Nat) : Prop :=
  r.ColsFit k ∧ r.AccFits k false ∧ Fit S (r.accBytesOf first stop)

/-- MDRAIN of rows first … stop - 1 passes them. -/
def MxRegs.DrainPasses (r : MxRegs) (k S first stop : Nat) : Prop :=
  let regions := r.slotBytes ++ r.accBytesOf first stop
  r.ColsFit k ∧ r.AccFits k false ∧ Fit S regions ∧ Apart regions ∧ Apart (r.slotBytes ++ r.scaleBytes k) ∧
    fieldOf r.mdst 63 62 ≠ 3 ∧ (fieldOf r.mdst 63 62 = 1 → fieldOf r.mdrh 57 56 ≠ 0)

/-- EVMAC fails them at engine register n, or with n = 7 at a region. -/
def MxRegs.EvmacFails (r : MxRegs) (k S n : Nat) : Prop :=
  (¬ r.GeoFits k ∧ n = 0) ∨ (r.GeoFits k ∧
    ((¬ r.WeightsFit k ∧ n = 1) ∨ (r.WeightsFit k ∧
      ((¬ r.AccFits k true ∧ n = 4) ∨ (r.AccFits k true ∧
        ((¬ r.ScaleFits k ∧ n = 3) ∨
          (r.ScaleFits k ∧ ¬ Fit S (r.scaleBytes k ++ r.accBytesOf 0 1) ∧ n = 7)))))))

/-- A byte of a source or destination that the engine reaches for an operation of a context of core k: in memory, in a scratchpad, or
in a generator window with a valid descriptor (R224, R293). -/
def State.MxFine (s : State) (k : Nat) (gens : SMap Word) (r : Reach) : Prop :=
  match r with
  | .ok (.mem _) => True
  | .ok (.pad _ _) => True
  | .ok (.gen d) => (genDesc gens d).valid (s.padSize k) = true
  | _ => False

/-- The issuing context's instruction is stopped as it checks the byte at a, which the engine does not reach: it waits for a
translation, parks, or traps with code 3 (R224); u is the state it is at. -/
def State.MxStopsAt (s u : State) (i : Instr) (mode : AddrMode) (acc : Access) (a : Word) : Prop :=
  match s.reachFor s.focus s.me.asid s.me.sup mode acc a with
  | .miss _ _ => exec i s = .next (u.wait (.tlb acc a))
  | .absent _ => exec i s = .next ((u.looked mode a).park a)
  | _ => exec i s = .next ((u.looked mode a).trap 3 a)

/-! ### Values of the macros' sums, from the spec's text (R39 to R41, R54 to R62) -/

/-- A number, an infinity, or not a number; zero has no sign, as in every sum of the macros (R55, R59, R61). -/
inductive Ext where
  | nan
  | inf (neg : Bool)
  | num (q : ℚ)
  deriving DecidableEq

/-- The exact product: 0 × ∞ is not a number. -/
def Ext.mul : Ext → Ext → Ext
  | .nan, _ => .nan
  | _, .nan => .nan
  | .inf a, .inf b => .inf (a != b)
  | .inf a, .num q => if q = 0 then .nan else .inf (a != decide (q < 0))
  | .num q, .inf a => if q = 0 then .nan else .inf (a != decide (q < 0))
  | .num p, .num q => .num (p * q)

/-- The exact sum: infinities of both signs give no number. -/
def Ext.add : Ext → Ext → Ext
  | .nan, _ => .nan
  | _, .nan => .nan
  | .inf a, .inf b => if a = b then .inf a else .nan
  | .inf a, .num _ => .inf a
  | .num _, .inf a => .inf a
  | .num p, .num q => .num (p + q)

/-- The value of an encoding. -/
def FloatFmt.ext (f : FloatFmt) (v : Nat) : Ext :=
  if f.isNanEnc v then .nan else if f.isInfEnc v then .inf (f.negOf v) else .num (f.rat v)

/-- The value that the model's exact values stand for. -/
def Fp.ext : Fp → Ext
  | .nan _ => .nan
  | .inf a => .inf a
  | .zero _ => .num 0
  | .fin m e => .num ((m : ℚ) * (2 : ℚ) ^ e)

/-- An exact value in the model's form: a number other than 0 has a significand other than 0. -/
def Fp.Proper : Fp → Prop
  | .fin m _ => m ≠ 0
  | _ => True

/-- The element codes of a type (R55). -/
def blockTable (type : Nat) : List Ext :=
  if type = 0 then [0, 1, 2, 3, 4, 5, 6, 7, -8, -7, -6, -5, -4, -3, -2, -1].map .num
  else if type = 1 then [0, 0.5, 1, 1.5, 2, 3, 4, 6, 0, -0.5, -1, -1.5, -2, -3, -4, -6].map .num
  else if type = 2 then
    [0, 0.125, 0.25, 0.5, 1, 2, 4].map .num ++ [.inf false, .nan] ++ [-0.125, -0.25, -0.5, -1, -2, -4].map .num ++ [.inf true]
  else [0, 1, 2, 3, 4, 6, 8, 12].map .num ++ [.nan] ++ [-1, -2, -3, -4, -6, -8, -12].map .num

/-- The scale of a scale byte under tile base B (R54). -/
def scaleOf (sc : Nat) (B : Int) : Ext :=
  if sc / 4 % 16 = 0 then (if sc % 4 = 0 then .num 0 else .nan)
  else .num ((4 + (sc % 4 : Nat)) / 4 * (2 : ℚ) ^ (B + (sc / 4 % 16 : Nat) - 8))

/-- The element of a code under a scale byte's type. -/
def elementOf (sc code : Nat) : Ext := (blockTable (sc / 64)).getD code .nan

/-- A block of n rows under its scale: codes, activations and the row scale of int8 (R57, R59). -/
def blockValue (B : Int) (sc n : Nat) (code : Nat → Nat) (act : Nat → Ext) (rowScale : Option Ext) : Ext :=
  let sum : Ext := (List.range n).foldl (fun (x : Ext) i => x.add ((elementOf sc (code i)).mul (act i))) (.num 0)
  ((rowScale.map sum.mul).getD sum).mul (scaleOf sc B)

/-- An FX48 element acc becomes res as x, rounded to a multiple of 2^-F and taken `times` times, enters it (R40, R60). -/
def EntersFx (F acc : Nat) (times : Int) (x : Ext) (res : Nat) : Prop :=
  match x with
  | .num q => ∃ n : Nat, RoundsInt .rne 0 (decide (q < 0)) (|(q : ℝ)| * 2 ^ F) n ∧
      let v : Int := if q < 0 then -(n : Int) else n
      res = acc / 2 ^ 48 % 2 * 2 ^ 48 + (((BitVec.ofNat 48 acc).toInt + times * v) % 2 ^ 48).toNat
  | _ => res = acc % 2 ^ 48 + 2 ^ 48

/-- The encoding res of a format is x, rounded once to nearest even; an exact zero is +0. -/
def FloatFmt.Nearest (f : FloatFmt) (x : Ext) (res : Nat) : Prop :=
  match x with
  | .nan => res = f.nanEnc
  | .inf a => res = f.infEnc a
  | .num q => (q = 0 → res = 0) ∧ (q ≠ 0 → ∃ fl, f.RoundsTo .rne 0 (q : ℝ) (res, fl))

/-- The sum G of the n products of a K-group of a wide macro (R61). -/
def GroupIs (n : Nat) (p : Nat → Ext) (G : Ext) : Prop :=
  let some' (x : Ext) : Prop := ∃ i < n, p i = x
  (some' .nan ∨ (some' (.inf false) ∧ some' (.inf true)) → G = .nan) ∧
  (∀ a, ¬ some' .nan → some' (.inf a) → ¬ some' (.inf !a) → G = .inf a) ∧
  ((∀ i < n, p i = .num 0) → G = .num 0) ∧
  ∀ (q : Nat → ℚ) (emax : Int), (∀ i < n, p i = .num (q i)) → (∃ i < n, (2 : ℚ) ^ emax ≤ |q i|) →
    (∀ i < n, |q i| < (2 : ℚ) ^ (emax + 1)) →
    let u : ℚ := (2 : ℚ) ^ (emax - 40)
    G = .num (((List.range n).map fun i => (if q i < 0 then -1 else 1) * u * (⌊|q i| / u⌋ : ℚ)).sum)

/-! ### Values -/

/-- A number's nearest neighbour among the signed n-bit integers (R37). -/
def clampS (n : Nat) (v : Int) : Int := max (-(2 ^ (n - 1) : Int)) (min v (2 ^ (n - 1) - 1))

/-- Signed division of n-bit integers (R37): 0 divides to -1, the most negative number by -1 to itself. -/
def quotS (n : Nat) (a b : Int) : Int :=
  if b = 0 then -1 else if a = -(2 ^ (n - 1) : Int) ∧ b = -1 then a else a.tdiv b

/-- The signed remainder (R37): a by 0 is a. -/
def remainS (a b : Int) : Int := if b = 0 then a else a.tmod b

/-- r counts the leading zero bits among the low n bits of a. -/
def LeadingZeros (n : Nat) (a r : Word) : Prop :=
  r.toNat ≤ n ∧ (∀ i < r.toNat, a.getLsbD (n - 1 - i) = false) ∧ (r.toNat < n → a.getLsbD (n - 1 - r.toNat) = true)

/-- r counts the trailing zero bits among the low n bits of a. -/
def TrailingZeros (n : Nat) (a r : Word) : Prop :=
  r.toNat ≤ n ∧ (∀ i < r.toNat, a.getLsbD i = false) ∧ (r.toNat < n → a.getLsbD r.toNat = true)

/-- r counts the one bits among the low n bits of a. -/
def OneBits (n : Nat) (a r : Word) : Prop := r.toNat = (List.range n).countP fun i => a.getLsbD i

/-- r holds the 32-bit number v, sign-extended. -/
def Sext32 (v : Int) (r : Word) : Prop := r.toInt = (BitVec.ofInt 32 v).toInt

/-- The low 32 bits of a register, signed. -/
def lowS (a : Word) : Int := (BitVec.ofNat 32 a.toNat).toInt

/-- The low 32 bits of a register, unsigned. -/
def lowU (a : Word) : Int := a.toNat % 2 ^ 32

end Sys2Proof.Machine
end

