-- ==== Sys2Proof/Certificates/Slice0/Obligations.lean ====
section
/-!
DEFINITION. The statements for the provers, in the order of the spec's chapters. Each docstring names the rules it
formalises, or the log entry where a clause is the model's choice.
-/

open Sys2Proof Sys2Proof.Machine

/-! ### Integer instructions -/

/-- R102: the operations of major OPIMM on x[rs1] and the sign-extended immediate, or a shift amount of 6 bits, latency 1; their
codes, and the codes that are none. -/
def Obligations.OpImmResults : Prop :=
  (∀ imm, GivesI (fun rd rs1 stl => .addi rd rs1 imm stl) fun a r => r = BitVec.ofInt 64 (a.toNat + imm.toInt)) ∧
  (∀ imm, GivesI (fun rd rs1 stl => .andi rd rs1 imm stl) fun a r =>
    ∀ i < 64, r.getLsbD i = (a.getLsbD i && (imm.signExtend 64).getLsbD i)) ∧
  (∀ imm, GivesI (fun rd rs1 stl => .ori rd rs1 imm stl) fun a r =>
    ∀ i < 64, r.getLsbD i = (a.getLsbD i || (imm.signExtend 64).getLsbD i)) ∧
  (∀ imm, GivesI (fun rd rs1 stl => .xori rd rs1 imm stl) fun a r =>
    ∀ i < 64, r.getLsbD i = (a.getLsbD i != (imm.signExtend 64).getLsbD i)) ∧
  (∀ imm, GivesI (fun rd rs1 stl => .slti rd rs1 imm stl) fun a r => r = if a.toInt < imm.toInt then 1 else 0) ∧
  (∀ imm, GivesI (fun rd rs1 stl => .sltiu rd rs1 imm stl) fun a r =>
    r = if a.toNat < (imm.signExtend 64).toNat then 1 else 0) ∧
  (∀ sh, GivesI (fun rd rs1 stl => .slli rd rs1 sh stl) fun a r => r = BitVec.ofNat 64 (a.toNat * 2 ^ sh.toNat)) ∧
  (∀ sh, GivesI (fun rd rs1 stl => .srli rd rs1 sh stl) fun a r => r.toNat = a.toNat / 2 ^ sh.toNat) ∧
  (∀ sh, GivesI (fun rd rs1 stl => .srai rd rs1 sh stl) fun a r => r.toInt = a.toInt / 2 ^ sh.toNat) ∧
  (∀ sh, GivesI (fun rd rs1 stl => .rori rd rs1 sh stl) fun a r =>
    ∀ i < 64, r.getLsbD i = a.getLsbD ((i + sh.toNat) % 64)) ∧
  GivesI .clz (LeadingZeros 64) ∧ GivesI .ctz (TrailingZeros 64) ∧ GivesI .popc (OneBits 64) ∧
  CodesI 0x02 0 .addi ∧ CodesI 0x02 1 .andi ∧ CodesI 0x02 2 .ori ∧ CodesI 0x02 3 .xori ∧ CodesI 0x02 4 .slti ∧
  CodesI 0x02 5 .sltiu ∧
  (∀ sh : BitVec 6,
    CodesU 0x02 6 (0b000000#6 ++ sh) (fun rd rs1 stl => .slli rd rs1 sh stl) ∧
    CodesU 0x02 6 (0b000001#6 ++ sh) (fun rd rs1 stl => .srli rd rs1 sh stl) ∧
    CodesU 0x02 6 (0b000010#6 ++ sh) (fun rd rs1 stl => .srai rd rs1 sh stl) ∧
    CodesU 0x02 6 (0b000011#6 ++ sh) (fun rd rs1 stl => .rori rd rs1 sh stl)) ∧
  CodesU 0x02 7 0x000 .clz ∧ CodesU 0x02 7 0x001 .ctz ∧ CodesU 0x02 7 0x002 .popc ∧
  ∀ imm rs1 rd stl,
    (0x0FF < imm → decode (wordI imm rs1 6 rd 0x02 stl) = none) ∧ (0x002 < imm → decode (wordI imm rs1 7 rd 0x02 stl) = none)

/-- R103, R37: the operations of major OP on x[rs1] and x[rs2], with latency 1, multiplication 3, division variable; their codes,
and the codes that are none. -/
def Obligations.OpResults : Prop :=
  GivesR 1 .add (fun a b r => r = BitVec.ofNat 64 (a.toNat + b.toNat)) ∧
  GivesR 1 .sub (fun a b r => r = BitVec.ofInt 64 ((a.toNat : Int) - b.toNat)) ∧
  GivesR 1 .and (fun a b r => ∀ i < 64, r.getLsbD i = (a.getLsbD i && b.getLsbD i)) ∧
  GivesR 1 .or (fun a b r => ∀ i < 64, r.getLsbD i = (a.getLsbD i || b.getLsbD i)) ∧
  GivesR 1 .xor (fun a b r => ∀ i < 64, r.getLsbD i = (a.getLsbD i != b.getLsbD i)) ∧
  GivesR 1 .slt (fun a b r => r = if a.toInt < b.toInt then 1 else 0) ∧
  GivesR 1 .sltu (fun a b r => r = if a.toNat < b.toNat then 1 else 0) ∧
  GivesR 1 .sll (fun a b r => r = BitVec.ofNat 64 (a.toNat * 2 ^ (b.toNat % 64))) ∧
  GivesR 1 .srl (fun a b r => r.toNat = a.toNat / 2 ^ (b.toNat % 64)) ∧
  GivesR 1 .sra (fun a b r => r.toInt = a.toInt / 2 ^ (b.toNat % 64)) ∧
  GivesR 1 .ror (fun a b r => ∀ i < 64, r.getLsbD i = a.getLsbD ((i + b.toNat) % 64)) ∧
  GivesR 1 .min (fun a b r => r.toInt = min a.toInt b.toInt) ∧
  GivesR 1 .max (fun a b r => r.toInt = max a.toInt b.toInt) ∧
  GivesR 1 .minu (fun a b r => r.toNat = min a.toNat b.toNat) ∧
  GivesR 1 .maxu (fun a b r => r.toNat = max a.toNat b.toNat) ∧
  GivesR 1 .addS (fun a b r => r.toInt = clampS 64 (a.toInt + b.toInt)) ∧
  GivesR 1 .subS (fun a b r => r.toInt = clampS 64 (a.toInt - b.toInt)) ∧
  GivesR 1 .adduS (fun a b r => r.toNat = min (a.toNat + b.toNat) (2 ^ 64 - 1)) ∧
  GivesR 1 .subuS (fun a b r => (r.toNat : Int) = max ((a.toNat : Int) - b.toNat) 0) ∧
  GivesR 3 .mul (fun a b r => r = BitVec.ofNat 64 (a.toNat * b.toNat)) ∧
  GivesR 3 .mulh (fun a b r => r.toInt = a.toInt * b.toInt / 2 ^ 64) ∧
  GivesR 3 .mulhu (fun a b r => r.toNat = a.toNat * b.toNat / 2 ^ 64) ∧
  GivesR 3 .mulhsu (fun a b r => r.toInt = a.toInt * b.toNat / 2 ^ 64) ∧
  GivesVar .div (fun a b r => r.toInt = quotS 64 a.toInt b.toInt) ∧
  GivesVar .divu (fun a b r => r.toNat = if b.toNat = 0 then 2 ^ 64 - 1 else a.toNat / b.toNat) ∧
  GivesVar .rem (fun a b r => r.toInt = remainS a.toInt b.toInt) ∧
  GivesVar .remu (fun a b r => r.toNat = if b.toNat = 0 then a.toNat else a.toNat % b.toNat) ∧
  CodesR 0x03 0 0 .add ∧ CodesR 0x03 0 1 .sub ∧ CodesR 0x03 0 2 .and ∧ CodesR 0x03 0 3 .or ∧ CodesR 0x03 0 4 .xor ∧
  CodesR 0x03 0 5 .slt ∧ CodesR 0x03 0 6 .sltu ∧ CodesR 0x03 1 0 .sll ∧ CodesR 0x03 1 1 .srl ∧ CodesR 0x03 1 2 .sra ∧
  CodesR 0x03 1 3 .ror ∧ CodesR 0x03 2 0 .min ∧ CodesR 0x03 2 1 .max ∧ CodesR 0x03 2 2 .minu ∧ CodesR 0x03 2 3 .maxu ∧
  CodesR 0x03 3 0 .addS ∧ CodesR 0x03 3 1 .subS ∧ CodesR 0x03 3 2 .adduS ∧ CodesR 0x03 3 3 .subuS ∧ CodesR 0x03 4 0 .mul ∧
  CodesR 0x03 4 1 .mulh ∧ CodesR 0x03 4 2 .mulhu ∧ CodesR 0x03 4 3 .mulhsu ∧ CodesR 0x03 5 0 .div ∧ CodesR 0x03 5 1 .divu ∧
  CodesR 0x03 5 2 .rem ∧ CodesR 0x03 5 3 .remu ∧
  ∀ f7 rs2 rs1 f3 rd stl, 5 < f7 ∨ (0 < f7 ∧ 3 < f3) ∨ f3 = 7 → decode (wordR f7 rs2 rs1 f3 rd 0x03 stl) = none

/-- R104, R37: the operations on the low 32 bits, every result sign-extended; their codes, and the codes that are none. -/
def Obligations.WordOpResults : Prop :=
  (∀ imm, GivesI (fun rd rs1 stl => .addiw rd rs1 imm stl) fun a r => Sext32 (lowU a + imm.toInt) r) ∧
  (∀ sh, GivesI (fun rd rs1 stl => .slliw rd rs1 sh stl) fun a r => Sext32 (lowU a * 2 ^ sh.toNat) r) ∧
  (∀ sh, GivesI (fun rd rs1 stl => .srliw rd rs1 sh stl) fun a r => Sext32 (lowU a / 2 ^ sh.toNat) r) ∧
  (∀ sh, GivesI (fun rd rs1 stl => .sraiw rd rs1 sh stl) fun a r => Sext32 (lowS a / 2 ^ sh.toNat) r) ∧
  GivesI .clzw (LeadingZeros 32) ∧ GivesI .ctzw (TrailingZeros 32) ∧ GivesI .popcw (OneBits 32) ∧
  GivesR 1 .addw (fun a b r => Sext32 (lowU a + lowU b) r) ∧
  GivesR 1 .subw (fun a b r => Sext32 (lowU a - lowU b) r) ∧
  GivesR 1 .sllw (fun a b r => Sext32 (lowU a * 2 ^ (b.toNat % 32)) r) ∧
  GivesR 1 .srlw (fun a b r => Sext32 (lowU a / 2 ^ (b.toNat % 32)) r) ∧
  GivesR 1 .sraw (fun a b r => Sext32 (lowS a / 2 ^ (b.toNat % 32)) r) ∧
  GivesR 1 .addwS (fun a b r => Sext32 (clampS 32 (lowS a + lowS b)) r) ∧
  GivesR 1 .subwS (fun a b r => Sext32 (clampS 32 (lowS a - lowS b)) r) ∧
  GivesR 3 .mulw (fun a b r => Sext32 (lowU a * lowU b) r) ∧
  GivesVar .divw (fun a b r => Sext32 (quotS 32 (lowS a) (lowS b)) r) ∧
  GivesVar .divuw (fun a b r => Sext32 (if lowU b = 0 then -1 else lowU a / lowU b) r) ∧
  GivesVar .remw (fun a b r => Sext32 (remainS (lowS a) (lowS b)) r) ∧
  GivesVar .remuw (fun a b r => Sext32 (if lowU b = 0 then lowU a else lowU a % lowU b) r) ∧
  CodesI 0x04 0 .addiw ∧
  (∀ sh : BitVec 5,
    CodesU 0x04 6 (0#7 ++ sh) (fun rd rs1 stl => .slliw rd rs1 sh stl) ∧
    CodesU 0x04 6 (1#7 ++ sh) (fun rd rs1 stl => .srliw rd rs1 sh stl) ∧
    CodesU 0x04 6 (2#7 ++ sh) (fun rd rs1 stl => .sraiw rd rs1 sh stl)) ∧
  CodesU 0x04 7 0x000 .clzw ∧ CodesU 0x04 7 0x001 .ctzw ∧ CodesU 0x04 7 0x002 .popcw ∧
  CodesR 0x05 0 0 .addw ∧ CodesR 0x05 0 1 .subw ∧ CodesR 0x05 1 0 .sllw ∧ CodesR 0x05 1 1 .srlw ∧ CodesR 0x05 1 2 .sraw ∧
  CodesR 0x05 3 0 .addwS ∧ CodesR 0x05 3 1 .subwS ∧ CodesR 0x05 4 0 .mulw ∧ CodesR 0x05 5 0 .divw ∧ CodesR 0x05 5 1 .divuw ∧
  CodesR 0x05 5 2 .remw ∧ CodesR 0x05 5 3 .remuw ∧
  ∀ (f7 : BitVec 7) (imm : BitVec 12) (rs2 rs1 : BitVec 5) (f3 : BitVec 3) (rd : BitVec 5) (stl : Stall),
    ((0 < f3 ∧ f3 < 6) ∨ (f3 = 6 ∧ 0x05F < imm) ∨ (f3 = 7 ∧ 0x002 < imm) → decode (wordI imm rs1 f3 rd 0x04 stl) = none) ∧
    ((f7 = 0 ∧ 1 < f3) ∨ (f7 = 1 ∧ 2 < f3) ∨ f7 = 2 ∨ (f7 = 3 ∧ 1 < f3) ∨ (f7 = 4 ∧ 0 < f3) ∨ (f7 = 5 ∧ 3 < f3) ∨ 5 < f7 →
      decode (wordR f7 rs2 rs1 f3 rd 0x05 stl) = none)

/-! ### Upper immediates, branches and jumps -/

/-- R105 to R108: LUI and AUIPC; the conditional branches; JAL and JALR with the link pc + 4, rs1 read before rd is written; their
codes, and the codes that are none. -/
def Obligations.BranchAndJumpResults : Prop :=
  (∀ (s : State) (rd : Reg) (imm : BitVec 20) (stl : Stall),
    rd = 0 ∨ s.me.hazard { writes := [useX rd], lat := 1 } = none →
      exec (.lui rd imm stl) s = .next (s.done stl fun c => c.fixX rd.toNat 1 (BitVec.ofInt 64 (imm.toInt * 4096))) ∧
      exec (.auipc rd imm stl) s =
        .next (s.done stl fun c => c.fixX rd.toNat 1 (BitVec.ofInt 64 (c.pc.toNat + imm.toInt * 4096)))) ∧
  BranchesOn .beq (fun a b => a = b) ∧ BranchesOn .bne (fun a b => a ≠ b) ∧
  BranchesOn .blt (fun a b => a.toInt < b.toInt) ∧ BranchesOn .bge (fun a b => b.toInt ≤ a.toInt) ∧
  BranchesOn .bltu (fun a b => a.toNat < b.toNat) ∧ BranchesOn .bgeu (fun a b => b.toNat ≤ a.toNat) ∧
  (∀ (s : State) (rd : Reg) (off : BitVec 20) (stl : Stall), s.me.hazard { writes := [useX rd], lat := 1 } = none →
    exec (.jal rd off stl) s = .next (s.setMe
      { (s.me.fixX rd.toNat 1 (s.me.pc + 4)).goto stl (BitVec.ofInt 64 (s.me.pc.toNat + 4 * off.toInt)) with
        branch := some s.me.pc })) ∧
  (∀ (s : State) (rd rs1 : Reg) (imm : BitVec 12) (stl : Stall),
    s.me.hazard { reads := [useX rs1], writes := [useX rd], lat := 1 } = none →
      ∃ t : Word, t.toNat = (((s.me.rx rs1.toNat).toNat + imm.toInt) % 2 ^ 64 / 4 * 4).toNat ∧
        exec (.jalr rd rs1 imm stl) s = .next (s.setMe
          { (s.me.fixX rd.toNat 1 (s.me.pc + 4)).goto stl t with branch := some s.me.pc })) ∧
  (∀ (imm : BitVec 20) (rd : Reg) (stl : Stall),
    decode (imm ++ rd ++ 0x06#5 ++ stl) = some (.lui rd imm stl) ∧ decode (imm ++ rd ++ 0x07#5 ++ stl) = some (.auipc rd imm stl) ∧
    decode (imm ++ rd ++ 0x09#5 ++ stl) = some (.jal rd imm stl)) ∧
  CodesI 0x0A 0 .jalr ∧
  (∀ imm rs1 f3 rd stl, f3 ≠ 0 → decode (wordI imm rs1 f3 rd 0x0A stl) = none) ∧
  ∀ (hi : BitVec 7) (lo rs1 rs2 : BitVec 5) (stl : Stall),
    let word (f3 : BitVec 3) := wordR hi rs2 rs1 f3 lo 0x08 stl
    decode (word 0) = some (.beq rs1 rs2 (hi ++ lo) stl) ∧ decode (word 1) = some (.bne rs1 rs2 (hi ++ lo) stl) ∧
    decode (word 2) = some (.blt rs1 rs2 (hi ++ lo) stl) ∧ decode (word 3) = some (.bge rs1 rs2 (hi ++ lo) stl) ∧
    decode (word 4) = some (.bltu rs1 rs2 (hi ++ lo) stl) ∧ decode (word 5) = some (.bgeu rs1 rs2 (hi ++ lo) stl) ∧
    decode (word 6) = none ∧ decode (word 7) = none

/-! ### Registers and their latencies -/

/-- R84, R79: what a fixed-latency write of x[n], n ≠ 0, and the advance after it do to a context: x[n] takes the value from
the time pos + latency on, unless a write that lands later overwrites it; every other register of the three files reads what
the earlier writes make of it; x0 and m0 are constant.
R85, R79: a variable-latency write of x[n] takes effect after every earlier fixed-latency write of x[n] and at once. -/
def Obligations.RegisterWrites : Prop :=
  (∀ (c : Ctx) (n lat : Nat) (v : Word) (stl : Stall), n ≠ 0 →
     let d := (c.fixX n lat v).next stl
     d.pos = c.pos + stl.toNat + 1 ∧ d.pc = c.pc + 4 ∧ d.stall = stl.toNat ∧ d.run = .ready ∧
     c.SameSpecial d ∧ c.SameRegsBut d n ∧ d.rx 0 = 0 ∧ d.rm 0 = 0xFFFF ∧
     (∀ t, d.pos ≤ t → c.pos + lat ≤ t → ¬ c.PendsBetween .x n (c.pos + lat) t → (d.retire t).rx n = v) ∧
     (∀ t, d.pos ≤ t → t < c.pos + lat ∨ c.PendsBetween .x n (c.pos + lat) t → (d.retire t).rx n = (c.retire t).rx n) ∧
     ¬ (∃ p ∈ d.pend, p.eff ≤ d.pos)) ∧
  (∀ (c : Ctx) (n : Nat) (v : Word) (stl : Stall),
     let d := (c.varX n v).next stl
     d.pos = c.pos + stl.toNat + 1 ∧ d.pc = c.pc + 4 ∧ d.stall = stl.toNat ∧
     c.SameSpecial d ∧ c.SameRegsBut d n ∧ d.rx n = (if n = 0 then 0 else v) ∧
     ∀ t, d.pos ≤ t → (d.retire t).rx n = (if n = 0 then 0 else v))

/-! ### What the scalar groups leave alone -/

/-- R79, R84, R102 to R108: an instruction of majors OPIMM, OP, OPIMM32, OP32, LUI, AUIPC, JAL or JALR either takes the
STALL trap or changes only its own context, there only rd among the registers, no flag and no special register.
R106: a conditional branch writes no register, no flag and no special register. -/
def Obligations.ScalarFrames : Prop :=
  (∀ (i : Instr) (rd : Reg) (s t : State), resultReg i = some rd → exec i s = .next t →
     (∃ w, s.me.stlchk = true ∧ t = s.trap 5 w) ∨
     (s.OnlyMe t ∧ s.SameMem t ∧ s.SamePads t ∧ s.SameCtxsBut t s.focus s.active ∧
       s.me.SameSpecial t.me ∧ s.me.SameRegsBut t.me rd.toNat)) ∧
  (∀ (i : Instr) (s t : State), isBranch i = true → exec i s = .next t →
     (∃ w, s.me.stlchk = true ∧ t = s.trap 5 w) ∨
     (s.OnlyMe t ∧ s.SameMem t ∧ s.SamePads t ∧ s.SameCtxsBut t s.focus s.active ∧
       s.me.SameSpecial t.me ∧ s.me.SameRegsBut t.me 0))

/-! ### The checking scoreboard and traps -/

/-- R88: for every use of registers, with Chk = 1 the scoreboard finds the least register read of which a pending write takes
effect after the instruction's position; with none, and a fixed latency, the least register written of which a pending write
takes effect after the instruction's own would, as 128 more; else, and with Chk = 0, nothing. An instruction of major OP, of
latency 1, 3 or variable, whose rd is not 0 then takes the STALL trap with that TVAL, without effect. -/
def Obligations.StallTrap : Prop :=
  (∀ (c : Ctx) (u : Use),
    (∀ w, c.StallsOn u w → c.hazard u = some (BitVec.ofNat 64 w)) ∧ ((∀ w, ¬ c.StallsOn u w) → c.hazard u = none)) ∧
  ∀ (lat : Nat) (i : Reg → Reg → Reg → Stall → Instr),
    (lat, i) ∈ ([(1, .add), (1, .sub), (1, .and), (1, .or), (1, .xor), (1, .slt), (1, .sltu), (1, .sll), (1, .srl), (1, .sra),
      (1, .ror), (1, .min), (1, .max), (1, .minu), (1, .maxu), (1, .addS), (1, .subS), (1, .adduS), (1, .subuS), (3, .mul),
      (3, .mulh), (3, .mulhu), (3, .mulhsu), (0, .div), (0, .divu), (0, .rem), (0, .remu)] :
        List (Nat × (Reg → Reg → Reg → Stall → Instr))) →
    ∀ (s : State) (rd rs1 rs2 : Reg) (stl : Stall) (w : Nat), rd ≠ 0 →
      s.me.StallsOn { reads := [useX rs1, useX rs2], writes := [useX rd], lat := lat } w →
        exec (i rd rs1 rs2 stl) s = .next (s.trap 5 (BitVec.ofNat 64 w))

/-- R327, R331, R333, R86, R135: what a trap of the issuing context does; where the log of R375 has no field for the TVAL that R333 has it
record, the model keeps it beside the entry (log 76).
R335, R86, R135, R82: what the park of the issuing context does, what a wait does, and how a context goes on at a pc.
R330: the buddy of a compute core is its cluster's service core where its entry of TRAPPAIR has Own = 1, else the one the
entry names. -/
def Obligations.TrapEntry : Prop :=
  ((∀ (s : State) (code : Nat) (tval : Word), code < 32 →
      let t := s.trap code tval
      t.me.cause.toNat = code ∧ t.me.epc.toNat = s.me.pc.toNat / 4 * 4 ∧ t.me.tval = tval ∧ t.me.pend = [] ∧
      t.me.reserve = none ∧ t.me.status = s.me.status ∧ t.me.pc = s.me.pc ∧
      (∀ n, t.me.rx n = s.me.flush.rx n ∧ t.me.rv n = s.me.flush.rv n ∧ t.me.rm n = s.me.flush.rm n) ∧
      s.SameMem t ∧ s.SamePads t ∧ s.SameCtxsBut t s.focus s.active ∧
      (isSvc s.focus = false →
        t.me.run = .trapped ∧ t.logs = s.logs ∧
        (t.cluster (s.buddyOf s.focus)).noticesInFlight = (s.cluster (s.buddyOf s.focus)).noticesInFlight ++
          [BitVec.ofNat 64 (code * 2 ^ 48 + s.me.lid.toNat * 2 ^ 32 + hwid16 s.focus s.active)] ∧
        ∀ cl, cl ≠ s.buddyOf s.focus → t.cluster cl = s.cluster cl) ∧
      (isSvc s.focus = true →
        t.me.run = .halted ∧ t.clusters = s.clusters ∧
        ∃ e : LogEntry, t.forward = s.forward ++ [e] ∧ e.w2 = BitVec.ofNat 64 code ∧ e.w3 = t.me.epc ∧ e.tval = tval)) ∧
   (∀ (s : State) (va : Word),
      (let t := s.park va;
        t.me.run = .parked va s.ptc ∧ t.me.pend = [] ∧ t.me.reserve = none ∧ t.me.pc = s.me.pc ∧ t.me.cause = s.me.cause ∧
        t.me.epc = s.me.epc ∧ t.me.tval = s.me.tval ∧ t.me.status = s.me.status ∧
        (∀ n, t.me.rx n = s.me.flush.rx n ∧ t.me.rv n = s.me.flush.rv n ∧ t.me.rm n = s.me.flush.rm n) ∧
        (∀ n st, t.me.streams.find? n = some st → st.fetched = []) ∧
        s.SameMem t ∧ s.SamePads t ∧ s.SameCtxsBut t s.focus s.active ∧ t.clusters = s.clusters ∧ t.logs = s.logs) ∧
      (∀ w, s.wait w = s.setMe { s.me with run := .waiting w }) ∧
      ∀ (stl : Stall) (pc : Word),
        let d := s.me.goto stl pc
        d.pos = s.me.pos + stl.toNat + 1 ∧ d.stall = stl.toNat ∧ d.pc = pc ∧ d.run = .ready ∧ d.branch = none ∧
          s.me.SameSpecial d ∧ s.me.SameRegsBut d 0)) ∧
  (∀ (s : State) (k : Nat), isSvc k = false →
     let e := ((s.cluster (k / 4)).trappair.toNat / 2 ^ (16 * (k % 4))) % 2 ^ 16
     s.buddyOf k = if 2 ^ 15 ≤ e then k / 4 else 64 * (e / 2 ^ 6 % 32) + e % 2 ^ 6)

/-- R122: ECALL takes the ECALL trap and EBREAK the EBREAK trap, TVAL 0. R76: a word that is no instruction takes the
illegal-instruction trap, TVAL the word. R109: a denied fetch takes the access-fault trap, TVAL the branch's pc after a branch
or jump and the fetch address otherwise; a fetch from an absent page parks; one that misses waits, and one that lacks a token does (log
38). That a fetch of a poisoned word is logged and takes the access-fault trap with TVAL the pc is the model's reading (log 18): R370 names
LS and engine reads. -/
def Obligations.TrapsOfInstructions : Prop :=
  (∀ (s : State) (stl : Stall), exec (.ecall stl) s = .next (s.trap 11 0) ∧ exec (.ebreak stl) s = .next (s.trap 12 0)) ∧
  (∀ (s : State) (w : BitVec 32) (r : List Event), s.agenda = .illegalInstruction w :: r → s.me.run = .ready →
    decode w = none ∨ (isSvc s.focus = true ∧ svcLacks w = true) →
      exec .illegalInstruction s = .next (s.pop.trap 1 (w.setWidth 64))) ∧
  ∀ (s : State) (r : List Event), s.agenda = .fetchFault :: r → s.me.run = .ready →
    let u := s.pop.looked .flat s.me.pc
    (s.fetch = .denied → exec .fetchFault s = .next (u.trap 3 (s.me.branch.getD s.me.pc))) ∧
    (s.fetch = .absent → exec .fetchFault s = .next (u.park s.me.pc)) ∧
    (s.fetch = .miss → exec .fetchFault s = .next (s.pop.wait (.tlb .fetch s.me.pc))) ∧
    (∀ n, s.fetch = .line n → exec .fetchFault s =
      .next ((u.want (vdnOf s.focus) n false (.ctx s.focus s.active)).wait (.line (vdnOf s.focus) n false))) ∧
    ∀ pa, s.fetch = .poisoned pa → ∃ v e, exec .fetchFault s = .next (v.trap 3 s.me.pc) ∧ s.SameMem v ∧ v.me = s.me ∧
      v.forward = s.forward ++ [e] ∧ e.w2 = BitVec.ofNat 64 pa

/-! ### Addresses, loads and stores -/

/-- R89, R16, R19, R101, R71, R112: where an address of each mode leads, and which conditions stop it. That a service context
without Sup meets the access fault at its service memory is the model's choice (log 70).
R348, R346, R349: what a FLAT address makes of the entry it hits: NONE and a supervisor entry without privilege are denied; an
entry without the permission is denied, but that a write to a generator window gives GENWRITE; an absent page is reported; a
MEM entry gives its physical address, beyond package memory an access fault (log 69); a REMOTE entry gives its package. A
lookup copies what the cluster TLB holds into the core's own, and changes nothing else. -/
def Obligations.AddressesAndTranslation : Prop :=
  (∀ (s : State) (acc : Access) (a : Word) (n : Nat), 0 < n →
     (∀ mode, a.toNat % n ≠ 0 → s.reach mode acc a n = .trap 2 a) ∧
     s.reach .clust acc a 8 = .trap 2 a ∧
     (a.toNat % n = 0 → 2 ^ 48 ≤ a.toNat → s.reach .flat acc a n = .trap 3 a) ∧
     (a.toNat % n = 0 → isSvc s.focus = false →
       let size := 16384 * s.myCluster.split
       (a.toNat % 2 ^ 17 < size → s.reach .own acc a n = .ok (.pad s.focus (a.toNat % 2 ^ 17))) ∧
       (size ≤ a.toNat % 2 ^ 17 → s.reach .own acc a n = .trap 3 a) ∧
       (a.toNat % 2 ^ 17 < size → s.reach .coresel acc a n =
         .ok (.pad (s.focus / 4 * 4 + a.toNat / 2 ^ 17 % 4) (a.toNat % 2 ^ 17))) ∧
       (size ≤ a.toNat % 2 ^ 17 → s.reach .coresel acc a n = .trap 3 a) ∧
       (n ≠ 8 → 4 * (a.toNat % 2 ^ 19 / 16) + a.toNat % 4 < size → s.reach .clust acc a n =
         .ok (.pad (s.focus / 4 * 4 + a.toNat / 4 % 4) (4 * (a.toNat % 2 ^ 19 / 16) + a.toNat % 4))) ∧
       (n ≠ 8 → size ≤ 4 * (a.toNat % 2 ^ 19 / 16) + a.toNat % 4 → s.reach .clust acc a n = .trap 3 a)) ∧
     (a.toNat % n = 0 → isSvc s.focus = true →
       let off := a.toNat % 2 ^ 17
       (off < 2 ^ 15 → s.reach .own acc a n = if s.me.sup then .ok (.svc off) else .trap 3 a) ∧
       (2 ^ 15 ≤ off → off < 2 ^ 16 → s.reach .own acc a n = .trap 3 a) ∧
       (2 ^ 16 ≤ off → s.reach .own acc a n = .ok (.window off)) ∧
       s.reach .coresel acc a n = .trap 3 a ∧ (n ≠ 8 → s.reach .clust acc a n = .trap 3 a))) ∧
  (∀ (s : State) (k : Nat) (asid : BitVec 13) (sup : Bool) (acc : Access) (a pte : Word), a.toNat < 2 ^ 48 →
     s.tlbHit k asid a.toNat = some pte →
     let x := s.translate k asid sup acc a
     let allowed := match acc with
       | .read => pte.getLsbD 3 = true
       | .write => pte.getLsbD 2 = true
       | .fetch => pte.getLsbD 1 = true
       | .readWrite => pte.getLsbD 3 = true ∧ pte.getLsbD 2 = true
     let kind := pte.toNat / 2 ^ 62
     (kind = 3 → x = .fault) ∧ (pte.getLsbD 0 = true → sup = false → x = .fault) ∧
     (kind = 0 → (pte.getLsbD 0 = false ∨ sup = true) → ¬ allowed → x = .fault) ∧
     (kind = 0 → (pte.getLsbD 0 = false ∨ sup = true) → allowed → pte.getLsbD 4 = true → x = .absent) ∧
     (kind = 0 → (pte.getLsbD 0 = false ∨ sup = true) → allowed → pte.getLsbD 4 = false →
       let pa := pte.toNat / 2 ^ 10 % 2 ^ 42 * 2 ^ 10 +
         a.toNat % (if (s.core k).inRegion a.toNat then 2 ^ 10 else 2 ^ 21)
       x = if pa < 3072 * 10 ^ 9 then .mem pa else .fault) ∧
     (kind = 1 → (pte.getLsbD 0 = false ∨ sup = true) →
       x = if acc = .fetch ∨ (acc = .read ∧ pte.getLsbD 3 = false) then .fault else .gen (pte.toNat / 2 ^ 52 % 8)) ∧
     (kind = 2 → (pte.getLsbD 0 = false ∨ sup = true) →
       (¬ allowed → x = .fault) ∧ (allowed → pte.getLsbD 4 = false → x = .remote (pte.toNat / 2 ^ 55 % 2 ^ 7))) ∧
     (isSvc s.focus = false → k = s.focus → asid = s.me.asid →
       let sub := (s.core k).inRegion a.toNat
       let t := s.looked .flat a
       tlbFind (t.core k).tlb asid (BitVec.ofNat 38 (if sub then a.toNat / 2 ^ 10 else a.toNat / 2 ^ 21 * 2 ^ 11)) sub = some pte ∧
       t.clusters = s.clusters ∧ t.me = s.me ∧ t.mem = s.mem ∧ s.SamePads t ∧ s.SameCtxsBut t s.focus s.active))

/-- R110, R111, R113: the loads, from memory, a scratchpad, a service core's memory, a generator window, a context's window
and another package, each with its extension; before it, stream reads of its locations that have issued are made, before one of another
package all of them (R172; log 6).
R113, R111: a scalar load changes no byte of memory or of a scratchpad and no other context; where it completes, its own
context keeps every register but rd and every special register, and its streams all but the vectors they have fetched ahead. -/
def Obligations.Loads : Prop :=
  (LoadsAs 1 .lb (fun v => BitVec.ofInt 64 (BitVec.ofNat 8 v).toInt) ∧
   LoadsAs 2 .lh (fun v => BitVec.ofInt 64 (BitVec.ofNat 16 v).toInt) ∧
   LoadsAs 4 .lw (fun v => BitVec.ofInt 64 (BitVec.ofNat 32 v).toInt) ∧
   LoadsAs 8 .ld (fun v => BitVec.ofNat 64 v) ∧
   LoadsAs 1 .lbu (fun v => BitVec.ofNat 64 v) ∧
   LoadsAs 2 .lhu (fun v => BitVec.ofNat 64 v) ∧
   LoadsAs 4 .lwu (fun v => BitVec.ofNat 64 v)) ∧
  (∀ (i : Instr) (rd : Reg) (s t : State), loadReg i = some rd → exec i s = .next t →
     s.SameMem t ∧ s.SamePads t ∧ s.SameCtxsBut t s.focus s.active ∧
     (t.me.pos ≠ s.me.pos → ∃ u : Ctx, s.me.SameButFetched u ∧ u.SameSpecial t.me ∧ s.me.SameRegsBut t.me rd.toNat))

/-- R110, R111, R113, R135: the stores write the low bytes of x[src] at their address and no other byte, and end the other contexts'
reservations on its line; the window of CTXWIN takes what R334 says. Stream reads that have issued precede a store (R172; log 6). A
store to another package sends its message at the instruction, and the acknowledgement comes later: the model's reading of R277 (log
29). -/
def Obligations.StoreResults : Prop :=
  StoresAs 1 .sb ∧ StoresAs 2 .sh ∧ StoresAs 4 .sw ∧ StoresAs 8 .sd

/-- R112: a scalar load or store that traps, parks or waits for its translation does so without another effect: the
misalignment and access-fault traps with TVAL the address, GENWRITE for a store to a generator window. Where the window of CTXWIN denies an
access it is R334's. One that lacks tokens waits (log 38). A load of a poisoned word is logged and traps (R370).
R136, R112: an atomic, LR among them, traps on an address that is no multiple of its width, on one whose access is denied, and on
another package's memory; one that writes traps on a generator window (GENWRITE); an absent page parks it, and it waits for a
translation or for tokens (log 38). A read-modify-write or an LR of a poisoned word is logged and traps, and writes nothing (R370). -/
def Obligations.ScalarAccessStops : Prop :=
  ((∀ (i : Reg → Reg → BitVec 10 → AddrMode → Stall → Instr) (n : Nat),
     (i, n) ∈ ([(.lb, 1), (.lh, 2), (.lw, 4), (.ld, 8), (.lbu, 1), (.lhu, 2), (.lwu, 4)] :
       List ((Reg → Reg → BitVec 10 → AddrMode → Stall → Instr) × Nat)) →
       StopsAs n .read (fun rd rs1 => { reads := [useX rs1], writes := [useX rd] }) i) ∧
   ∀ (i : Reg → Reg → BitVec 10 → AddrMode → Stall → Instr) (n : Nat),
     (i, n) ∈ ([(.sb, 1), (.sh, 2), (.sw, 4), (.sd, 8)] :
       List ((Reg → Reg → BitVec 10 → AddrMode → Stall → Instr) × Nat)) →
       StopsAs n .write (fun src rs1 => { reads := [useX rs1, useX src] }) i) ∧
  (∀ (s : State) (rd rs1 rs2 : Reg) (ord : AmoOrd) (wide : Bool) (scope : AmoScope) (stl : Stall) (i : Instr),
     i ∈ [Instr.amoswap rd rs1 rs2 ord wide scope stl, .amoadd rd rs1 rs2 ord wide scope stl,
       .amoand rd rs1 rs2 ord wide scope stl, .amoor rd rs1 rs2 ord wide scope stl, .amoxor rd rs1 rs2 ord wide scope stl,
       .amomin rd rs1 rs2 ord wide scope stl, .amomax rd rs1 rs2 ord wide scope stl,
       .amominu rd rs1 rs2 ord wide scope stl, .amomaxu rd rs1 rs2 ord wide scope stl,
       .sc rd rs1 rs2 ord wide scope stl] →
     s.me.hazard { reads := [useX rs1, useX rs2], writes := [useX rd] } = none →
     let a := s.me.rx rs1.toNat
     let n := if wide then 8 else 4
     (a.toNat % n ≠ 0 → exec i s = .next (s.trap 2 a)) ∧
     (a.toNat % n = 0 →
       let x := s.translate s.focus s.me.asid s.me.sup .readWrite a
       let u := s.looked .flat a
       (x = .fault → exec i s = .next (u.trap 3 a)) ∧ (∀ p, x = .remote p → exec i s = .next (u.trap 3 a)) ∧
       (∀ d, x = .gen d → exec i s = .next (u.trap 6 a)) ∧ (x = .absent → exec i s = .next (u.park a)) ∧
       (x = .miss → exec i s = .next (s.wait (.tlb .readWrite a)))) ∧
     (∀ h l w, s.reachAt (amoHolder scope s.focus) .flat .readWrite a n = .line h l w →
       exec i s = .next (((s.looked .flat a).want h l w (.ctx s.focus s.active)).wait (.line h l w))) ∧
     (i ≠ .sc rd rs1 rs2 ord wide scope stl → ∀ pa, s.reachAt (amoHolder scope s.focus) .flat .readWrite a n = .ok (.mem pa) →
       poisonedAt s.poison pa n = true → ∃ v e, exec i s = .next (v.trap 3 a) ∧ s.SameMem v ∧ s.SamePads v ∧ v.me = s.me ∧
         v.forward = s.forward ++ [e] ∧ e.w2 = BitVec.ofNat 64 pa) ∧
     (let lr := Instr.lr rd rs1 ord wide scope stl;
       (a.toNat % n ≠ 0 → exec lr s = .next (s.trap 2 a)) ∧
       (a.toNat % n = 0 →
         let x := s.translate s.focus s.me.asid s.me.sup .read a
         let u := s.looked .flat a
         (x = .fault → exec lr s = .next (u.trap 3 a)) ∧ (∀ p, x = .remote p → exec lr s = .next (u.trap 3 a)) ∧
         (x = .absent → exec lr s = .next (u.park a)) ∧ (x = .miss → exec lr s = .next (s.wait (.tlb .read a))) ∧
         (∀ h l w, s.reachAt (amoHolder scope s.focus) .flat .read a n = .line h l w →
           exec lr s = .next ((u.want h l w (.ctx s.focus s.active)).wait (.line h l w))) ∧
         ∀ f, s.readsBefore (ord == .rel || ord == .ar) = .on f →
           (∀ d, x = .gen d → f.genRead f.focus f.me.gens d a.toNat n = none → exec lr s = .next ((f.looked .flat a).trap 3 a)) ∧
           ∀ pa, s.reachAt (amoHolder scope s.focus) .flat .read a n = .ok (.mem pa) → poisonedAt f.poison pa n = true →
             ∃ v e, exec lr s = .next (v.trap 3 a) ∧ f.SameMem v ∧ v.me = f.me ∧ v.forward = f.forward ++ [e] ∧
               e.w2 = BitVec.ofNat 64 pa)))

/-! ### Atomics and fences -/

/-- R131, R132: the atomic read-modify-write operations at both widths; stream reads that have issued precede them, all of them a release
(R133, R172; log 6). -/
def Obligations.AtomicResults : Prop :=
  AmosAs .amoswap (fun _ _ b => b) ∧
  AmosAs .amoadd (fun w a b => (a + b) % 2 ^ w) ∧
  AmosAs .amoand (fun _ a b => a &&& b) ∧ AmosAs .amoor (fun _ a b => a ||| b) ∧ AmosAs .amoxor (fun _ a b => a ^^^ b) ∧
  AmosAs .amomin (fun w a b => if (BitVec.ofNat w a).toInt ≤ (BitVec.ofNat w b).toInt then a else b) ∧
  AmosAs .amomax (fun w a b => if (BitVec.ofNat w a).toInt ≤ (BitVec.ofNat w b).toInt then b else a) ∧
  AmosAs .amominu (fun _ a b => min a b) ∧ AmosAs .amomaxu (fun _ a b => max a b)

/-- R134, R136: LR reads memory and takes the reservation of the line; from a generator window it takes none. SC succeeds only where the
reservation of the line is held; it writes x[rs2] and 0, else only 1; either way the reservation is gone, and those of the other
contexts on the line. Both are performed by the holder of their scope (R133). LR keeps the tokens of its line, so it waits where it
cannot have them (log 13); an access waits where tokens are kept elsewhere (log 38).
R138 to R141, R172, R254: a fence completes where nothing it waits for is under way and it has no deferred fault to report, after the
reads of streams that precede it, which it waits for; else it reports the first of those faults; a FENCE of a scope below domain,
FENCE.SC and FENCE.I wait for nothing else (log 6); an XFENCE with a zero mask is illegal; a fence that waits executes again. An XFENCE
waits whatever its destination classes are (log 25), and then no access of these finds what a write of its source classes replaced (log
6). -/
def Obligations.ReservationsAndFences : Prop :=
  ((∀ (s : State) (rd rs1 : Reg) (ord : AmoOrd) (wide : Bool) (scope : AmoScope) (stl : Stall),
     s.me.hazard { reads := [useX rs1], writes := [useX rd] } = none →
     let n := if wide then 8 else 4
     let a := s.me.rx rs1.toNat
     let h := amoHolder scope s.focus
     (∀ t p, s.reachAt h .flat .read a n = .ok p → p.isRemote = false → s.readsBefore (ord == .rel || ord == .ar) = .stop t →
       exec (.lr rd rs1 ord wide scope stl) s = .next t) ∧
     ∀ u, s.readsBefore (ord == .rel || ord == .ar) = .on u →
     (∀ pa, s.reachAt h .flat .read a n = .ok (.mem pa) → poisonedAt u.poison pa n = false →
       (u.lineBlocked h (pa / 128) true (some (u.focus, u.active)) = false →
         ∃ t : State, exec (.lr rd rs1 ord wide scope stl) s = .next t ∧ u.SameMem t ∧ u.SamePads t ∧
           u.SameCtxsBut t u.focus u.active ∧
           t.me = ({ u.me with reserve := some (pa / 128) }.varX rd.toNat
             (BitVec.ofInt 64 (BitVec.ofNat (8 * n) (u.memRead pa n)).toInt)).next stl) ∧
       (u.lineBlocked h (pa / 128) true (some (u.focus, u.active)) = true →
         exec (.lr rd rs1 ord wide scope stl) s =
           .next (((u.looked .flat a).want h (pa / 128) true (.ctx u.focus u.active)).wait (.line h (pa / 128) true)))) ∧
     (∀ d v, s.reachAt h .flat .read a n = .ok (.gen d) → u.genRead u.focus u.me.gens d a.toNat n = some v →
       ∃ t : State, exec (.lr rd rs1 ord wide scope stl) s = .next t ∧ u.SameMem t ∧
         t.me = ({ u.me with reserve := none }.varX rd.toNat
           (BitVec.ofInt 64 (BitVec.ofNat (8 * n) v).toInt)).next stl)) ∧
   ∀ (s : State) (rd rs1 rs2 : Reg) (ord : AmoOrd) (wide : Bool) (scope : AmoScope) (stl : Stall) (pa : Nat),
     s.me.hazard { reads := [useX rs1, useX rs2], writes := [useX rd] } = none →
     let n := if wide then 8 else 4
     s.reachAt (amoHolder scope s.focus) .flat .readWrite (s.me.rx rs1.toNat) n = .ok (.mem pa) →
     (∀ t, s.readsBefore (ord == .rel || ord == .ar) = .stop t → exec (.sc rd rs1 rs2 ord wide scope stl) s = .next t) ∧
     ∀ u, s.readsBefore (ord == .rel || ord == .ar) = .on u →
     (u.me.reserve = some (pa / 128) →
       ∃ t : State, exec (.sc rd rs1 rs2 ord wide scope stl) s = .next t ∧
         t.memRead pa n = (u.me.rx rs2.toNat).toNat % 256 ^ n ∧ u.SameMemBut t pa n ∧ u.SamePads t ∧
         t.me = ({ u.me with reserve := none }.varX rd.toNat 0).next stl ∧
         ∀ k c, (k ≠ u.focus ∨ c ≠ u.active) → t.ctx k c = (u.ctx k c).loseLine (pa / 128)) ∧
     (u.me.reserve ≠ some (pa / 128) →
       ∃ t : State, exec (.sc rd rs1 rs2 ord wide scope stl) s = .next t ∧ u.SameMem t ∧ u.SamePads t ∧
         t.me = ({ u.me with reserve := none }.varX rd.toNat 1).next stl ∧
         ∀ k c, (k ≠ u.focus ∨ c ≠ u.active) → t.ctx k c = (u.ctx k c).loseLine (pa / 128))) ∧
  (∀ (s : State) (stl : Stall),
     exec (.fenceI stl) s = .next (s.done stl id) ∧
     (∀ dst src scope, dst ≠ 0 → src ≠ 0 →
       ∀ t, s.readsBefore (src.getLsbD 0) = .stop t → exec (.xfence dst src scope stl) s = .next t) ∧
     (∀ f, s.readsBefore false = .on f → exec (.fence .ctx stl) s = .next (f.done stl id)) ∧
     (∀ t, s.finishReads = .stop t → exec (.fenceSc stl) s = .next t ∧ ∀ scope, scope ≠ .ctx → exec (.fence scope stl) s = .next t) ∧
     (∀ f, s.finishReads = .on f →
       exec (.fenceSc stl) s = .next (f.done stl id) ∧
       (∀ scope, scope ≠ .dom → scope ≠ .ctx → exec (.fence scope stl) s = .next (f.done stl id)) ∧
       (f.storesOutstanding f.focus f.active = false →
         ((∀ d ∈ f.me.deferred, d.store = false) → exec (.fence .dom stl) s = .next ((f.ordered 1 0).done stl id)) ∧
         s.ReportsAt f (.fence .dom stl) fun d => d.store = true) ∧
       (f.storesOutstanding f.focus f.active = true → exec (.fence .dom stl) s = .next (f.wait (.fence 1)))) ∧
     (∀ dst src scope f, dst ≠ 0 → src ≠ 0 → s.readsBefore (src.getLsbD 0) = .on f →
       let mine (d : Deferred) : Prop := (d.cls ≠ clsMX ∧ d.cls &&& src ≠ 0) ∨ (src.getLsbD 0 = true ∧ d.store = true)
       (f.classBusy f.focus f.active src = false →
         ((∀ d ∈ f.me.deferred, ¬ mine d) →
           exec (.xfence dst src scope stl) s = .next ((f.ordered src dst).done stl id)) ∧
         s.ReportsAt f (.xfence dst src scope stl) mine) ∧
       (f.classBusy f.focus f.active src = true →
         exec (.xfence dst src scope stl) s = .next (f.wait (.fence src)))) ∧
     ∀ dst src scope, dst = 0 ∨ src = 0 →
       exec (.xfence dst src scope stl) s = .next (s.illegal (.xfence dst src scope stl)))

/-! ### CSRs -/

/-- R116, R81: each of the six CSR forms that R81 admits completes: exec answers the next state in which the CSR is written by the
form's operation (by the S and C forms not when their source field is 0) and the old value stands in rd, unless rd is x0.
R81, R78: any of the six CSR forms that names an unassigned CSR, or writes a read-only one, is illegal; otherwise one that
names a supervisor CSR without supervisor privilege is a privilege violation, whatever its source; TVAL is the instruction's word.
The W forms write always, the others where their source field is not 0. -/
def Obligations.CsrForms : Prop :=
  (∀ (s : State) (rd rs1 : Reg) (csr : BitVec 12) (uimm : BitVec 5) (stl : Stall),
     let a := csr.toNat
     let old := s.csrRead s.focus s.active a
     let b := s.me.rx rs1.toNat
     let u : Word := BitVec.ofNat 64 uimm.toNat
     let dst := if rd = 0 then [] else [useX rd]
     csrAssigned (isSvc s.focus) a = true → (csrSupervisor a = true → s.me.sup = true) →
     (s.me.hazard { reads := [useX rs1], writes := dst } = none →
       (csrReadOnly a = false → exec (.csrrw rd rs1 csr stl) s = .next (s.csrDone a true b rd stl)) ∧
       (csrReadOnly a = false ∨ rs1 = 0 →
         exec (.csrrs rd rs1 csr stl) s = .next (s.csrDone a (rs1 != 0) (old ||| b) rd stl) ∧
         exec (.csrrc rd rs1 csr stl) s = .next (s.csrDone a (rs1 != 0) (old &&& ~~~b) rd stl))) ∧
     (s.me.hazard { writes := dst } = none →
       (csrReadOnly a = false → exec (.csrrwi rd csr uimm stl) s = .next (s.csrDone a true u rd stl)) ∧
       (csrReadOnly a = false ∨ uimm = 0 →
         exec (.csrrsi rd csr uimm stl) s = .next (s.csrDone a (uimm != 0) (old ||| u) rd stl) ∧
         exec (.csrrci rd csr uimm stl) s = .next (s.csrDone a (uimm != 0) (old &&& ~~~u) rd stl)))) ∧
  (∀ (s : State) (rd rs1 : Reg) (csr : BitVec 12) (uimm : BitVec 5) (stl : Stall),
     let a := csr.toNat
     let lacks := csrAssigned (isSvc s.focus) a = false
     let ro := a / 2 ^ 10 % 2 = 1
     let above := a / 2 ^ 11 % 2 = 1 ∧ s.me.sup = false
     let stops (i : Instr) (writes : Prop) : Prop :=
       (lacks ∨ (writes ∧ ro) → exec i s = .next (s.trap 1 ((encode i).setWidth 64))) ∧
       (¬ lacks → ¬ (writes ∧ ro) → above → exec i s = .next (s.trap 4 ((encode i).setWidth 64)))
     stops (.csrrw rd rs1 csr stl) True ∧ stops (.csrrs rd rs1 csr stl) (rs1 ≠ 0) ∧ stops (.csrrc rd rs1 csr stl) (rs1 ≠ 0) ∧
     stops (.csrrwi rd csr uimm stl) True ∧ stops (.csrrsi rd csr uimm stl) (uimm ≠ 0) ∧
     stops (.csrrci rd csr uimm stl) (uimm ≠ 0))

/-- R6, R116 to R120 with the layouts: what a written CSR reads, and that no other CSR changes, but for GENEPOCH, which counts
the writes to GEN words (R299).
R166, R330, R180, R119: STRCTL takes DryZero; an entry of TRAPPAIR that names an unmapped VDN stays; CHTAB keeps its value
where the write is refused; STATUS of a compute context stays. -/
def Obligations.CsrValues : Prop :=
  (∀ (s : State) (k c a : Nat) (v mask : Word), csrRwBits (isSvc k) a = some mask →
     let t := s.csrWrite k c a v
     t.csrRead k c a = v &&& mask ∧
     (∀ b, csrAssigned (isSvc k) b = true → b ≠ a → b ≠ 0x408 → t.csrRead k c b = s.csrRead k c b) ∧
     t.csrRead k c 0x408 = s.csrRead k c 0x408 + (if 0x010 ≤ a ∧ a ≤ 0x02F then 1 else 0) ∧
     s.SameMem t ∧ s.SamePads t ∧
     ∀ n, (t.ctx k c).rx n = (s.ctx k c).rx n ∧ (t.ctx k c).rv n = (s.ctx k c).rv n ∧ (t.ctx k c).rm n = (s.ctx k c).rm n) ∧
  (∀ (s : State) (k c : Nat) (v : Word),
     ((s.csrWrite k c 0x038 v).csrRead k c 0x038 = ((s.csrRead k c 0x038 &&& ~~~0x10000#64) ||| (v &&& 0x10000#64))) ∧
     (∀ j < 4,
       let field (w : Word) := w.toNat / 2 ^ (16 * j) % 2 ^ 16
       let old := field (s.csrRead k c 0x820)
       let new := field ((s.csrWrite k c 0x820 v).csrRead k c 0x820)
       (field v < 2 ^ 15 → s.mapped (field v / 2 ^ 6 % 32) = false → new = old) ∧
       (2 ^ 15 ≤ field v ∨ s.mapped (field v / 2 ^ 6 % 32) = true → new = field v &&& 0x87FF)) ∧
     (∀ ch < 64,
       let old := s.csrRead k c (0x840 + ch)
       let new := (s.csrWrite k c (0x840 + ch) v).csrRead k c (0x840 + ch)
       let table := (s.core k).chtab.put 0 ch (v &&& ~~~3#64)
       let refused := (v.getLsbD 63 = true ∧ v.toNat / 2 ^ 51 % 2 ^ 7 = 0) ∨ 256 < partSum table ∨
         ((v.toNat / 2 ^ 51 % 2 ^ 7 ≠ old.toNat / 2 ^ 51 % 2 ^ 7 ∨ v.getLsbD 63 ≠ old.getLsbD 63) ∧ (s.core k).queue ≠ [])
       (refused → new = old) ∧ (¬ refused → new = v &&& ~~~3#64)) ∧
     (isSvc k = false → (s.csrWrite k c 0x800 v).csrRead k c 0x800 = s.csrRead k c 0x800))

/-- R117, R118: the steps of the table that write a CSR apart from the CSR forms; that they check no privilege is log 20.
R334, R119: an open window reads and writes the x, v and m registers and the CSRs of a compute context frozen by a trap, on its core or
in a saved coach (log 51; of two saved ones the first in the cluster's list, log 81), PRIO at the Eff of that context, and reads its
streams' cursors; the CSRs that contexts share at any time. A write to a read-only CSR or to a cursor is ignored. An access of 4 bytes
is of that half of the word. A window that is not open, or is of an unmapped VDN (log 26), denies every access; so does one of reserved
offsets, of an unassigned CSR, and one whose target is not frozen by a trap, but for the shared CSRs. -/
def Obligations.CsrStepsAndWindow : Prop :=
  (∀ (s : State) (r : List Event) (k c cl n a : Nat) (v : Word),
     (s.agenda = .chtabWrite k n v :: r → s.hasCompute k = true → n < 64 →
       exec .chtabWrite s = .next (s.pop.csrWrite k 0 (0x840 + n) v)) ∧
     (s.agenda = .genWrite k c n v :: r → s.hasCompute k = true → c < 8 → n < 32 →
       exec .genWrite s = .next (s.pop.csrWrite k c (0x010 + n) v)) ∧
     (s.agenda = .stlchkWrite k c v :: r → s.hasCtx k c = true →
       exec .stlchkWrite s = .next (s.pop.csrWrite k c 0x002 v)) ∧
     (s.agenda = .fflagsAccess k c v :: r → s.hasCtx k c = true →
       exec .fflagsAccess s = .next (s.pop.csrWrite k c 0x001 v)) ∧
     (s.agenda = .asidWrite k c v :: r → s.hasCtx k c = true →
       exec .asidWrite s = .next (s.pop.csrWrite k c 0x801 v)) ∧
     (s.agenda = .trappairWrite cl v :: r → s.hasCluster cl = true →
       exec .trappairWrite s = .next (s.pop.csrWrite (8192 + cl) 0 0x820 v)) ∧
     (s.agenda = .ctxwinWrite k c v :: r → s.hasCtx k c = true → isSvc k = true →
       exec .ctxwinWrite s = .next (s.pop.csrWrite k c 0x830 v)) ∧
     (s.agenda = .regnWrite k n v :: r → s.hasCore k = true → n < 4 →
       exec .regnWrite s = .next (s.pop.csrWrite k 0 (0x810 + n) v)) ∧
     (s.agenda = .csrWrite k c a v :: r → s.hasCtx k c = true → csrAssigned (isSvc k) a = true → csrReadOnly a = false →
       exec .csrWrite s = .next (s.pop.csrWrite k c a v))) ∧
  ∀ (s : State) (o : Nat), 0x10000 ≤ o → o < 0x20000 →
    let w := s.me.ctxwin.toNat
    let k := w / 8 % 2 ^ 13
    let c := w % 8
    let cl := clusterOf k
    let slot := slotOf k c
    let denied : Prop := s.windowRead o 8 = none ∧ ∀ v, s.windowWrite o 8 v = none
    let shares (a : Nat) : Prop := a < 4096 ∧ o = 0x18000 + 8 * a ∧ csrAssigned false a = true ∧ csrShared a = true
    (w < 2 ^ 16 → denied) ∧ (s.mapped (vdnOf k) = false → denied) ∧
    (∀ a < 4096, o = 0x18000 + 8 * a → csrAssigned false a = false → denied) ∧ (0x10980 ≤ o → o < 0x18000 → denied) ∧
    ((s.ctx k c).run ≠ .trapped → (s.cluster cl).savedTrapped slot = none → (∀ a, ¬ shares a) → o % 8 = 0 → denied) ∧
    (∀ h < 2, o % 8 = 0 →
      s.windowRead (o + 4 * h) 4 = (s.windowRead o 8).map (fun u => u / 2 ^ (32 * h) % 2 ^ 32) ∧
      ∀ v u, s.windowRead o 8 = some u → s.windowWrite (o + 4 * h) 4 v =
        s.windowWrite o 8 (if h = 0 then u / 2 ^ 32 * 2 ^ 32 + v % 2 ^ 32 else u % 2 ^ 32 + v % 2 ^ 32 * 2 ^ 32)) ∧
    (2 ^ 16 ≤ w → s.mapped (vdnOf k) = true →
      (∀ a, shares a → s.windowRead o 8 = some (s.csrRead k c a).toNat ∧
        ∀ v, s.windowWrite o 8 v = some (s.csrShareSet k a (BitVec.ofNat 64 v))) ∧
      ∀ (y : Ctx) (eff : Nat) (sets : Nat → (Ctx → Ctx) → Prop),
        ((s.ctx k c).run = .trapped ∧ y = s.ctx k c ∧ eff = s.effOf k c ∧
            sets = fun v f => s.windowWrite o 8 v = some (s.updCtx k c f)) ∨
          ((s.ctx k c).run ≠ .trapped ∧ ∃ co, (s.cluster cl).savedTrapped slot = some (co, y) ∧ eff = s.savedEff cl co slot y ∧
            sets = fun v f => ∃ t co', s.windowWrite o 8 v = some t ∧ (t.cluster cl).savedTrapped slot = some (co', f y)) →
        (∀ n < 32, o = 0x10000 + 8 * n → s.windowRead o 8 = some (y.rx n).toNat ∧
          ∀ v, sets v fun x => x.setX n (BitVec.ofNat 64 v)) ∧
        (∀ n < 32, ∀ j < 8, o = 0x10100 + 64 * n + 8 * j →
          s.windowRead o 8 = some ((y.rv n).toNat / 2 ^ (64 * j) % 2 ^ 64) ∧
          ∀ v, ∃ u : VWord, (∀ i < 8, u.toNat / 2 ^ (64 * i) % 2 ^ 64 =
              if i = j then v % 2 ^ 64 else (y.rv n).toNat / 2 ^ (64 * i) % 2 ^ 64) ∧
            ∃ f : Ctx → Ctx, f y = y.setV n u ∧ sets v f) ∧
        (∀ n < 8, o = 0x10900 + 8 * n → s.windowRead o 8 = some (y.rm n).toNat ∧
          ∀ v, sets v fun x => x.setM n (BitVec.ofNat 16 v)) ∧
        (∀ n < 8, o = 0x10940 + 8 * n →
          s.windowRead o 8 = some (((y.streams.find? n).map Stream.cursor).getD 0 % 2 ^ 32) ∧ ∀ v, s.windowWrite o 8 v = some s) ∧
        ∀ a < 4096, o = 0x18000 + 8 * a → csrAssigned false a = true → csrShared a = false →
          s.windowRead o 8 = some (if a = 0x403 then prioWord eff y else s.csrCtx k c y eff a).toNat ∧
          (csrReadOnly a = true → ∀ v, s.windowWrite o 8 v = some s) ∧
          (csrReadOnly a = false → ∀ v, sets v fun x => x.csrSet false a (BitVec.ofNat 64 v)))

/-! ### System functions -/

/-- R123, R332: WFE gives the lowest masked channel with an entry, else all ones when PREQ is set, else waits; on a service
core it takes the oldest notice, unless a lower context waits for one, or waits. The step of a service core's WFE does the
same. -/
def Obligations.WaitForEvent : Prop :=
  (∀ (s : State) (rd rs1 : Reg) (stl : Stall), isSvc s.focus = false →
    s.me.hazard { reads := [useX rs1], writes := [useX rd] } = none →
    let has (ch : Nat) := ch < 64 ∧ (s.me.rx rs1.toNat).getLsbD ch = true ∧ ∃ e ∈ s.myCore.queue, e.channel.toNat = ch
    (∀ ch, has ch → (∀ d < ch, ¬ has d) →
      exec (.wfe rd rs1 stl) s = .next (s.done stl fun x => x.varX rd.toNat (BitVec.ofNat 64 ch))) ∧
    ((∀ ch, ¬ has ch) → s.me.preq = true →
      exec (.wfe rd rs1 stl) s = .next (s.done stl fun x => x.varX rd.toNat 0xFFFFFFFFFFFFFFFF)) ∧
    ((∀ ch, ¬ has ch) → s.me.preq = false →
      exec (.wfe rd rs1 stl) s = .next (s.wait (.event (s.me.rx rs1.toNat))))) ∧
  ∀ (s : State) (rd rs1 : Reg) (stl : Stall), isSvc s.focus = true → s.me.hazard { writes := [useX rd] } = none →
    (∀ n rest, s.myCluster.notices = n :: rest → (∀ b < s.active, (s.ctx s.focus b).run ≠ .waiting .notice) →
      exec (.wfe rd rs1 stl) s =
        .next ((s.updCluster (clusterOf s.focus) fun cl => { cl with notices := rest }).done stl fun x => x.varX rd.toNat n) ∧
      ∀ r, s.agenda = .wfeNotice rd rs1 stl :: r → s.me.run = .ready →
        exec .wfeNotice s = .next
          ((s.pop.updCluster (clusterOf s.focus) fun cl => { cl with notices := rest }).done stl fun x => x.varX rd.toNat n)) ∧
    (s.myCluster.notices = [] ∨ (∃ b < s.active, (s.ctx s.focus b).run = .waiting .notice) → exec (.wfe rd rs1 stl) s = .next (s.wait .notice) ∧
      ∀ r, s.agenda = .wfeNotice rd rs1 stl :: r → s.me.run = .ready → exec .wfeNotice s = .next (s.pop.wait .notice))

/-- R125, R126, R129, R341, R347, R350: PRIO sets the class, limited by Cap; TLBW makes its entry the one that every TLB of the
cluster finds, or none for a core TLB it does not fill, and answers the misses it covers, and but for the Ready of saved coaches'
areas (R341) no memory changes; TLBINV removes what its extent names, and waits while an access that used such an entry is under
way; without Sup and Tlbm they are privilege violations, and illegal when malformed. Which words are malformed is logs 15 and 66; which
entry a full TLB displaces is free (log 4), and which TLBs there are is log 23. -/
def Obligations.PrioAndTlb : Prop :=
  ∀ (s : State) (rs1 rs2 : Reg) (stl : Stall),
    (s.me.hazard { reads := [useX rs1] } = none →
      ∃ t : State, exec (.prio rs1 stl) s = .next t ∧ s.OnlyMe t ∧
        t.me.cls.toNat = min (s.me.rx rs1.toNat).toNat s.me.cap.toNat ∧ t.me.pc = s.me.pc + 4) ∧
    (s.me.status.getLsbD 0 = false ∨ s.me.status.getLsbD 1 = false →
      exec (.tlbw rs1 rs2 stl) s = .next (s.trap 4 ((encode (.tlbw rs1 rs2 stl)).setWidth 64)) ∧
      exec (.tlbinv rs1 rs2 stl) s = .next (s.trap 4 ((encode (.tlbinv rs1 rs2 stl)).setWidth 64))) ∧
    (s.me.status.getLsbD 0 = true → s.me.status.getLsbD 1 = true →
      s.me.hazard { reads := [useX rs1, useX rs2] } = none →
      let tag := s.me.rx rs1.toNat
      let pte := s.me.rx rs2.toNat
      let sub := tag.getLsbD 9
      let cl := clusterOf s.focus
      let good := (tag.toNat / 2 ^ 48 % 8 = 0 ∧ tag.toNat % 64 = 0 ∧ (sub = true ∨ tag.toNat / 2 ^ 10 % 2 ^ 11 = 0)) ∧
        pteOk s.pkg sub pte = true
      let asid := BitVec.ofNat 13 (tag.toNat / 2 ^ 51)
      let vpn := BitVec.ofNat 38 (tag.toNat / 2 ^ 10)
      (good → ∃ t : State, exec (.tlbw rs1 rs2 stl) s = .next t ∧
        tlbFind (t.cluster cl).tlb asid vpn sub = some pte ∧
        (∀ j < 4, tlbFind (t.core (4 * cl + j)).tlb asid vpn sub =
          if tag.getLsbD 8 = true ∧ tag.toNat / 64 % 4 = j then some pte else none) ∧
        (t.cluster cl).misses = (s.cluster cl).misses.filter (fun m => !(tlbEntry tag pte).covers m) ∧
        (∀ b, (∀ co ∈ (s.cluster cl).coaches, co.state = .saved → b < co.saved.base + 8 ∨ co.saved.base + 16 ≤ b) →
          cell t.mem b = cell s.mem b) ∧
        s.SamePads t ∧ ((∀ va n, s.me.run ≠ .parked va n) → t.me = s.me.next stl)) ∧
      (¬ good → exec (.tlbw rs1 rs2 stl) s = .next (s.trap 1 ((encode (.tlbw rs1 rs2 stl)).setWidth 64))) ∧
      (2 < pte.toNat → exec (.tlbinv rs1 rs2 stl) s = .next (s.trap 1 ((encode (.tlbinv rs1 rs2 stl)).setWidth 64))) ∧
      (pte.toNat ≤ 2 →
        let stays (e : TlbEntry) : Prop := match pte.toNat with
          | 0 => ¬ (e.asid = asid ∧ e.sub = sub ∧
              if sub then e.vpn = vpn else e.vpn.toNat / 2 ^ 11 = vpn.toNat / 2 ^ 11)
          | 1 => e.asid ≠ asid
          | _ => False
        ∃ t : State, exec (.tlbinv rs1 rs2 stl) s = .next t ∧
          (∀ e, e ∈ (t.cluster cl).tlb ↔ e ∈ (s.cluster cl).tlb ∧ stays e) ∧
          (∀ j < 4, ∀ e, e ∈ (t.core (4 * cl + j)).tlb ↔ e ∈ (s.core (4 * cl + j)).tlb ∧ stays e) ∧
          s.SameMem t ∧ s.SamePads t ∧
          t.me = if s.usesRemoved cl tag pte.toNat then { s.me with run := .waiting (.inval tag pte.toNat) } else s.me.next stl))

/-- R127, R128, R336, R203, R209: RESUME and KILL of a compute context frozen by a trap, by the service core that TRAPPAIR names,
with Sup and Pair, complete with x[rd] = 0: RESUME lets it go on at its EPC; KILL ends its task as EXIT does: its context is free,
its slot has left its barriers, no request or matrix operation of it stays its own, a card task is counted on its card, and without
a card no memory changes. A target in a saved coach goes on, or ends, when it is readmitted, and one whose coach's save has begun
(R339, R343) goes on then. A
target not frozen by a trap, or of an unmapped VDN (log 55), or frozen by FREEZE, gives 1 without effect; a condition of R128 that
fails is a privilege violation. -/
def Obligations.ResumeAndKill : Prop :=
  ∀ (s : State) (rd rs1 : Reg) (stl : Stall),
    let w := (s.me.rx rs1.toNat).toNat
    let k := w / 8 % 2 ^ 13
    let c := w % 8
    let cl := clusterOf k
    let may := isSvc s.focus = true ∧ s.me.status.getLsbD 0 = true ∧ s.me.status.getLsbD 2 = true
    (¬ may ∨ (s.mapped (vdnOf k) = true ∧ s.buddyOf k ≠ clusterOf s.focus) →
      exec (.resume rd rs1 stl) s = .next (s.trap 4 ((encode (.resume rd rs1 stl)).setWidth 64)) ∧
      exec (.kill rd rs1 stl) s = .next (s.trap 4 ((encode (.kill rd rs1 stl)).setWidth 64))) ∧
    (may → s.me.hazard { reads := [useX rs1], writes := [useX rd] } = none →
      (s.mapped (vdnOf k) = false ∨ (s.buddyOf k = clusterOf s.focus ∧
          (s.trappedAt k c = none ∨ ((s.ctx k c).run = .trapped ∧ s.isFrozen k (s.ctx k c) = true))) →
        exec (.resume rd rs1 stl) s = .next (s.done stl fun x => x.varX rd.toNat 1) ∧
        exec (.kill rd rs1 stl) s = .next (s.done stl fun x => x.varX rd.toNat 1)) ∧
      (s.mapped (vdnOf k) = true → s.buddyOf k = clusterOf s.focus → (s.ctx k c).run = .trapped →
        s.isFrozen k (s.ctx k c) = false →
        (∃ t : State, exec (.resume rd rs1 stl) s = .next t ∧
          (t.ctx k c).run = (if s.beingSaved k (s.ctx k c) then .stopped else .ready) ∧ (t.ctx k c).pc = (s.ctx k c).epc ∧
          (∀ n, (t.ctx k c).rx n = (s.ctx k c).rx n) ∧ t.me = (s.me.varX rd.toNat 0).next stl ∧
          s.SameMem t ∧ s.SamePads t) ∧
        ∃ t : State, exec (.kill rd rs1 stl) s = .next t ∧
          t.me = ({ s.me with reserve := t.me.reserve }.varX rd.toNat 0).next stl ∧
          t.ctx k c = { storeIds := (s.ctx k c).storeIds } ∧ s.BarsLeft t k c ∧
          (∀ r ∈ (t.core k).reqs, r.ctx = c → r.owned = false) ∧ (∀ o ∈ (t.core k).mxq, o.ctx = c → o.owned = false) ∧
          ((s.ctx k c).card = none → s.SameMem t ∧ s.SamePads t ∧ t.me.reserve = s.me.reserve) ∧
          ∀ p j, (s.ctx k c).card = some p → (s.cluster p.1).cards.find? p.2 = some j →
            (t.cluster p.1).cards.find? p.2 =
              if j.ended + 1 = j.w2.toNat / 2 ^ 32 then none else some { j with ended := j.ended + 1 }) ∧
      (s.mapped (vdnOf k) = true → s.buddyOf k = clusterOf s.focus → (s.ctx k c).run ≠ .trapped →
        ∀ (co : Coach) (y : Ctx), (s.cluster cl).savedTrapped (slotOf k c) = some (co, y) → s.isFrozen k y = false →
          (∃ (t : State) (co' : Coach) (z : Ctx), exec (.resume rd rs1 stl) s = .next t ∧
            co' ∈ (t.cluster cl).coaches ∧ co'.lid = co.lid ∧ co'.saved.ctxs.find? (slotOf k c) = some z ∧ z.run = .ready ∧
            z.pc = y.epc ∧ (∀ n, z.rx n = y.rx n) ∧ t.me = (s.me.varX rd.toNat 0).next stl) ∧
          ∃ (t : State) (co' : Coach), exec (.kill rd rs1 stl) s = .next t ∧
            co' ∈ (t.cluster cl).coaches ∧ co'.lid = co.lid ∧
            co'.saved.ctxs.find? (slotOf k c) = some { y with run := .killed } ∧ t.me = (s.me.varX rd.toNat 0).next stl))

/-! ### Vector instructions -/

/-- R150: the integer instructions of major VINT that work element by element on vs1 and vs2 (and vd, for VMACC), wrapping or
saturating at the element's width, shift amounts modulo the width, no flag.
R151, R155, R144: the compares write the mask bits of active elements, at 32 and 64 bits; a floating-point compare is
false on a NaN, but for VFCMPUN, and sets NV as R155 says. An inactive element's bit is kept as it stands at the issue (log 12). -/
def Obligations.VectorIntegerResults : Prop :=
  (VIntGives .vadd (fun _ a b => a + b) ∧ VIntGives .vsub (fun _ a b => (a : Int) - b) ∧
   VIntGives .vmul (fun _ a b => a * b) ∧
   VIntGives .vmulh (fun w a b => sgn w a * sgn w b / 2 ^ w) ∧ VIntGives .vmulhu (fun w a b => (a * b / 2 ^ w : Nat)) ∧
   VIntGives .vmin (fun w a b => min (sgn w a) (sgn w b)) ∧ VIntGives .vmax (fun w a b => max (sgn w a) (sgn w b)) ∧
   VIntGives .vminu (fun _ a b => (min a b : Nat)) ∧ VIntGives .vmaxu (fun _ a b => (max a b : Nat)) ∧
   VIntGives .vand (fun _ a b => (a &&& b : Nat)) ∧ VIntGives .vor (fun _ a b => (a ||| b : Nat)) ∧
   VIntGives .vxor (fun _ a b => (a ^^^ b : Nat)) ∧
   VIntGives .vsll (fun w a b => a * 2 ^ (b % w)) ∧ VIntGives .vsrl (fun w a b => (a / 2 ^ (b % w) : Nat)) ∧
   VIntGives .vsra (fun w a b => sgn w a / 2 ^ (b % w)) ∧
   VIntGives .vaddS (fun w a b => clampS w (sgn w a + sgn w b)) ∧
   VIntGives .vsubS (fun w a b => clampS w (sgn w a - sgn w b)) ∧
   VIntGives .vadduS (fun w a b => (min (a + b) (2 ^ w - 1) : Nat)) ∧
   VIntGives .vsubuS (fun _ a b => max ((a : Int) - b) 0) ∧
   ∀ (s : State) (vd vs1 vs2 : Reg) (w : IntW) (m : MaskReg) (stl : Stall) (rv : Nat → VWord),
     VMapDone s (.vmacc vd vs1 vs2 w m stl) 2 (wBits w) [useV vs1, useV vs2, useV vd] [vs1.toNat, vs2.toNat, vd.toNat] vd m
       stl rv fun e =>
         (elem (wBits w) (rv vd.toNat) e + elem (wBits w) (rv vs1.toNat) e * elem (wBits w) (rv vs2.toNat) e, 0)) ∧
  (VCmpGives .vcmpeq (fun _ a b => a == b) ∧ VCmpGives .vcmpne (fun _ a b => a != b) ∧
   VCmpGives .vcmplt (fun w a b => decide (sgn w a < sgn w b)) ∧ VCmpGives .vcmple (fun w a b => decide (sgn w a ≤ sgn w b)) ∧
   VCmpGives .vcmpltu (fun _ a b => decide (a < b)) ∧ VCmpGives .vcmpleu (fun _ a b => decide (a ≤ b)) ∧
   VFCmpGives .vfcmpeq (fun x y => decide (x.cmp y = 0)) false false ∧
   VFCmpGives .vfcmplt (fun x y => decide (x.cmp y < 0)) false true ∧
   VFCmpGives .vfcmple (fun x y => decide (x.cmp y ≤ 0)) false true ∧
   VFCmpGives .vfcmpun (fun _ _ => false) true false)

/-- R152, R162, R164: VSEL writes every element by the mask, VBCAST the low bits of x[rs1]; VPERMX takes element vs2[e] modulo
the count, VSLIDE element e + x[rs2] or 0; VEXTR and VINS move one element.
R143, R84, R85: writing an unbound vector register merges the enabled bits over its value: at pos + latency, or at once
and after every earlier write when the latency varies. The kept bits are read as log 12 says. -/
def Obligations.VectorMoves : Prop :=
  (∀ (s : State) (vd vs1 vs2 rs1 rs2 rd : Reg) (w : IntW) (m : MaskReg) (stl : Stall) (rv : Nat → VWord),
     let n := 512 / wBits w
     let a (e : Nat) := elem (wBits w) (rv vs1.toNat) e
     let b (e : Nat) := elem (wBits w) (rv vs2.toNat) e
     (s.VReady { reads := [useV vs1, useV vs2] ++ (if m = 0 then [] else [useM m]) ++ maskReads 0 vd false,
                 writes := [useV vd], lat := 2 } [vs1.toNat, vs2.toNat] rv (some vd) →
       ∃ r, (∀ e < n, elem (wBits w) r e = if laneOn (wBits w) (s.me.rm m.toNat) e then a e else b e) ∧
         ∃ en, (∀ e < n, elem (wBits w) en e = 2 ^ wBits w - 1) ∧
           exec (.vsel vd vs1 vs2 w m stl) s =
             .next (((s.setMe (s.consumed [vs1.toNat, vs2.toNat] rv)).putVec vd.toNat 2 r en).done stl id)) ∧
     VMapDone s (.vbcast vd rs1 w m stl) 2 (wBits w) [useX rs1] [] vd m stl rv (fun _ => ((s.me.rx rs1.toNat).toNat, 0)) ∧
     VMapDone s (.vpermx vd vs1 vs2 w m stl) 3 (wBits w) [useV vs1, useV vs2] [vs1.toNat, vs2.toNat] vd m stl rv
       (fun e => (a (b e % n), 0)) ∧
     VMapDone s (.vslide vd vs1 rs2 w m stl) 3 (wBits w) [useV vs1, useX rs2] [vs1.toNat] vd m stl rv
       (fun e =>
         let j := (e : Int) + (s.me.rx rs2.toNat).toInt
         (if 0 ≤ j ∧ j < n then a j.toNat else 0, 0)) ∧
     (s.VReady { reads := [useV vs1, useX rs2], writes := [useX rd], lat := 3 } [vs1.toNat] rv none →
       exec (.vextr rd vs1 rs2 w stl) s = .next ((s.setMe (s.consumed [vs1.toNat] rv)).done stl fun c =>
         c.fixX rd.toNat 3 (BitVec.ofInt 64 (sgn (wBits w) (a ((s.me.rx rs2.toNat).toNat % n)))))) ∧
     (s.VReady { reads := [useX rs1, useX rs2, useV vd], writes := [useV vd], lat := 3 } [] rv (some vd) →
       ∃ r en, (∀ e < n, elem (wBits w) en e = if e = (s.me.rx rs2.toNat).toNat % n then 2 ^ wBits w - 1 else 0) ∧
         elem (wBits w) r ((s.me.rx rs2.toNat).toNat % n) = (s.me.rx rs1.toNat).toNat % 2 ^ wBits w ∧
         exec (.vins vd rs1 rs2 w stl) s = .next ((s.putVec vd.toNat 3 r en).done stl id))) ∧
  (∀ (s : State) (vd lat : Nat) (w en : VWord), s.me.stream vd = none →
     let t := s.putVec vd lat w en
     s.OnlyMe t ∧
     (lat ≠ 0 → ∃ r, t.me = { s.me with pend := s.me.pend ++ [{ file := .v, reg := vd, eff := s.me.pos + lat, val := r }] } ∧
       ∀ b < 512, r.getLsbD b = if en.getLsbD b then w.getLsbD b else (s.me.rv vd).getLsbD b) ∧
     (lat = 0 → (∀ b < 512, (t.me.rv vd).getLsbD b =
         if en.getLsbD b then w.getLsbD b else ((s.me.settle .v vd).rv vd).getLsbD b) ∧
       (∀ n, n ≠ vd → t.me.rv n = s.me.rv n) ∧ (∀ p ∈ t.me.pend, p ∈ s.me.pend ∧ ¬ (p.file = .v ∧ p.reg = vd))))

/-- R153, R154: the floating-point instructions of major VFP complete (exec answers next), each element computed and rounded once,
their flags together; what an inactive element keeps is log 12. What fpAdd to fpMax and the square root give is stated in FloatValues,
2^x in AnalyticValues (log 10). -/
def Obligations.VectorFloatResults : Prop :=
  let sig (f : FloatFmt) (a : Nat) : BitVec 4 := if f.isSigEnc a then flagNV else 0
  let signed (f : FloatFmt) (a b : Nat) : Nat × BitVec 4 :=
    if f.isNanEnc a then (f.nanEnc, sig f a) else (a % 2 ^ (f.width - 1) + b * 2 ^ (f.width - 1), 0)
  VFpGives .vfadd fpAdd ∧ VFpGives .vfsub fpSub ∧ VFpGives .vfmul fpMul ∧ VFpGives .vfdiv fpDiv ∧
  VFpGives .vfmin fpMin ∧ VFpGives .vfmax fpMax ∧
  VFpGives .vfsgnj (fun f a b => signed f a (b / 2 ^ (f.width - 1) % 2)) ∧
  VFpUnGives .vfabs (fun f a => signed f a 0) ∧
  VFpUnGives .vfneg (fun f a => signed f a (1 - a / 2 ^ (f.width - 1) % 2)) ∧
  VFpUnGives .vfsqrt (fpUn Fp.sqrt) ∧ VFpUnGives .vfexp2 (fpUn Fp.exp2) ∧
  ∀ (s : State) (vd vs1 vs2 : Reg) (fmt : FpFmt) (m : MaskReg) (stl : Stall) (rv : Nat → VWord),
    let w := (fmtOf fmt).width
    VMapDone s (.vfma vd vs1 vs2 fmt m stl) 4 w [useV vs1, useV vs2, useV vd] [vs1.toNat, vs2.toNat, vd.toNat] vd m stl rv
      fun e => fpFma (fmtOf fmt) (elem w (rv vd.toNat) e) (elem w (rv vs1.toNat) e) (elem w (rv vs2.toNat) e)

/-- R33, R35, R36, R43, R44, R46, R153, R154: the sums, products, quotients, square roots, minima and maxima of FP32, BF16 and FP16:
the exact number rounded once to nearest even with its flags; NaNs, infinities and zeros as the rules say.
R33, R35, R42, R44 to R46, R50 to R52: what the conversions between the five formats and to and from integers give: the exact
number rounded once in the mode, with NaNs, infinities, signed zeros and saturation as the rules say; that SR which rounds down to the
largest finite number sets NX only is log 48. -/
def Obligations.FloatValues : Prop :=
  (∀ f ∈ [fp32, bf16, fp16], ∀ a b c : Nat, a < 2 ^ f.width → b < 2 ^ f.width → c < 2 ^ f.width →
     let nan (v : Nat) : Prop := f.isNanEnc v = true
     let inf (v : Nat) : Prop := f.isInfEnc v = true
     let zero (v : Nat) : Prop := f.isNum v ∧ f.rat v = 0
     let nv (l : List Nat) : BitVec 4 := if l.any f.isSigEnc then flagNV else 0
     let exact (x : ℚ) (negZero : Bool) (res : Nat × BitVec 4) : Prop :=
       (x ≠ 0 → f.RoundsTo .rne 0 (x : ℝ) res) ∧ (x = 0 → res = (f.zeroEnc negZero, 0))
     let differ := f.negOf a != f.negOf b
     (nan a ∨ nan b → fpAdd f a b = (f.nanEnc, nv [a, b]) ∧ fpMul f a b = (f.nanEnc, nv [a, b]) ∧
       fpDiv f a b = (f.nanEnc, nv [a, b])) ∧
     (fpSub f a b = fpAdd f a (b ^^^ 2 ^ (f.width - 1))) ∧
     ((inf a → inf b → fpAdd f a b = if differ then (f.nanEnc, flagNV) else (a, 0)) ∧
       (inf a → f.isNum b → fpAdd f a b = (a, 0)) ∧ (f.isNum a → inf b → fpAdd f a b = (b, 0)) ∧
       (f.isNum a → f.isNum b → exact (f.rat a + f.rat b) (f.negOf a && f.negOf b) (fpAdd f a b))) ∧
     ((inf a → zero b → fpMul f a b = (f.nanEnc, flagNV)) ∧ (zero a → inf b → fpMul f a b = (f.nanEnc, flagNV)) ∧
       ((inf a ∧ ¬ nan b ∧ ¬ zero b) ∨ (inf b ∧ ¬ nan a ∧ ¬ zero a) → fpMul f a b = (f.infEnc differ, 0)) ∧
       (f.isNum a → f.isNum b → exact (f.rat a * f.rat b) differ (fpMul f a b))) ∧
     ((inf a → inf b → fpDiv f a b = (f.nanEnc, flagNV)) ∧ (zero a → zero b → fpDiv f a b = (f.nanEnc, flagNV)) ∧
       (inf a → f.isNum b → fpDiv f a b = (f.infEnc differ, 0)) ∧ (f.isNum a → inf b → fpDiv f a b = (f.zeroEnc differ, 0)) ∧
       (f.isNum a → ¬ zero a → zero b → fpDiv f a b = (f.infEnc differ, 0)) ∧
       (f.isNum a → f.isNum b → ¬ zero b → exact (f.rat a / f.rat b) differ (fpDiv f a b))) ∧
     (let lost : Prop := (inf a ∧ zero b) ∨ (zero a ∧ inf b);
       (lost → fpFma f c a b = (f.nanEnc, flagNV)) ∧
       (¬ lost → nan a ∨ nan b ∨ nan c → fpFma f c a b = (f.nanEnc, nv [a, b, c])) ∧
       (¬ lost → ¬ nan a → ¬ nan b → ¬ nan c → inf a ∨ inf b →
         fpFma f c a b = if inf c ∧ f.negOf c ≠ differ then (f.nanEnc, flagNV) else (f.infEnc differ, 0)) ∧
       (f.isNum a → f.isNum b → inf c → fpFma f c a b = (c, 0)) ∧
       (f.isNum a → f.isNum b → f.isNum c →
         exact (f.rat c + f.rat a * f.rat b) (f.negOf c && differ) (fpFma f c a b))) ∧
     (nan a → nan b → fpMin f a b = (f.nanEnc, nv [a, b]) ∧ fpMax f a b = (f.nanEnc, nv [a, b])) ∧
     (nan a → ¬ nan b → fpMin f a b = (b, nv [a]) ∧ fpMax f a b = (b, nv [a])) ∧
     (¬ nan a → nan b → fpMin f a b = (a, nv [b]) ∧ fpMax f a b = (a, nv [b])) ∧
     (¬ nan a → ¬ nan b → fpMin f a b = (if f.rank a < f.rank b then a else b, 0) ∧
       fpMax f a b = (if f.rank b < f.rank a then a else b, 0)) ∧
     (nan a → fpUn Fp.sqrt f a = (f.nanEnc, nv [a])) ∧ (zero a → fpUn Fp.sqrt f a = (a, 0)) ∧
     (¬ nan a → ¬ zero a → f.negOf a = true → fpUn Fp.sqrt f a = (f.nanEnc, flagNV)) ∧
     (inf a → f.negOf a = false → fpUn Fp.sqrt f a = (a, 0)) ∧
     (f.isNum a → 0 < f.rat a → f.RoundsTo .rne 0 (Real.sqrt (f.rat a : ℝ)) (fpUn Fp.sqrt f a))) ∧
  (∀ f ∈ [fp32, bf16, fp16, e4m3, e5m2], ∀ (mode : RoundMode) (r a : Nat),
     (∀ g ∈ [fp32, bf16, fp16, e4m3, e5m2], a < 2 ^ f.width →
       let res := fpConvert f g mode r a
       (f.isNanEnc a = true → res = (g.nanEnc, if f.isSigEnc a then flagNV else 0)) ∧
       (f.isInfEnc a = true → res = if g.hasInf then (g.infEnc (f.negOf a), 0) else (g.nanEnc, flagNV)) ∧
       (f.isNum a → f.rat a = 0 → res = (g.zeroEnc (f.negOf a), 0)) ∧
       (f.isNum a → f.rat a ≠ 0 → g.RoundsTo mode r (f.rat a : ℝ) res)) ∧
     (∀ v : Int, (v = 0 → fpOfInt f mode r v = (0, 0)) ∧ (v ≠ 0 → f.RoundsTo mode r (v : ℝ) (fpOfInt f mode r v))) ∧
     ∀ lo hi : Int, lo ≤ 0 → 0 ≤ hi → a < 2 ^ f.width →
       let res := fpToInt f lo hi mode r a
       (f.isNanEnc a = true → res = (0, flagNV)) ∧
       (f.isInfEnc a = true → res = (if f.negOf a then lo else hi, flagNV)) ∧
       (f.isNum a → ∃ n : Nat, RoundsInt mode r (f.negOf a) |((f.rat a : ℚ) : ℝ)| n ∧
         let v : Int := if f.negOf a then -(n : Int) else n
         (hi < v → res = (hi, flagNV)) ∧ (v < lo → res = (lo, flagNV)) ∧
         (lo ≤ v → v ≤ hi → res = (v, if (v : ℚ) = f.rat a then 0 else flagNX))))

/-- R154, R296: 2^x of FP32, BF16 and FP16 is rounded to nearest even from a number within 2^-300 of 2^x relatively, from 2^x
itself where x is an integer or beyond 1000 (log 10: no number of these formats needs more); the 1,024 values T[j] of ROT. -/
def Obligations.AnalyticValues : Prop :=
  (∀ f ∈ [fp32, bf16, fp16], ∀ a : Nat, a < 2 ^ f.width →
    let res := fpUn Fp.exp2 f a
    (f.isNanEnc a = true → res = (f.nanEnc, if f.isSigEnc a then flagNV else 0)) ∧
    (f.isInfEnc a = true → res = (if f.negOf a then 0 else f.infEnc false, 0)) ∧
    (f.isNum a → ∃ y : ℝ, |y - (2 : ℝ) ^ ((f.rat a : ℚ) : ℝ)| ≤ (2 : ℝ) ^ ((f.rat a : ℚ) : ℝ) / 2 ^ 300 ∧
      ((f.rat a).den = 1 ∨ 1000 < |f.rat a| → y = (2 : ℝ) ^ ((f.rat a : ℚ) : ℝ)) ∧ f.RoundsTo .rne 0 y res)) ∧
  ∀ j : Nat, |(cosTable j : ℝ) - 2 ^ 30 * Real.cos (2 * Real.pi * (j % 1024 : Nat) / 1024)| < 1 / 2 + 1 / 10 ^ 9

/-- R42, R45: one rounding of m units of 2^e to units of 2^q, q > e: to nearest with ties to even, toward zero, down and up;
the stochastic mode rounds up by its draw of 16 bits; exact numbers stay.
R33, R35, R44, R46: a number of one of the five formats is itself after rounding in every mode, with no flag. -/
def Obligations.Rounding : Prop :=
  (∀ (r : Nat) (neg : Bool) (m d : Nat) (e : Int), 0 < d →
     let at' (mode : RoundMode) := roundAt mode r neg m e (e + d)
     let unit := 2 ^ d
     (∀ mode, ((at' mode).2 = false ↔ unit ∣ m) ∧ (unit ∣ m → (at' mode).1 * unit = m)) ∧
     (2 * (at' .rne).1 * unit ≤ 2 * m + unit ∧ 2 * m ≤ 2 * (at' .rne).1 * unit + unit) ∧
     (2 * (m % unit) = unit → (at' .rne).1 % 2 = 0) ∧
     (at' .rtz).1 = m / unit ∧
     (at' .rdn).1 = (if neg then (m + unit - 1) / unit else m / unit) ∧
     (at' .rup).1 = (if neg then m / unit else (m + unit - 1) / unit) ∧
     ((at' .sr).1 = m / unit + if r < m % unit * 2 ^ 16 / unit then 1 else 0)) ∧
  (∀ f ∈ [fp32, bf16, fp16, e4m3, e5m2], ∀ (v r : Nat) (mode : RoundMode), v < 2 ^ f.width →
     (Fp.decode f v).isNan = false → (Fp.decode f v).round f mode r = (v, 0))

/-- R157, R158, R45, R298: the conversions complete (exec answers next), with their parts, their draws and their flags; SR without a
RAND descriptor in GEN7 is illegal. What fpConvert, fpOfInt and fpToInt give is stated in FloatValues; what SR sets when it rounds down
to the largest number is log 48, what an inactive element keeps log 12. -/
def Obligations.ConversionResults : Prop :=
  ∀ (s : State) (vd vs1 : Reg) (p : BitVec 1) (q : BitVec 2) (rm : RoundMode) (m : MaskReg) (stl : Stall)
    (rv : Nat → VWord),
    let widen (i : Instr) (ws p : Nat) (f : Nat → Nat × BitVec 4) := CvtDone s i ws 32 p .rne (fun _ => f) vd vs1 m stl rv
    let narrow (i : Instr) (wd p : Nat) (rm : RoundMode) (f : Nat → Nat → Nat × BitVec 4) :=
      CvtDone s i 32 wd p rm f vd vs1 m stl rv
    let toInt (lo hi : Int) (w : Nat) (r a : Nat) : Nat × BitVec 4 :=
      (((fpToInt fp32 lo hi rm r a).1 % 2 ^ w).toNat, (fpToInt fp32 lo hi rm r a).2)
    widen (.vcvtF32Bf16 vd vs1 p m stl) 16 p.toNat (fpConvert bf16 fp32 .rne 0) ∧
    widen (.vcvtF32F16 vd vs1 p m stl) 16 p.toNat (fpConvert fp16 fp32 .rne 0) ∧
    narrow (.vcvtBf16F32 vd vs1 p rm m stl) 16 p.toNat rm (fpConvert fp32 bf16 rm) ∧
    narrow (.vcvtF16F32 vd vs1 p rm m stl) 16 p.toNat rm (fpConvert fp32 fp16 rm) ∧
    widen (.vcvtF32E4m3 vd vs1 q m stl) 8 q.toNat (fpConvert e4m3 fp32 .rne 0) ∧
    widen (.vcvtF32E5m2 vd vs1 q m stl) 8 q.toNat (fpConvert e5m2 fp32 .rne 0) ∧
    narrow (.vcvtE4m3F32 vd vs1 q rm m stl) 8 q.toNat rm (fpConvert fp32 e4m3 rm) ∧
    narrow (.vcvtE5m2F32 vd vs1 q rm m stl) 8 q.toNat rm (fpConvert fp32 e5m2 rm) ∧
    CvtDone s (.vcvtBf16F16 vd vs1 rm m stl) 16 16 0 rm (fpConvert fp16 bf16 rm) vd vs1 m stl rv ∧
    CvtDone s (.vcvtF16Bf16 vd vs1 rm m stl) 16 16 0 rm (fpConvert bf16 fp16 rm) vd vs1 m stl rv ∧
    narrow (.vcvtF32I32 vd vs1 rm m stl) 32 0 rm (fun r a => fpOfInt fp32 rm r (sgn 32 a)) ∧
    narrow (.vcvtF32U32 vd vs1 rm m stl) 32 0 rm (fun r a => fpOfInt fp32 rm r a) ∧
    narrow (.vcvtI32F32 vd vs1 rm m stl) 32 0 rm (toInt (-2 ^ 31) (2 ^ 31 - 1) 32) ∧
    narrow (.vcvtU32F32 vd vs1 rm m stl) 32 0 rm (toInt 0 (2 ^ 32 - 1) 32) ∧
    widen (.vcvtF32I16 vd vs1 p m stl) 16 p.toNat (fun a => fpOfInt fp32 .rne 0 (sgn 16 a)) ∧
    widen (.vcvtF32I8 vd vs1 q m stl) 8 q.toNat (fun a => fpOfInt fp32 .rne 0 (sgn 8 a)) ∧
    narrow (.vcvtI16F32 vd vs1 p rm m stl) 16 p.toNat rm (toInt (-2 ^ 15) (2 ^ 15 - 1) 16) ∧
    narrow (.vcvtI8F32 vd vs1 q rm m stl) 8 q.toNat rm (toInt (-2 ^ 7) (2 ^ 7 - 1) 8) ∧
    widen (.vcvtI32I16 vd vs1 p m stl) 16 p.toNat (fun a => ((sgn 16 a % 2 ^ 32).toNat, 0)) ∧
    widen (.vcvtI32I8 vd vs1 q m stl) 8 q.toNat (fun a => ((sgn 8 a % 2 ^ 32).toNat, 0)) ∧
    narrow (.vcvtI16I32 vd vs1 p m stl) 16 p.toNat .rne (fun _ a => ((clampS 16 (sgn 32 a) % 2 ^ 16).toNat, 0)) ∧
    narrow (.vcvtI8I32 vd vs1 q m stl) 8 q.toNat .rne (fun _ a => ((clampS 8 (sgn 32 a) % 2 ^ 8).toNat, 0))

/-- R160, R161: the reductions and the scans.
R163, R144: the operations on mask registers, on all 16 bits, with latency 3. -/
def Obligations.ReductionsScansAndMasks : Prop :=
  (∀ (s : State) (vd vs1 rc : Reg) (w : IntW) (fmt : FpFmt) (half : Bool) (m : MaskReg) (stl : Stall) (rv : Nat → VWord),
     let n := wBits w
     let red (i : Instr) (f : Nat → Nat → Nat) := VRedDone s i n (fun a b => (f a b, 0)) vd vs1 m stl rv
     let fred (i : Instr) (f : FloatFmt → Nat → Nat → Nat × BitVec 4) :=
       VRedDone s i (fmtOf fmt).width (f (fmtOf fmt)) vd vs1 m stl rv
     red (.vredsum vd vs1 w m stl) (fun a b => a + b) ∧
     red (.vredmin vd vs1 w m stl) (fun a b => if sgn n a ≤ sgn n b then a else b) ∧
     red (.vredmax vd vs1 w m stl) (fun a b => if sgn n a ≤ sgn n b then b else a) ∧
     red (.vredminu vd vs1 w m stl) (fun a b => min a b) ∧ red (.vredmaxu vd vs1 w m stl) (fun a b => max a b) ∧
     fred (.vfredsum vd vs1 fmt m stl) fpAdd ∧ fred (.vfredmin vd vs1 fmt m stl) fpMin ∧
     fred (.vfredmax vd vs1 fmt m stl) fpMax ∧
     VScanDone s (.vscan vd vs1 rc half m stl) (if half then 16 else 32) 16 (fun v => decide (v ≠ 0)) (fun _ e => e) vd vs1
       rc m stl rv ∧
     VScanDone s (.vfscan vd vs1 rc fmt m stl) (fmtOf fmt).width 16 (fun v => decide (v % 2 ^ ((fmtOf fmt).width - 1) ≠ 0))
       (fun _ e => e) vd vs1 rc m stl rv ∧
     VScanDone s (.vcompress vd vs1 rc w m stl) n n (fun _ => true) (fun v e => elem n v e) vd vs1 rc m stl rv) ∧
  (∀ (s : State) (md ms1 ms2 : MaskReg) (rd rs1 : Reg) (stl : Stall), isSvc s.focus = false →
     let a := s.me.rm ms1.toNat
     let b := s.me.rm ms2.toNat
     let toM (i : Instr) (reads : List (RegFile × Nat)) (bits : Nat → Bool) : Prop :=
       s.me.hazard { reads := reads, writes := [useM md], lat := 3 } = none →
         ∃ r : MWord, (∀ k < 16, r.getLsbD k = bits k) ∧
           exec i s = .next (s.done stl fun c => c.writeFixed .m md.toNat 3 (r.setWidth 512))
     let toX (i : Instr) (val : Word → Prop) : Prop :=
       s.me.hazard { reads := [useM ms1], writes := [useX rd], lat := 3 } = none →
         ∃ r, val r ∧ exec i s = .next (s.done stl fun c => c.fixX rd.toNat 3 r)
     toM (.vmand md ms1 ms2 stl) [useM ms1, useM ms2] (fun k => a.getLsbD k && b.getLsbD k) ∧
     toM (.vmor md ms1 ms2 stl) [useM ms1, useM ms2] (fun k => a.getLsbD k || b.getLsbD k) ∧
     toM (.vmxor md ms1 ms2 stl) [useM ms1, useM ms2] (fun k => a.getLsbD k != b.getLsbD k) ∧
     toM (.vmandn md ms1 ms2 stl) [useM ms1, useM ms2] (fun k => a.getLsbD k && !b.getLsbD k) ∧
     toM (.vmnot md ms1 stl) [useM ms1] (fun k => !a.getLsbD k) ∧
     toM (.vxtom md rs1 stl) [useX rs1] (fun k => (s.me.rx rs1.toNat).getLsbD k) ∧
     toX (.vmpopc rd ms1 stl) (fun r => r.toNat = (List.range 16).countP a.getLsbD) ∧
     toX (.vmfirst rd ms1 stl) (fun r =>
       (a = 0 → r.toInt = -1) ∧ (a ≠ 0 → r.toNat < 16 ∧ a.getLsbD r.toNat = true ∧ ∀ k < r.toNat, a.getLsbD k = false)) ∧
     toX (.vmtox rd ms1 stl) (fun r => r.toNat = a.toNat))

/-! ### Vector accesses and streams -/

/-- R146, R147, R149: the unit, strided and indexed vector loads and stores complete (exec answers next) when their operands are at
hand and their active elements reach their places. The poison of R370 is absent.
R148, R112, R89, R289, R293, R302, R350, R370: what stops a vector access of any form and mode whose operands are at hand:
the lowest misaligned active element, else a miss (log 62: R148 and R112 name no such step), else an access fault, else GENWRITE, else
an absent page, else (for a load) poison.
R277: elements in another package (log 29): a load asks for them one after the other and waits; a store sends them and completes; both
after every stream read that has issued (log 6). -/
def Obligations.VectorAccesses : Prop :=
  (∀ (s : State) (v1 rs1 rs2 vs2 : Reg) (mode : AddrMode) (w : IntW) (m : MaskReg) (stl : Stall) (rv : Nat → VWord),
     let n := wBits w / 8
     let unit (e : Nat) : Word := BitVec.ofNat 64 (e * n)
     let strided (e : Nat) : Word := BitVec.ofInt 64 (e * (s.me.rx rs2.toNat).toInt)
     let indexed (e : Nat) : Word := BitVec.ofNat 64 (elem (wBits w) (rv vs2.toNat) e * n)
     VLoadDone s (.vld v1 rs1 mode w m stl) [] [] w mode v1 rs1 m stl rv unit ∧
     VLoadDone s (.vlds v1 rs1 rs2 mode w m stl) [useX rs2] [] w mode v1 rs1 m stl rv strided ∧
     VLoadDone s (.vldx v1 rs1 vs2 mode w m stl) [useV vs2] [vs2.toNat] w mode v1 rs1 m stl rv indexed ∧
     VStoreDone s (.vst v1 rs1 mode w m stl) [] [] w mode v1 rs1 m stl rv unit ∧
     VStoreDone s (.vsts v1 rs1 rs2 mode w m stl) [useX rs2] [] w mode v1 rs1 m stl rv strided ∧
     VStoreDone s (.vstx v1 rs1 vs2 mode w m stl) [useV vs2] [vs2.toNat] w mode v1 rs1 m stl rv indexed ∧
     VFarLoad s (.vld v1 rs1 mode w m stl) [] [] w mode v1 rs1 m stl rv unit ∧
     VFarLoad s (.vlds v1 rs1 rs2 mode w m stl) [useX rs2] [] w mode v1 rs1 m stl rv strided ∧
     VFarLoad s (.vldx v1 rs1 vs2 mode w m stl) [useV vs2] [vs2.toNat] w mode v1 rs1 m stl rv indexed ∧
     VFarStore s (.vst v1 rs1 mode w m stl) [] [] w mode v1 rs1 m rv unit ∧
     VFarStore s (.vsts v1 rs1 rs2 mode w m stl) [useX rs2] [] w mode v1 rs1 m rv strided ∧
     VFarStore s (.vstx v1 rs1 vs2 mode w m stl) [useV vs2] [vs2.toNat] w mode v1 rs1 m rv indexed) ∧
  (∀ (s : State) (v1 rs1 rs2 vs2 : Reg) (mode : AddrMode) (w : IntW) (m : MaskReg) (stl : Stall) (rv : Nat → VWord),
     let n := wBits w / 8
     let on := laneOn (wBits w) (s.me.rm m.toNat)
     let unit (e : Nat) : Word := s.me.rx rs1.toNat + BitVec.ofNat 64 (e * n)
     let strided (e : Nat) : Word := s.me.rx rs1.toNat + BitVec.ofInt 64 (e * (s.me.rx rs2.toNat).toInt)
     let indexed (e : Nat) : Word := s.me.rx rs1.toNat + BitVec.ofNat 64 (elem (wBits w) (rv vs2.toNat) e * n)
     let loads (i : Instr) (reads : List (RegFile × Nat)) (srcs : List Nat) (addr : Nat → Word) : Prop :=
       s.VReady { reads := useX rs1 :: reads ++ maskReads m v1 false, writes := [useV v1] } srcs rv (some v1) →
         VStops s i .read (512 / wBits w) n mode on addr
     let stores (i : Instr) (reads : List (RegFile × Nat)) (srcs : List Nat) (addr : Nat → Word) : Prop :=
       s.VReady { reads := useX rs1 :: useV v1 :: reads ++ (if m = 0 then [] else [useM m]) } (srcs ++ [v1.toNat]) rv none →
         VStops s i .write (512 / wBits w) n mode on addr
     loads (.vld v1 rs1 mode w m stl) [] [] unit ∧
     loads (.vlds v1 rs1 rs2 mode w m stl) [useX rs2] [] strided ∧
     loads (.vldx v1 rs1 vs2 mode w m stl) [useV vs2] [vs2.toNat] indexed ∧
     stores (.vst v1 rs1 mode w m stl) [] [] unit ∧
     stores (.vsts v1 rs1 rs2 mode w m stl) [useX rs2] [] strided ∧
     stores (.vstx v1 rs1 vs2 mode w m stl) [useV vs2] [vs2.toNat] indexed)

/-- R165, R168, R170: reading a bound register takes the vector at the cursor and advances it by one, an exhausted stream
consumes nothing; writing a register bound to a write stream in the core's own scratchpad stores the enabled bytes at the
cursor's address, and no other byte, and advances it.
R172, R113: the reads that a read stream has issued are made before what the context writes next: every read stream then holds
the vectors that it held and, in the core's own scratchpad, those of the eight from its cursor that it can read; nothing else
changes but the tokens and the TLBs. (Log 6: reads not yet made are made at the first write, fence or release that follows.)
R167, R171, R172: SBIND samples the descriptor and sets the cursor to the first vector; it traps on a bound register and
on an invalid descriptor (log 49); SCLOSE unbinds and leaves the last vector in the register (log 44); a prefetch step of a stream in the
core's own scratchpad brings the next vector it has not fetched. -/
def Obligations.Streams : Prop :=
  (((∀ (c : Ctx) (n : Nat) (w : VWord) (t : Stream), c.stream n = some t → t.isWrite = false →
      (t.exhausted = true → c.consume n w = c) ∧
      (t.exhausted = false → ∃ u, (c.consume n w).stream n = some u ∧ u.cursor = t.cursor + 1 ∧ u.last = w ∧
        (∀ j, j ≠ n → (c.consume n w).stream j = c.stream j) ∧ (∀ j, (c.consume n w).rv j = c.rv j ∧ (c.consume n w).rx j = c.rx j))) ∧
    ∀ (s : State) (n lat : Nat) (w en : VWord) (t : Stream), isSvc s.focus = false → s.me.stream n = some t → t.isWrite = true →
      t.mode = .own → (t.here.toNat % 2 ^ 17) % 64 = 0 → t.here.toNat % 2 ^ 17 + 64 ≤ s.padSize s.focus →
      (∀ b < 64, elem 8 en b = 0 ∨ elem 8 en b = 255) →
      let u := s.putVec n lat w en
      let base := t.here.toNat % 2 ^ 17
      (∃ v, u.me.stream n = some v ∧ v.cursor = t.cursor + 1 ∧ v.last = (t.last &&& ~~~en) ||| (w &&& en)) ∧
      (∀ b < 64, cell (u.core s.focus).pad (base + b) =
        if elem 8 en b = 255 then BitVec.ofNat 8 (elem 8 w b) else cell (s.core s.focus).pad (base + b)) ∧
      s.SamePadsBut u s.focus base 64 ∧ s.SameMem u) ∧
   (∀ s : State, let u := s.fetchWindows
      s.SameMem u ∧ s.SamePads u ∧ s.SameCtxsBut u s.focus s.active ∧ u.focus = s.focus ∧ u.active = s.active ∧
      u.me = { s.me with streams := u.me.streams } ∧
      ∀ n t, s.me.streams.find? n = some t → ∃ t', u.me.streams.find? n = some t' ∧
        t' = { t with fetched := t'.fetched, windowed := t'.windowed } ∧
        (∀ i w, t.fetched.find? i = some w → t'.fetched.find? i = some w) ∧ (t.isWrite = true → t' = t) ∧
        ∀ j < 8, isSvc s.focus = false → t.isWrite = false → t.mode = .own → t.fetched.find? (t.cursor + j) = none →
          (t.wrap = true ∨ t.cursor + j < t.count) →
          let off := (t.addr (t.cursor + j)).toNat % 2 ^ 17
          off % 64 = 0 → off + 64 ≤ s.padSize s.focus → poisonedAt s.myCore.padPoison off 64 = false →
            t'.fetched.find? (t.cursor + j) = some (BitVec.ofNat 512 (s.padRead s.focus off 64)))) ∧
  ((∀ (s : State) (n : BitVec 3) (stl : Stall), isSvc s.focus = false →
     let k := n.toNat
     let d : Stream := { w0 := s.me.sdesc.get (4 * k) 0, w1 := s.me.sdesc.get (4 * k + 1) 0,
                         w2 := s.me.sdesc.get (4 * k + 2) 0, w3 := s.me.sdesc.get (4 * k + 3) 0 }
     (∀ t, s.me.stream (24 + k) = some t →
       exec (.sbind n stl) s = .next (s.trap 7 (BitVec.ofNat 64 (2 ^ 61 + k * 2 ^ 56)))) ∧
     (s.me.stream (24 + k) = none → s.streamValid d = false →
       exec (.sbind n stl) s = .next (s.trap 7 (BitVec.ofNat 64 (k * 2 ^ 56)))) ∧
     (s.me.stream (24 + k) = none → s.streamValid d = true → ∃ t : State, exec (.sbind n stl) s = .next t ∧ s.OnlyMe t ∧
       t.me.stream (24 + k) = some d ∧ (∀ j, j ≠ 24 + k → t.me.stream j = s.me.stream j) ∧ t.me.pc = s.me.pc + 4) ∧
     (∀ t, s.me.stream (24 + k) = some t → ∃ u : State, exec (.sclose n stl) s = .next u ∧ s.OnlyMe u ∧
       u.me.stream (24 + k) = none ∧ u.me.rv (24 + k) = t.last ∧ u.me.pc = s.me.pc + 4) ∧
     (s.me.stream (24 + k) = none → exec (.sclose n stl) s = .next (s.done stl id))) ∧
   ∀ (s : State) (r : List Event) (k c n : Nat) (t : Stream), s.agenda = .streamPrefetch k c n :: r → isSvc k = false →
     (s.ctx k c).streams.find? n = some t → t.isWrite = false → t.fetched = [] → t.exhausted = false →
     s.isFrozen k (s.ctx k c) = false → t.mode = .own → t.here.toNat % 2 ^ 17 % 64 = 0 →
     t.here.toNat % 2 ^ 17 + 64 ≤ s.padSize k → poisonedAt (s.core k).padPoison (t.here.toNat % 2 ^ 17) 64 = false →
       let u : Stream := { t with fetched := [(t.cursor, BitVec.ofNat 512 (s.padRead k (t.here.toNat % 2 ^ 17) 64))] }
       exec .streamPrefetch s = .next (s.pop.updCtx k c fun x => { x with streams := x.streams.set n u }))

/-! ### Generator windows -/

/-- R289 to R298: a read of a generator window gives the bytes of the elements that the descriptor's words make, and none where
R293 calls the descriptor invalid; the rounding generator's draws; a write of a descriptor word (R290, R299). The values of
`cosTable` are stated in AnalyticValues. That such a write drops the prefetched vectors of every window, whichever descriptor they used,
and keeps the others, is log 11. -/
def Obligations.GeneratorWindows : Prop :=
  (∀ (s : State) (k d va n : Nat) (gens : SMap Word), d < 8 →
    let w (j : Fin 4) : Word := gens.get (4 * d + j) 0
    let pitch := (w 1).toNat % 2 ^ 32
    let size := genSize (w 0)
    let o (i : Nat) : Nat := (((va : Int) + i - (w 0).toNat % 2 ^ 48) % 2 ^ 48).toNat
    let freq (i : Nat) : Nat := s.padRead k ((w 2).toNat % 2 ^ 32 + 4 * i) 4
    (¬ GenValid w (s.padSize k) → s.genRead k gens d va n = none) ∧
    (GenValid w (s.padSize k) → ∃ v, s.genRead k gens d va n = some v ∧ v < 256 ^ n ∧
      ∀ i < n, ∃ el, GenElemIs (BitVec.ofNat 32 d) w freq (o i / pitch) (o i % pitch / size) el ∧
        v / 256 ^ i % 256 = el / 256 ^ (o i % size) % 256)) ∧
  (∀ (c : Ctx) (i : Nat),
    let D := ((c.gens.get 31 0).toNat + i) % 2 ^ 64
    let x := (philoxBlock (c.gens.get 30 0) (BitVec.ofNat 64 (D / 8)) 7 1 (Fin.ofNat 4 (D / 2 % 4))).toNat
    c.draw i = if D % 2 = 0 then x % 2 ^ 16 else x / 2 ^ 16) ∧
  (∀ (c : Ctx) (n : Nat), c.drew n = { c with gens := (c.drew n).gens } ∧
    ∀ j, (c.drew n).gens.get j 0 = if j = 31 then c.gens.get 31 0 + BitVec.ofNat 64 n else c.gens.get j 0) ∧
  ∀ (c : Ctx) (i : Nat) (v : Word), let y := c.setGen i v
    y = { c with gens := y.gens, genEpoch := c.genEpoch + 1, streams := y.streams } ∧
    (∀ j, y.gens.get j 0 = if j = i then (if i % 4 = 0 then v &&& 0xFF00FFFFFFFFFFFF else v) else c.gens.get j 0) ∧
    (∀ m, c.streams.find? m = none → y.streams.find? m = none) ∧
    ∀ m t, c.streams.find? m = some t → ∃ t', y.streams.find? m = some t' ∧
      t' = { t with fetched := t'.fetched, windowed := [] } ∧
      ∀ j, t'.fetched.find? j = if j ∈ t.windowed then none else t.fetched.find? j

/-! ### Events -/

/-- R175: a packet carries its fields where the table puts them, and a CRC that R175's check accepts.
R183 to R186, R190 to R192, R342: the arrival of a packet of this package, oldest of its path, at its core: a disabled channel
discards and logs it; else it merges into the youngest entry of its channel and index, or makes the youngest entry, or,
without room, is held, and behind a held one every later packet is (log 53: whatever its source or channel); the first held one is tried
again. One for another package
leaves, and is on its way until it is accepted there. (An entry may make a saved coach Ready: `noteReady` writes only those
bits of the save areas.) -/
def Obligations.PacketsAndArrival : Prop :=
  (∀ ctx < 8, ∀ seq < 256, ∀ srcKey < 8192, ∀ srcPkg < 128, ∀ delta < 256, ∀ index < 65536, ∀ ch < 64, ∀ dstKey < 8192,
     ∀ dstPkg < 128, ∀ mcast : Bool,
       let p := mkFlit ctx mcast seq srcKey srcPkg delta index ch dstKey dstPkg
       let f (lo n : Nat) := p.toNat / 2 ^ lo % 2 ^ n
       f 79 3 = ctx ∧ f 78 1 = mcast.toNat ∧ f 70 8 = seq ∧ f 62 8 = srcKey % 256 ∧ f 57 5 = srcKey / 256 ∧ f 50 7 = srcPkg ∧
       f 42 8 = delta ∧ f 26 16 = index ∧ f 20 6 = ch ∧ f 12 8 = dstKey % 256 ∧ f 7 5 = dstKey / 256 ∧ f 0 7 = dstPkg ∧
       f 82 30 = 0 ∧ flitOk p = true) ∧
  (∀ (s : State) (r : List Event) (k : Nat) (p : BitVec 128), s.agenda = .eventArrival k p :: r →
     let f (lo n : Nat) := p.toNat / 2 ^ lo % 2 ^ n
     let src := 256 * f 57 5 + f 62 8
     let u := s.pop.updCore src fun co => { co with outFlits := co.outFlits.erase p }
     let path (q : BitVec 128) := q.toNat % 2 ^ 20 = p.toNat % 2 ^ 20 ∧ q.toNat / 2 ^ 50 % 2 ^ 20 = p.toNat / 2 ^ 50 % 2 ^ 20
     let oldest (l : List (BitVec 128)) : Prop := ∃ a b, l = a ++ p :: b ∧ ∀ q ∈ a, ¬ path q
     (f 0 7 ≠ s.pkg → oldest s.flitsOut → exec .eventArrival s = .next { s.pop with flitsOut := s.flitsOut.erase p }) ∧
     (f 50 7 = s.pkg → oldest (s.core src).outFlits → f 0 7 ≠ s.pkg → (∀ q ∈ s.flitsOut, ¬ path q) →
       exec .eventArrival s = .next { u with flitsOut := s.flitsOut ++ [p] }) ∧
     (f 0 7 = s.pkg → k = 256 * f 7 5 + f 12 8 → s.hasCompute k = true →
       let ch := f 20 6
       let index := f 26 16
       let d := sgn 8 (f 42 8)
       let from' := f 50 7 * 2 ^ 16 + f 57 5 * 2 ^ 11 + f 62 8 * 8
       let w := (s.core k).chtab.get ch 0
       let q := (s.core k).queue
       let mine := q.countP fun e => e.channel.toNat == ch
       let merges (a b : List Entry) (e : Entry) := q = a ++ e :: b ∧ e.channel.toNat = ch ∧ e.index.toNat = index ∧
         (∀ x ∈ b, x.channel.toNat = ch → x.index.toNat ≠ index ∧ ¬ x.srcs.contains from') ∧
         -32768 ≤ e.sum.toInt + d ∧ e.sum.toInt + d ≤ 32767 ∧ e.count < 255
       let full := (∀ (a b : List Entry) (e : Entry), ¬ merges a b e) ∧ 4 * (w.toNat / 2 ^ 51 % 2 ^ 7) ≤ mine
       let put (v : State) (l : List Entry) : State :=
         (v.updCore k fun co => { co with queue := l, gated := false }).noteReady (clusterOf k)
       let takes (v : State) (go : State → Prop) : Prop :=
         (w.getLsbD 63 = false → go (v.logCore k 3 0 (BitVec.ofNat 64 from') (BitVec.ofNat 64 (ch * 2 ^ 16 + index)))) ∧
         (w.getLsbD 63 = true →
           (∀ (a b : List Entry) (e : Entry), merges a b e → ∃ e' : Entry, go (put v (a ++ e' :: b)) ∧
             e'.sum.toInt = e.sum.toInt + d ∧ e'.count = e.count + 1 ∧ e'.index = e.index ∧ e'.channel = e.channel ∧
             e'.seq = e.seq ∧ e'.src = e.src ∧ e'.perr = e.perr) ∧
           ((∀ (a b : List Entry) (e : Entry), ¬ merges a b e) → mine < 4 * (w.toNat / 2 ^ 51 % 2 ^ 7) →
             ∃ e' : Entry, go (put v (q ++ [e'])) ∧ e'.sum.toInt = d ∧ e'.count = 1 ∧ e'.index.toNat = index ∧
               e'.channel.toNat = ch ∧ e'.seq.toNat = f 70 8 ∧ e'.src.toNat = from' ∧ e'.perr = false))
       let holds : Prop := exec .eventArrival s = .next (u.updCore k fun co => { co with heldFlits := co.heldFlits ++ [p] })
       (f 50 7 = s.pkg → oldest (s.core src).outFlits →
         ((s.core k).heldFlits = [] → takes u (fun t => exec .eventArrival s = .next t) ∧ (w.getLsbD 63 = true → full → holds)) ∧
         ((s.core k).heldFlits ≠ [] → (s.core k).heldFlits.head? ≠ some p → holds)) ∧
       ((s.core k).heldFlits.head? = some p →
         takes s.pop (fun t => exec .eventArrival s = .next
           (t.updCore k fun co => { co with heldFlits := co.heldFlits.drop 1 })) ∧
         (w.getLsbD 63 = true → full → exec .eventArrival s = .next s.pop))))

/-- R196 to R198, R177: EVSEND and EVSENDNB send one packet to a checked target, EVSEND waiting for room and EVSENDNB answering
1 without room; EVMC sends one to each entry of its list, in order; EVPOP takes the oldest entry of an owned channel.
R200: SDQ sends one packet for each active lane whose change reaches the threshold and whose table entry is valid, in
ascending lane order, adds what it sent to the lane's last-sent value, and gives the mask of those lanes.
EVMC and SDQ follow the stream reads of their locations that have issued (R172; log 6). That EVMC with n = 0 still traps on a misaligned
list, and what TVAL holds of a bad target, is log 72; the checks that a waiting instruction makes again are log 54. -/
def Obligations.EventSends : Prop :=
  (∀ (s : State) (rd rs1 rs2 : Reg) (pd : Pair) (stl : Stall), isSvc s.focus = false →
     let t := s.me.rx rs1.toNat
     let w := (s.me.rx rs2.toNat).toNat
     let ch := w / 2 ^ 24 % 2 ^ 6
     let index := w % 2 ^ 16
     let delta := w / 2 ^ 16 % 2 ^ 8
     (s.me.hazard { reads := [useX rs1, useX rs2] } = none →
       (s.targetOk t = false → exec (.evsend rs1 rs2 stl) s = .next (s.sendTrap 3 t)) ∧
       (s.targetOk t = true → s.MaySend 1 → ∃ u : State, exec (.evsend rs1 rs2 stl) s = .next (u.done stl id) ∧
         s.Sent u [s.packetTo t ch index delta false (s.seqOf t ch)] ∧ u.seqOf t ch = (s.seqOf t ch + 1) % 256) ∧
       (s.targetOk t = true → ¬ s.MaySend 1 → ∃ u : State, exec (.evsend rs1 rs2 stl) s = .next u ∧
         u.me = { s.me with run := .waiting (.flits 1) } ∧ (u.core s.focus).outFlits = s.myCore.outFlits)) ∧
     (s.me.hazard { reads := [useX rs1, useX rs2], writes := [useX rd] } = none →
       (s.targetOk t = false → exec (.evsendnb rd rs1 rs2 stl) s = .next (s.trap 3 t)) ∧
       (s.targetOk t = true → s.MaySend 1 →
         ∃ u : State, exec (.evsendnb rd rs1 rs2 stl) s = .next (u.done stl fun c => c.varX rd.toNat 0) ∧
           s.Sent u [s.packetTo t ch index delta false (s.seqOf t ch)]) ∧
       (s.targetOk t = true → ¬ s.MaySend 1 →
         exec (.evsendnb rd rs1 rs2 stl) s = .next (s.done stl fun c => c.varX rd.toNat 1))) ∧
     (s.me.hazard { reads := [useX rs1, useX rs2] } = none →
       let n := w / 2 ^ 32 % 2 ^ 6
       let off (j : Nat) := (t.toNat + 4 * j) % 2 ^ 17
       let entry (j : Nat) : Word := BitVec.ofNat 64 (s.padRead s.focus (off j) 4 % 2 ^ 23 / 8 * 8)
       (32 < n → exec (.evmc rs1 rs2 stl) s = .next (s.leaveSendQ.illegal (.evmc rs1 rs2 stl))) ∧
       (n ≤ 32 → t.toNat % 4 ≠ 0 → exec (.evmc rs1 rs2 stl) s = .next (s.sendTrap 2 t)) ∧
       (n ≤ 32 → t.toNat % 4 = 0 →
         (∀ j < n, off j < s.padSize s.focus ∧ poisonedAt s.myCore.padPoison (off j) 4 = false ∧
           s.targetOk (entry j) = true) → (n = 0 ∨ s.MaySend n) →
         ∃ (u : State) (ps : List (BitVec 128)), exec (.evmc rs1 rs2 stl) s = .next (u.done stl id) ∧
           s.fetchWindows.Sent u ps ∧ ps.length = n ∧
           ∀ j < n, ps[j]? = some (s.packetTo (entry j) ch index delta true
             ((s.seqOf (entry j) ch + (List.range j).countP fun i => entry i == entry j) % 256)))) ∧
     (s.me.hazard { reads := [useX rs1], writes := [(.x, pairReg pd), (.x, pairReg pd + 1)] } = none →
       let ch := t.toNat % 64
       let puts (u : State) (lo hi : Word) :=
         exec (.evpop pd rs1 stl) s = .next (u.done stl fun c => (c.varX (pairReg pd) lo).varX (pairReg pd + 1) hi)
       let owner := (s.myCore.chtab.get ch 0).toNat / 2 ^ 48 % 8
       (s.me.coach ≠ some owner → exec (.evpop pd rs1 stl) s = .next (s.trap 3 (BitVec.ofNat 64 (0x200 + ch)))) ∧
       (s.me.coach = some owner →
         ((∀ e ∈ s.myCore.queue, e.channel.toNat ≠ ch) → puts s 0xFFFFFFFFFFFFFFFF 0) ∧
         ∀ (l : List Entry) (e : Entry) (r : List Entry), s.myCore.queue = l ++ e :: r → (∀ x ∈ l, x.channel.toNat ≠ ch) → e.channel.toNat = ch →
           puts (s.updCore s.focus fun co => { co with queue := l ++ r })
             (BitVec.ofNat 64 (e.index.toNat + e.sum.toNat * 2 ^ 16 + ch * 2 ^ 32 + e.count % 256 * 2 ^ 40 +
               e.seq.toNat * 2 ^ 48 + e.perr.toNat * 2 ^ 56))
             (BitVec.ofNat 64 e.src.toNat)))) ∧
  (∀ (s : State) (rd vs rs1 : Reg) (m : MaskReg) (stl : Stall) (rv : Nat → VWord),
     let sd := s.me.sdout.toNat
     let thresh : Nat := sd / 2 ^ 35 % 2 ^ 7
     let ch : Nat := sd / 2 ^ 42 % 2 ^ 6
     let group : Nat := 2 ^ (sd / 2 ^ 31 % 2 ^ 4)
     let a := (s.me.rx rs1.toNat).toNat
     let off (j : Nat) := (a + 4 * j) % 2 ^ 17
     let o (j : Nat) := (sd / 2 ^ 48 + j) % 2 ^ 16
     let tab (j : Nat) := (sd % 2 ^ 17 + 8 * (o j / group)) % 2 ^ 17
     let sent (j : Nat) := sgn 32 (s.padRead s.focus (off j) 4)
     let change (j : Nat) := sgn 32 (elem 32 (rv vs.toNat) j) - sent j
     let entry (j : Nat) := s.padRead s.focus (tab j) 8
     let target (j : Nat) : Word := BitVec.ofNat 64 (entry j % 2 ^ 23 / 8 * 8)
     let emits (j : Nat) := laneOn 32 (s.me.rm m.toNat) j && decide ((thresh : Int) ≤ |change j|) && decide (2 ^ 63 ≤ entry j)
     let lanes := (List.range 16).filter emits
     let delta (j : Nat) : Int := max (-127) (min (change j) 127)
     isSvc s.focus = false →
     (s.VReady { reads := [useV vs, useX rs1] ++ (if m = 0 then [] else [useM m]), writes := [useX rd] } [vs.toNat] rv none →
       (thresh = 0 → exec (.sdq rd vs rs1 m stl) s = .next (s.leaveSendQ.illegal (.sdq rd vs rs1 m stl))) ∧
       (thresh ≠ 0 → (a % 64 ≠ 0 → exec (.sdq rd vs rs1 m stl) s = .next (s.sendTrap 2 (s.me.rx rs1.toNat))) ∧
       (a % 64 = 0 → sd % 2 ^ 17 % 8 ≠ 0 →
         exec (.sdq rd vs rs1 m stl) s = .next (s.sendTrap 2 (BitVec.ofNat 64 (sd % 2 ^ 17)))) ∧
       (a % 64 = 0 → sd % 2 ^ 17 % 8 = 0 →
         (∀ j < 16, laneOn 32 (s.me.rm m.toNat) j = true → off j < s.padSize s.focus ∧ tab j < s.padSize s.focus ∧
           poisonedAt s.myCore.padPoison (off j) 4 = false ∧ poisonedAt s.myCore.padPoison (tab j) 8 = false) →
         (∀ j ∈ lanes, s.targetOk (target j) = true) → (lanes = [] ∨ s.MaySend lanes.length) →
         ∃ t : State, exec (.sdq rd vs rs1 m stl) s = .next t ∧
           t.me = ((s.fetchWindows.consumed [vs.toNat] rv).varX rd.toNat (BitVec.ofNat 64 (lanes.map fun j => 2 ^ j).sum)).next stl ∧
           (∀ j ∈ lanes, t.padRead s.focus (off j) 4 = ((sent j + delta j) % 2 ^ 32).toNat) ∧
           (∀ k b, k ≠ s.focus ∨ (∀ j ∈ lanes, b < off j ∨ off j + 4 ≤ b) →
             cell (t.core k).pad b = cell (s.core k).pad b) ∧ s.SameMem t ∧
           ∃ ps, (t.core s.focus).outFlits = s.myCore.outFlits ++ ps ∧ ps.length = lanes.length ∧
             ∀ i j, lanes[i]? = some j →
               ps[i]? = some (s.packetTo (target j) ch ((entry j / 2 ^ 32 % 2 ^ 16 + o j % group) % 2 ^ 16)
                 (BitVec.ofInt 8 (delta j)).toNat false
                 ((s.seqOf (target j) ch + (lanes.take i).countP fun l => target l == target j) % 256))))))

/-- R188, R181, R187, R175, R194: the dispatch of a channel's oldest entry to a free context with its arguments; a repartition with the
entries that the last admission or end of a coach writes (log 87), each once, which keeps every queued entry's place; a parity error
that marks and logs an entry; a flit that fails its CRC on a hop counted and sent again; a sleeping core's clocks gated. -/
def Obligations.EventQueueSteps : Prop :=
  ∀ (s : State) (r : List Event) (k ch c i : Nat) (l : List (Nat × Word)) (p : BitVec 128),
    (s.agenda = .eventDispatch k ch c :: r → s.nextWork k = some (.event ch) → s.freeCtx k c = true →
      let w := (s.core k).chtab.get ch 0
      ∀ (a b : List Entry) (e : Entry) (co : Coach), (s.core k).queue = a ++ e :: b → (∀ x ∈ a, x.channel.toNat ≠ ch) → e.channel.toNat = ch →
        (s.cluster (clusterOf k)).coachIn (w.toNat / 2 ^ 48 % 8) = some co →
        ∃ t : State, exec .eventDispatch s = .next t ∧ (t.core k).queue = a ++ b ∧ (t.ctx k c).handlerOf = some ch ∧
          (t.ctx k c).Started co (w &&& 0x0000FFFFFFFFFFFC#64)
            [BitVec.ofNat 64 e.index.toNat, BitVec.ofInt 64 e.sum.toInt, BitVec.ofNat 64 (e.src.toNat / 8 * 8),
             BitVec.ofNat 64 (e.seq.toNat * 2 ^ 24 + e.perr.toNat * 2 ^ 16 + e.count % 256 * 2 ^ 8 + ch)]
            (w.toNat / 2 ^ 61 % 4) co.tile ∧
          s.SameMem t ∧ s.SamePads t ∧ s.SameCtxsBut t k c) ∧
    (s.agenda = .repartition k l :: r → s.hasCompute k = true → (∀ e ∈ l, chEn e.2 = true ∨ e.2 = 0) →
      ((∃ e ∈ l, e ∉ (s.core k).due) → exec .repartition s = .next s.pop) ∧
      ((∀ e ∈ l, e ∈ (s.core k).due) → (s.core k).mayRepartition l = true →
        ∃ t : State, exec .repartition s = .next t ∧ (t.core k).queue = (s.core k).queue ∧ t.agenda = r ∧
          (∀ n, n ∉ l.map (fun e => e.1 % 64) → (t.core k).chtab.get n 0 = (s.core k).chtab.get n 0) ∧
          (∀ a e b, l = a ++ e :: b → e.1 % 64 ∉ b.map (fun e => e.1 % 64) →
            (t.core k).chtab.get (e.1 % 64) 0 = e.2 &&& ~~~3#64) ∧
          ∀ e, e ∈ (t.core k).due ↔ e ∈ (s.core k).due ∧ e ∉ l)) ∧
    (s.agenda = .eventParityError k i :: r → ∀ e, (s.core k).queue[i]? = some e → e.perr = false →
      let owner := ((s.core k).chtab.get e.channel.toNat 0).toNat / 2 ^ 48 % 8
      exec .eventParityError s = .next
        ((s.pop.updCore k fun co => { co with queue := co.queue.set i { e with perr := true } }).logCore k 4
          (match (s.cluster (clusterOf k)).coachIn owner with | some c => c.lid | none => 0)
          (BitVec.ofNat 64 e.src.toNat) (BitVec.ofNat 64 (e.channel.toNat * 2 ^ 16 + e.index.toNat)))) ∧
    (s.agenda = .flitHopResend p :: r → flitOk p = false →
      exec .flitHopResend s = .next { s.pop with flitErrors := s.flitErrors + 1 }) ∧
    (s.agenda = .clockGate k :: r → isSvc k = false → (∀ q ∈ (s.core k).ctxs, q.2.sleeps = true ∨ s.awaitsStream k q.2 = true) →
      exec .clockGate s = .next (s.pop.updCore k fun co => { co with gated := true }))

/-! ### Tasks and barriers -/

/-- R203 to R206, R208: EXIT and MIGR end the task (and MIGR sends its record, waiting while no record can be taken); SPAWN
puts a record into the target's bank or runs the child inline; YIELD stops for a pre-emption or is passed over once; JOBCARD
takes a free place or answers why not. Those that publish what the task did follow every stream read that has issued (R172, R287; log
6): they wait while `finishReads` stops. SPAWN is decided at its issue (log 67), a card's counter is as log 42 says, and what a YIELD
that does not stop leaves pending is log 71. -/
def Obligations.TaskInstructions : Prop :=
  ∀ (s : State) (rd rs1 rs2 : Reg) (p1 p2 : Pair) (stl : Stall), isSvc s.focus = false →
    let w := s.me.rx rs1.toNat
    let child : Word := s.me.rx rs2.toNat &&& ~~~3#64
    let k := w.toNat / 2 ^ 3 % 2 ^ 13
    let named := w.toNat / 2 ^ 16 % 2 ^ 7 = s.pkg ∧ s.mapped (w.toNat / 2 ^ 11 % 2 ^ 5) = true
    let waits (i : Instr) : Prop := ∀ t, s.finishReads = .stop t → exec i s = .next t
    let rec' (n : Nat) (origin : BitVec 3) : Record :=
      { pc := s.me.rx rs2.toNat &&& 0x0000FFFFFFFFFFFC#64, lid := s.me.lid, cls := s.me.cls, args := (List.range n).map fun i => s.me.rx (10 + i), origin := origin
        tile := s.me.tile }
    (s.me.card = none → ∃ t : State, exec (.exit stl) s = .next t ∧ s.TaskEnds t s.focus s.active) ∧
    (∀ cl n j, s.me.card = some (cl, n) → (s.cluster cl).cards.find? n = some j →
      let left := if j.ended + 1 = j.w2.toNat / 2 ^ 32 then none else some { j with ended := j.ended + 1 }
      (j.w3.toNat / 2 ^ 16 = 0 → ∃ t : State, exec (.exit stl) s = .next t ∧ s.TaskEnds t s.focus s.active ∧
        (t.cluster cl).cards.find? n = left) ∧
      ∀ pa, j.w3.toNat / 2 ^ 16 ≠ 0 →
        s.reach .flat .readWrite (BitVec.ofNat 64 (j.w3.toNat / 2 ^ 16)) 8 = .ok (.mem pa) → poisonedAt s.poison pa 8 = false →
          s.lineBlocked ioHolder (lineOf pa) true (some (s.focus, s.active)) = false →
          waits (.exit stl) ∧ ∀ u, s.finishReads = .on u →
            ∃ t : State, exec (.exit stl) s = .next t ∧ (t.ctx s.focus s.active).run = .idle ∧ s.SameMemBut t pa 8 ∧
              (t.cluster cl).cards.find? n = left ∧
              t.memRead pa 8 = (s.memRead pa 8 + 1) % 2 ^ 64) ∧
    (s.me.hazard { reads := [useX rs1, useX rs2, (.x, 10), (.x, 11), (.x, 12), (.x, 13)], writes := [(.x, 1)] } = none →
      (¬ named → exec (.spawn rs1 rs2 stl) s = .next (s.trap 3 w)) ∧
      (named → waits (.spawn rs1 rs2 stl) ∧ ∀ u, s.finishReads = .on u →
        (s.bankFree k = true → exec (.spawn rs1 rs2 stl) s =
          .next ((u.updCore k fun co => { co with arrivals := co.arrivals ++ [{ rec' 4 1 with since := s.ptc }], gated := false }).done
            stl id)) ∧
        (s.bankFree k = false → ∃ t : State, exec (.spawn rs1 rs2 stl) s = .next t ∧ u.OnlyMe t ∧
          t.me.rx 1 = s.me.pc + 4 ∧ t.me.pc = child))) ∧
    (s.me.hazard { reads := [useX rs1, useX rs2] ++ (List.range 7).map fun i => (.x, 10 + i) } = none →
      (¬ named → exec (.migr rs1 rs2 stl) s = .next (s.trap 3 w)) ∧
      (named → s.recordRoom k = false → exec (.migr rs1 rs2 stl) s = .next (s.wait (.ring k))) ∧
      (named → s.recordRoom k = true → s.me.card = none → waits (.migr rs1 rs2 stl) ∧ ∀ u, s.finishReads = .on u →
        ∃ t : State, exec (.migr rs1 rs2 stl) s = .next t ∧
          t.records = s.records ++ [(k, rec' 7 2)] ∧ s.TaskEnds t s.focus s.active)) ∧
    (s.me.preq = true → ∃ t : State, exec (.yield stl) s = .next t ∧ s.OnlyMe t ∧ t.me.run = .yielded ∧ t.me.pc = s.me.pc + 4 ∧
      t.me.reserve = none ∧ t.me.pend = []) ∧
    (s.me.preq = false → exec (.yield stl) s = .next (s.setMe { s.me.next stl with passed := true, reserve := none })) ∧
    (s.me.hazard { reads := usePairs p1 p2, writes := [useX rd] } = none →
      let w1 := s.me.rx (2 * p1.toNat + 1)
      let w2 := s.me.rx (2 * p2.toNat)
      let w3 := s.me.rx (2 * p2.toNat + 1)
      let size := w2.toNat % 2 ^ 6
      let count := w2.toNat / 2 ^ 32
      let good := 0 < size ∧ size ≤ 56 ∧ size % 8 = 0 ∧ w3.toNat % 2 ^ 4 ≠ 0 ∧ w1.toNat % 8 = 0 ∧ w3.toNat / 2 ^ 16 % 8 = 0
      let free (n : Nat) := s.myCluster.cards.find? n = none
      let answers (t : State) (n : Nat) :=
        exec (.jobcard rd p1 p2 stl) s = .next (t.done stl fun c => c.varX rd.toNat (BitVec.ofNat 64 n))
      (¬ good → answers s 2) ∧
      (good → count = 0 → waits (.jobcard rd p1 p2 stl) ∧ ∀ u, s.finishReads = .on u → answers u 0) ∧
      (good → count ≠ 0 → (∀ n < 4, ¬ free n) → answers s 1) ∧
      (good → count ≠ 0 → ∀ n < 4, free n → (∀ i < n, ¬ free i) →
        let card : Card := { w0 := s.me.rx (2 * p1.toNat), w1 := w1, w2 := w2, w3 := w3, lid := s.me.lid, asid := s.me.asid
                             tile := s.me.tile, cls := s.me.cls, coach := s.me.coach.getD 0 }
        waits (.jobcard rd p1 p2 stl) ∧ ∀ u, s.finishReads = .on u →
          answers (u.updCluster (clusterOf s.focus) fun x => { x with cards := x.cards.set n card }) 0))

/-- R207, R209, R306, R311 to R314, R370: a record arrives in its core's bank or in the spill buffer, and waits where neither has
room; the spill engine writes a record to its ring slot and returns the oldest one, or withdraws it when it is poisoned; a
withdrawn record is logged and its launch marked failed; a free context starts a record of a startable coach; a job card gives its
next chunk, deals its records, and their tasks start, trapped where the record faulted (when a record is read, and what its faults do, is
log 16; which core is given a chunk is log 17; the order of the spill buffer and the ring is log 61). A step of a cluster's cards first
tries the counters that KILL left owed: one that can be reached receives its 1 (R209, R350; log 42). Accesses that lack tokens wait
(R272; log 38). -/
def Obligations.TaskStarts : Prop :=
  ∀ (s : State) (r : List Event) (k c n i cl j : Nat),
    let x := s.cluster (clusterOf k)
    let bank := (s.core k).arrivals
    let free := bank.length < 48 ∧ (∀ g ∈ x.ring, g.core ≠ k) ∧ ∀ p ∈ x.spill, p.1 ≠ k
    let room := x.spill.length < 256 ∧ x.ring.length + x.spill.length < x.ringSlots
    let withBank (u : State) (l : List Record) : State := u.updCore k fun co => { co with arrivals := l, gated := false }
    (s.agenda = .recordArrival k :: r → ∀ a b y, s.records = a ++ (k, y) :: b → (∀ y ∈ a, y.1 ≠ k) →
      let y' : Record := { y with since := s.ptc }
      (free → exec .recordArrival s = .next { withBank s.pop (bank ++ [y']) with records := a ++ b }) ∧
      (¬ free → room → exec .recordArrival s = .next
        { s.pop.updCluster (clusterOf k) (fun x => { x with spill := x.spill ++ [(k, y')] }) with records := a ++ b }) ∧
      (¬ free → ¬ room → exec .recordArrival s = .next s.pop)) ∧
    (s.agenda = .ringReturn k :: r →
      (∀ a b g, bank.length < 48 → x.ring = a ++ g :: b → (∀ h ∈ a, h.core ≠ k) → g.core = k →
        let at' := s.slotAddr (clusterOf k) g.slot
        let w (i : Nat) : Nat := s.memRead (at' + 8 * i) 8
        (s.lineBlocked (clusterOf k / 64) (at' / 128) false = true →
          exec .ringReturn s = .next (s.pop.want (clusterOf k / 64) (at' / 128) false (.ring (clusterOf k)))) ∧
        (s.lineBlocked (clusterOf k / 64) (at' / 128) false = false →
        ∃ (t : State) (y : Record), exec .ringReturn s = .next t ∧ s.SameMem t ∧ s.SamePads t ∧ y.pc.toNat = 4 * (w 0 / 2 ^ 18) ∧
          y.lid.toNat = w 0 / 4 % 2 ^ 16 ∧ y.cls.toNat = w 0 % 4 ∧ y.args = (List.range 7).map (fun i => BitVec.ofNat 64 (w (i + 1))) ∧
          y.cardCnt = decide (w 8 / 2 ^ 54 % 2 = 1) ∧ y.card.toNat = w 8 / 2 ^ 52 % 4 ∧ y.origin.toNat = w 8 / 2 ^ 48 % 8 ∧
          y.tile.toNat = w 8 % 2 ^ 48 ∧ (t.cluster (clusterOf k)).ring = a ++ b ∧
          if poisonedAt s.poison at' 72 then
            (t.core k).arrivals = bank ∧ (∃ e, t.forward = s.forward ++ [e] ∧ (s.pkg < 128 → k < 10240 → e.w1.toNat / 2 ^ 56 = 10)) ∧
            ∀ l, s.launches.find? y.lid.toNat = some l →
              ∃ m : Launch, t.launches.find? y.lid.toNat = some m ∧ m.failed = true
          else (t.core k).arrivals = bank ++ [y])) ∧
      (∀ a b y, bank.length < 48 → (∀ h ∈ x.ring, h.core ≠ k) → x.spill = a ++ (k, y) :: b → (∀ p ∈ a, p.1 ≠ k) →
        exec .ringReturn s =
          .next (withBank (s.pop.updCluster (clusterOf k) fun x => { x with spill := a ++ b }) (bank ++ [y]))) ∧
      (∀ m y rest, 48 ≤ bank.length ∨ ((∀ h ∈ x.ring, h.core ≠ k) ∧ ∀ p ∈ x.spill, p.1 ≠ k) → x.spill = (m, y) :: rest → ∀ g < x.ringSlots, (∀ h ∈ x.ring, h.slot ≠ g) →
        (∀ f < g, ∃ h ∈ x.ring, h.slot = f) →
        let at' := s.slotAddr (clusterOf k) g
        (s.lineBlocked (clusterOf k / 64) (at' / 128) true = true →
          exec .ringReturn s = .next (s.pop.want (clusterOf k / 64) (at' / 128) true (.spill (clusterOf k)))) ∧
        (s.lineBlocked (clusterOf k / 64) (at' / 128) true = false →
        ∃ t : State, exec .ringReturn s = .next t ∧ s.SameMemBut t at' 128 ∧ s.SamePads t ∧ (t.cluster (clusterOf k)).spill = rest ∧
          (t.cluster (clusterOf k)).ring = x.ring ++ [⟨m, g, y.since, y.late, y.fault⟩] ∧
          t.memRead at' 8 = (y.pc.toNat % 2 ^ 48 / 4 * 2 ^ 18 + y.lid.toNat * 4 + y.cls.toNat) % 2 ^ 64 ∧
          (∀ i < 7, t.memRead (at' + 8 * (i + 1)) 8 = (y.args.getD i 0).toNat) ∧
          t.memRead (at' + 64) 8 = (if y.cardCnt then 2 ^ 54 else 0) + y.card.toNat * 2 ^ 52 + y.origin.toNat * 2 ^ 48 + y.tile.toNat ∧
          ∀ i < 56, cell t.mem (at' + 72 + i) = 0))) ∧
    (∀ place, s.agenda = .bankRecordWithdrawn k place i :: r → ∀ m y u,
      (place = .arrival → bank[i]? = some y ∧ m = k ∧ u = s.pop.updCore k fun co => { co with arrivals := co.arrivals.eraseIdx i }) →
      (place = .staged → (x.staged[i]?).map (fun g => (g.core, g.record)) = some (m, y) ∧
        u = s.pop.updCluster (clusterOf k) fun x => { x with staged := x.staged.eraseIdx i }) →
      (place = .spill → x.spill[i]? = some (m, y) ∧
        u = s.pop.updCluster (clusterOf k) fun x => { x with spill := x.spill.eraseIdx i }) →
      ∃ t : State, exec .bankRecordWithdrawn s = .next t ∧ t = u.withdraw m y ∧
        (∃ e, t.forward = s.forward ++ [e] ∧ (s.pkg < 128 → m < 10240 →
          e.w1.toNat / 2 ^ 56 = 10 ∧ e.w1.toNat / 2 ^ 32 % 2 ^ 16 = y.lid.toNat)) ∧
        (∀ l, s.launches.find? y.lid.toNat = some l → ∃ m : Launch, t.launches.find? y.lid.toNat = some m ∧ m.failed = true) ∧
        s.SameMem t ∧ s.SamePads t) ∧
    (s.agenda = .recordStart k c :: r → s.freeCtx k c = true → s.nextWork k = some (.record i) →
      ∀ y co, bank[i]? = some y → s.startCoach (clusterOf k) y.lid = some co →
        ∃ t : State, exec .recordStart s = .next t ∧
          (t.core k).arrivals.map (fun y => { y with passed := false }) = (bank.eraseIdx i).map (fun y => { y with passed := false }) ∧
          (t.ctx k c).Started co y.pc y.args y.cls.toNat y.tile ∧
          (t.ctx k c).card = (if y.origin = 3 then some (clusterOf k, y.card.toNat) else none) ∧
          s.SameMem t ∧ s.SamePads t ∧ s.SameCtxsBut t k c) ∧
    (∀ u, u = s.pop.payOwed cl →
      ((s.cluster cl).owed = [] → s.SameMem u ∧ s.SamePads u ∧ u.cores = s.cores ∧ (u.cluster cl).owed = []) ∧
      ∀ (d : Nat) (asid : BitVec 13) (a : Word), (s.cluster cl).owed = [(d, asid, a)] → s.SamePads u ∧
        (∀ pa, s.reachFor d asid false .flat .readWrite a = .ok (.mem pa) → poisonedAt s.poison pa 8 = false →
          s.lineBlocked ioHolder (pa / 128) true = false →
          u.memRead pa 8 = (s.memRead pa 8 + 1) % 2 ^ 64 ∧ s.SameMemBut u pa 8 ∧ (u.cluster cl).owed = []) ∧
        (∀ va, s.reachFor d asid false .flat .readWrite a = .miss .readWrite va ∨ s.reachFor d asid false .flat .readWrite a = .absent va →
          clusterOf d = cl → s.SameMem u ∧ (u.cluster cl).owed = [(d, asid, a)])) ∧
    (s.agenda = .jobCardDeal cl n j :: r → j < 4 → (s.cluster cl).owed = [] →
      ∀ y, (s.cluster cl).cards.find? n = some y → s.jobFrozen y.lid.toNat = false →
      let total := y.w2.toNat / 2 ^ 32
      let cores := (List.range 4).countP fun i => y.w3.getLsbD i
      let size := y.w2.toNat % 2 ^ 6
      (y.next < total → y.w3.getLsbD j = true → (∀ h ∈ y.chunks, h.1 = j → h.2.2 ≤ h.2.1) →
        (∃ c < 8, s.freeCtx (4 * cl + j) c = true) → s.recordRoom (4 * cl + j) = true →
        let upto := min total (y.next + max 1 ((total - y.next + 2 * cores - 1) / (2 * cores)))
        ∃ (t : State) (z : Card), exec .jobCardDeal s = .next t ∧ (t.cluster cl).cards.find? n = some z ∧ z.next = upto ∧
          (j, y.next, upto) ∈ z.chunks ∧ (∀ h ∈ y.chunks, h.1 ≠ j → h ∈ z.chunks) ∧ s.SameMem t ∧ s.SamePads t) ∧
      ∀ lo hi, y.chunks.find? (fun h => h.1 == j && decide (h.2.1 < h.2.2)) = some (j, lo, hi) → clusterOf k = cl → k % 4 = j →
        isSvc k = false → free →
        let base : Word := BitVec.ofNat 64 (y.w1.toNat + size * lo)
        let reads (i : Nat) : Reach := s.reachFor k y.asid false .flat .read (base + BitVec.ofNat 64 (8 * i))
        let fits (i : Nat) : Prop := ∃ pa, reads i = .ok (.mem pa) ∧ poisonedAt s.poison pa 8 = false ∧
          s.lineBlocked (vdnOf k) (pa / 128) false = false
        let deals (args : List Word) (late fault : Option Word) : Prop :=
          ∃ (t : State) (z : Record), exec .jobCardDeal s = .next t ∧ (t.core k).arrivals = bank ++ [z] ∧
            (t.cluster cl).cards.find? n = some { y with chunks := y.chunks.map fun h => if h.1 = j then (h.1, h.2.1 + 1, h.2.2) else h } ∧
            z.pc = y.w0 &&& 0x0000FFFFFFFFFFFC#64 ∧ z.lid = y.lid ∧ z.cls = y.cls ∧ z.args = args ∧ z.origin = 3 ∧
            z.card.toNat = n % 4 ∧ z.cardCnt = decide (y.w3.toNat / 2 ^ 16 ≠ 0) ∧ z.tile = y.tile ∧ z.late = late ∧ z.fault = fault ∧
            s.SameMem t ∧ s.SamePads t
        (∀ args : List Word, args.length = size / 8 →
          (∀ i < args.length, ∃ pa, reads i = .ok (.mem pa) ∧ poisonedAt s.poison pa 8 = false ∧
            s.lineBlocked (vdnOf k) (pa / 128) false = false ∧ args[i]? = some (BitVec.ofNat 64 (s.memRead pa 8))) → deals args none none) ∧
        ∀ i < size / 8, (∀ h < i, fits h) → (∀ va, reads i = .absent va → deals [] (some base) none) ∧
          (∀ va, reads i = .trap 3 va → deals [] none (some base))) ∧
    (s.agenda = .cardTaskStart k n c :: r → (s.cluster (clusterOf k)).owed = [] → s.freeCtx k c = true → s.nextWork k = some (.card i) →
      ∀ y co, bank[i]? = some y → y.late = none → s.startCoach (clusterOf k) y.lid = some co →
        ∃ t : State, exec .cardTaskStart s = .next t ∧
          (t.core k).arrivals.map (fun y => { y with passed := false }) = (bank.eraseIdx i).map (fun y => { y with passed := false }) ∧
          s.SameMem t ∧ s.SamePads t ∧ s.SameCtxsBut t k c ∧
          (y.fault = none → (t.ctx k c).Started co y.pc y.args y.cls.toNat y.tile ∧
            (t.ctx k c).card = (if y.origin = 3 then some (clusterOf k, y.card.toNat) else none)) ∧
          ∀ a, y.fault = some a → (t.ctx k c).run = .trapped ∧ (t.ctx k c).cause.toNat = 3 ∧ (t.ctx k c).tval = a ∧
            (t.ctx k c).lid = co.lid)

/-- R210 to R213: BARINIT replaces a barrier that no other launch owns and no slot has arrived at; BARARV arrives and gives the phase;
BARWAIT waits for its phase to complete; BARSYNC does both. A task of another launch, and one that is no member, traps with the
barrier's number. An arrival follows every stream read that has issued (R172, R287; log 6). Which slot a context without a coach has is
log 73; a BARSYNC executed again is log 63. -/
def Obligations.BarrierInstructions : Prop :=
  ∀ (s : State) (rd rs1 rs2 : Reg) (stl : Stall),
    let b := (s.me.rx rs1.toNat).toNat % 16
    let x := s.myCluster.bars.get b {}
    let mine := x.members = 0 ∨ x.owner = s.me.lid
    let member := x.members.getLsbD (slotOf s.focus s.active) = true
    let phase : Word := if x.phase then 1 else 0
    (s.me.hazard { reads := [useX rs1, useX rs2], writes := [useX rd] } = none →
      (mine ∧ x.arrived = 0 →
        let y : Barrier := { members := BitVec.ofNat 32 (s.me.rx rs2.toNat).toNat, phase := x.phase, owner := s.me.lid }
        exec (.barinit rd rs1 rs2 stl) s = .next
          ((s.updCluster (clusterOf s.focus) fun cl => { cl with bars := cl.bars.set b y }).done stl
            fun c => c.varX rd.toNat 0)) ∧
      (¬ (mine ∧ x.arrived = 0) → exec (.barinit rd rs1 rs2 stl) s = .next (s.done stl fun c => c.varX rd.toNat 2))) ∧
    (s.me.hazard { reads := [useX rs1], writes := [useX rd] } = none →
      (¬ (mine ∧ member) → exec (.bararv rd rs1 stl) s = .next (s.trap 3 (BitVec.ofNat 64 b))) ∧
      (mine ∧ member → (∀ t, s.finishReads = .stop t → exec (.bararv rd rs1 stl) s = .next t) ∧ ∀ u, s.finishReads = .on u →
        ∃ t : State, exec (.bararv rd rs1 stl) s = .next t ∧ u.Arrived t b ∧
          t.me.rx rd.toNat = ((s.me.varX rd.toNat phase).next stl).rx rd.toNat ∧ t.me.pc = s.me.pc + 4 ∧
          s.SameMem t ∧ s.SamePads t)) ∧
    (s.me.hazard { reads := [useX rs1, useX rs2] } = none →
      let p := (s.me.rx rs2.toNat).getLsbD 0
      (s.me.released = true ∨ x.members = 0 ∨ (mine ∧ x.phase ≠ p) →
        exec (.barwait rs1 rs2 stl) s = .next (s.done stl id)) ∧
      (s.me.released = false → ¬ mine → exec (.barwait rs1 rs2 stl) s = .next (s.trap 3 (BitVec.ofNat 64 b))) ∧
      (s.me.released = false → x.members ≠ 0 → mine → x.phase = p →
        exec (.barwait rs1 rs2 stl) s = .next (s.wait (.barrier b p)))) ∧
    (s.me.hazard { reads := [useX rs1] } = none →
      (s.me.released = true → exec (.barsync rs1 stl) s = .next (s.done stl id)) ∧
      (s.me.released = false → s.me.arrivedAt = none →
        (¬ (mine ∧ member) → exec (.barsync rs1 stl) s = .next (s.trap 3 (BitVec.ofNat 64 b))) ∧
        (mine ∧ member → (∀ t, s.finishReads = .stop t → exec (.barsync rs1 stl) s = .next t) ∧ ∀ u, s.finishReads = .on u →
          ∃ t : State, exec (.barsync rs1 stl) s = .next t ∧ u.Arrived t b ∧ s.SameMem t ∧ s.SamePads t ∧
          if ((t.cluster (clusterOf s.focus)).bars.get b {}).phase = x.phase then
            t.me.run = .waiting (.barrier b x.phase) ∧ t.me.pc = s.me.pc ∧ t.me.arrivedAt = some (b, x.phase)
          else t.me.run = .ready ∧ t.me.pc = s.me.pc + 4)) ∧
      ∀ b' p, s.me.released = false → s.me.arrivedAt = some (b', p) →
        let y := s.myCluster.bars.get b' {}
        (y.phase ≠ p ∨ y.members = 0 → exec (.barsync rs1 stl) s = .next (s.done stl id)) ∧
        (y.phase = p → y.members ≠ 0 → exec (.barsync rs1 stl) s = .next (s.wait (.barrier b' p))))

/-! ### Tags, counters and requests -/

/-- R249 to R254, R327, R329: TARM arms tags and TCLR clears them; TWANY gives the lowest ready tag or waits, TWALL waits for all,
TFFR gives the lowest or −1; a mask beyond the grant is an access fault; a tag with more arrived than expected is FIFO misuse;
CNTWAITGE goes on once the counter has reached its target; each wait first reports the first of the deferred faults that it
observes (log 47); the counter's read follows the stream reads of its location (R113, R172; log 6); a post reaches its tag. -/
def Obligations.TagsAndCounters : Prop :=
  ∀ (s : State) (rd rs1 rs2 : Reg) (stl : Stall),
    let mask := s.me.rx rs1.toNat
    let tag (u : State) (n : Nat) : Tag := (u.core s.focus).tags.get n {}
    let granted := ∀ n < 64, mask.getLsbD n = true → s.myGrant.getLsbD n = true
    let sound := ∀ n < 64, mask.getLsbD n = true → (tag s n).arrived.toNat ≤ (tag s n).expected
    let quiet := ∀ d ∈ s.me.deferred, ∀ n, d.tag = some n → n < 64 → mask.getLsbD n = false
    let ready (n : Nat) := n < 64 ∧ mask.getLsbD n = true ∧ (tag s n).ready = true
    (s.me.hazard { reads := [useX rs1] } = none →
      (granted →
        (∃ t : State, exec (.tarm rs1 stl) s = .next t ∧ s.SameMem t ∧ s.SamePads t ∧ t.me = s.me.next stl ∧
          ∀ n < 64, tag t n = if mask.getLsbD n then { tag s n with armed := true } else tag s n) ∧
        (∃ t : State, exec (.tclr rs1 stl) s = .next t ∧ s.SameMem t ∧ s.SamePads t ∧ t.me = s.me.next stl ∧
          ∀ n < 64, tag t n = if mask.getLsbD n then {} else tag s n) ∧
        (sound → quiet →
          ((∀ n < 64, mask.getLsbD n = true → (tag s n).ready = true) → exec (.twall rs1 stl) s = .next (s.done stl id)) ∧
          (∀ n < 64, mask.getLsbD n = true → (tag s n).ready = false →
            exec (.twall rs1 stl) s = .next (s.wait (.tagAll mask)))) ∧
        (sound → s.Reports (.twall rs1 stl) fun d => ∃ n, d.tag = some n ∧ mask.getLsbD n = true) ∧
        (¬ sound → ∃ past : Word, (∀ n < 64, past.getLsbD n = true ↔ mask.getLsbD n = true ∧ (tag s n).expected < (tag s n).arrived.toNat) ∧
          exec (.twall rs1 stl) s = .next (s.trap 8 past))) ∧
      (¬ granted → exec (.tarm rs1 stl) s = .next (s.trap 3 mask) ∧ exec (.tclr rs1 stl) s = .next (s.trap 3 mask) ∧
        exec (.twall rs1 stl) s = .next (s.trap 3 mask))) ∧
    (s.me.hazard { reads := [useX rs1], writes := [useX rd] } = none →
      (¬ granted → exec (.twany rd rs1 stl) s = .next (s.trap 3 mask) ∧ exec (.tffr rd rs1 stl) s = .next (s.trap 3 mask)) ∧
      (granted → ¬ sound → ∃ past : Word,
        (∀ n < 64, past.getLsbD n = true ↔ mask.getLsbD n = true ∧ (tag s n).expected < (tag s n).arrived.toNat) ∧
        exec (.twany rd rs1 stl) s = .next (s.trap 8 past) ∧ exec (.tffr rd rs1 stl) s = .next (s.trap 8 past)) ∧
      (granted → sound → (s.Reports (.twany rd rs1 stl) fun d => ∃ n, d.tag = some n ∧ mask.getLsbD n = true) ∧
        (s.Reports (.tffr rd rs1 stl) fun d => ∃ n, d.tag = some n ∧ mask.getLsbD n = true)) ∧
      (granted → sound → quiet →
        (∀ n, ready n → (∀ i < n, ¬ ready i) →
          exec (.twany rd rs1 stl) s = .next (s.done stl fun c => c.varX rd.toNat (BitVec.ofNat 64 n)) ∧
          exec (.tffr rd rs1 stl) s = .next (s.done stl fun c => c.varX rd.toNat (BitVec.ofNat 64 n))) ∧
        ((∀ n, ¬ ready n) →
          (mask ≠ 0 → exec (.twany rd rs1 stl) s = .next (s.wait (.tagAny mask))) ∧
          (mask = 0 → exec (.twany rd rs1 stl) s = .next (s.done stl fun c => c.varX rd.toNat 0xFFFFFFFFFFFFFFFF)) ∧
          exec (.tffr rd rs1 stl) s = .next (s.done stl fun c => c.varX rd.toNat 0xFFFFFFFFFFFFFFFF)))) ∧
    (s.me.hazard { reads := [useX rs1, useX rs2] } = none → ∀ pa, s.reach .flat .read mask 8 = .ok (.mem pa) →
      (s.Reports (.cntwaitge rs1 rs2 stl) fun d => d.counter ≠ 0 ∧ d.counter = mask.toNat) ∧
      (poisonedAt s.poison pa 8 = false → (∀ d ∈ s.me.deferred, d.counter = 0 ∨ d.counter ≠ mask.toNat) →
      let target := (s.me.rx rs2.toNat).toNat
      let u := s.fetchWindows.noteRead mask (.mem pa)
      (target ≤ s.memRead pa 8 → exec (.cntwaitge rs1 rs2 stl) s = .next (u.done stl id)) ∧
      (s.memRead pa 8 < target → ∃ t : State, exec (.cntwaitge rs1 rs2 stl) s = .next t ∧
        t.me.run = .waiting (.counter mask (s.me.rx rs2.toNat)) ∧ t.me.pc = s.me.pc ∧ s.SameMem t ∧ s.SamePads t))) ∧
    ∀ (r : List Event) (k dst : Nat), s.agenda = .tagPost k dst :: r → ∀ (a b : List Post) (p : Post), s.posts = a ++ p :: b → p.src = k → p.dst = dst →
      (∀ q ∈ a, q.src ≠ k ∨ q.dst ≠ dst) →
        ∃ t : State, exec .tagPost s = .next t ∧ t.posts = a ++ b ∧ s.SameMem t ∧ s.SamePads t ∧
          TagPosted ((s.core dst).tags.get p.tag {}) ((t.core dst).tags.get p.tag {}) p.bytes ∧
          ∀ n, n ≠ p.tag → (t.core dst).tags.get n {} = (s.core dst).tags.get n {}

/-- R241, R243 to R245, R247, R249, R256, R259, R302: a request of the command FIFO is checked in the order of R247; accepted, it
joins its core's FIFO last and its posts leave for the tags of its receivers, and rd is 0; otherwise rd is the code. CPUSH traps
or waits instead. Which requests count toward the eight is log 39; a page of its FLAT destination or base that no TLB holds is waited for
(log 40), and what else R247 leaves open is log 47. -/
def Obligations.RequestIssue : Prop :=
  ∀ (s : State) (rd : Reg) (p q : Pair) (stl : Stall), isSvc s.focus = false →
    let w0 := s.me.rx (2 * p.toNat)
    let w1 := s.me.rx (2 * p.toNat + 1)
    let w2 := s.me.rx (2 * q.toNat)
    let w3 := s.me.rx (2 * q.toNat + 1)
    let held := s.myCore.reqs.countP fun r => !r.failed
    let tag := w3.toNat % 64
    let tagged : Prop := w3.getLsbD 7 = true
    let foreign (kind : ReqKind) : Prop := (kind = .get ∧ fieldOf w0 62 56 ∉ s.domain) ∨
      ((kind = .put ∨ kind = .redcopy) ∧ fieldOf w1 62 56 ∉ s.domain)
    let bad (kind : ReqKind) : Prop := ReqMalformed kind w0 w1 w2 w3 ∨ foreign kind ∨
      (tagged ∧ s.myGrant.getLsbD tag = false) ∨ ¬ s.ReqSidesPass s.focus kind w0 w1 w2 w3
    let page (kind : ReqKind) : Option Word := (s.ReqBase kind w0 w1).bind (s.tlbHit s.focus s.me.asid)
    let windowed (kind : ReqKind) : Prop := ∃ pte, page kind = some pte ∧ fieldOf pte 63 62 = 1
    let beyond (kind : ReqKind) : Prop := tagged ∧ ∃ d ∈ ReqTargets s.focus kind w1,
      2 ^ 31 ≤ ((s.core d).tags.get tag {}).expected + ReqPosts kind w2
    let Decides (kind : ReqKind) (missed : Word → Prop) (code : Nat → Prop) : Prop :=
      (bad kind → code 2) ∧
      (¬ bad kind →
        (∀ a, s.ReqBase kind w0 w1 = some a → page kind = none → missed (BitVec.ofNat 64 a)) ∧
        (windowed kind → code 2) ∧
        (s.ReqBase kind w0 w1 = none ∨ (page kind).isSome → ¬ windowed kind →
          (beyond kind → code 3) ∧ (¬ beyond kind → 8 ≤ held → code 1) ∧ (¬ beyond kind → held < 8 → code 0)))
    let Accepted (kind : ReqKind) (t : State) : Prop :=
      (∃ x : Req, (t.core s.focus).reqs = s.myCore.reqs ++ [x] ∧ x.kind = kind ∧ x.ctx = s.active ∧ x.asid = s.me.asid ∧
        x.lid = s.me.lid ∧ x.sup = s.me.sup ∧ x.w0 = w0 ∧ x.w1 = w1 ∧ x.w2 = w2 ∧ x.w3 = w3 ∧ x.state = .queued ∧
        x.dones = [] ∧ x.owned = true ∧ x.pc = s.me.pc) ∧
      (t.posts.map fun x => (x.src, x.dst, x.tag, x.bytes)) = (s.posts.map fun x => (x.src, x.dst, x.tag, x.bytes)) ++
        (if w3.getLsbD 7 then (ReqTargets s.focus kind w1).map fun d => (s.focus, d, tag, ReqPosts kind w2) else []) ∧
      s.SameMem t ∧ s.SamePads t
    let access (kind : ReqKind) : Access := match kind with
      | .gather => .read | .scatadd => .readWrite | .redcopy => .readWrite | _ => .write
    let Answers (i : Instr) (kind : ReqKind) : Prop :=
      Decides kind (fun va => exec i s = .next (s.wait (.tlb (access kind) va))) fun n =>
        if n = 0 then ∃ t : State, exec i s = .next t ∧ Accepted kind t ∧
          t.me = ({ s.me with storeIds := s.me.storeIds + 1 }.varX rd.toNat 0).next stl
        else exec i s = .next (s.done stl fun c => c.varX rd.toNat (BitVec.ofNat 64 n))
    (s.me.hazard { reads := usePairs p q, writes := [useX rd] } = none →
      Answers (.cpushnb rd p q stl) .copy ∧ Answers (.gather rd p q stl) .gather ∧ Answers (.scatadd rd p q stl) .scatadd ∧
      Answers (.bin rd p q stl) .bin ∧ Answers (.get rd p q stl) .get ∧ Answers (.put rd p q stl) .put ∧
      Answers (.redcopy rd p q stl) .redcopy) ∧
    (s.me.hazard { reads := usePairs p q } = none →
      Decides .copy (fun va => exec (.cpush p q stl) s = .next (s.wait (.tlb .write va))) fun n =>
        if n = 0 then ∃ t : State, exec (.cpush p q stl) s = .next t ∧ Accepted .copy t ∧
          t.me = { s.me with storeIds := s.me.storeIds + 1 }.next stl
        else if n = 1 then exec (.cpush p q stl) s = .next (s.wait .fifo)
        else exec (.cpush p q stl) s = .next (s.trap 3 (BitVec.ofNat 64 n)))

/-- R241, R247, R253, R254, R257, R258, R301: the steps of the engines. The oldest queued request starts while fewer than four run;
bytes of a copy reach their destination and are counted on the tag, no word of it cut; an element of GATHER lands in the
scratchpad; an element of SCATADD is added to its target; a counter takes bytes already delivered; a request that meets an absent
page halts and parks its task; the earliest halted one goes on once the page is present; an access fault ends it with the tag's
Fault bit and a deferred fault, or a log entry once its task has ended (log 28), and it stays until its parts are answered and its counter
has what it delivered. An engine's read finds what the last write left, or what that replaced where nothing has ordered the two (log 6).
When a halted request goes on is log 39, which addresses fault is log 47, what its task may do meanwhile is log 49. How much a step moves is
the model's choice (log 46). -/
def Obligations.EngineSteps : Prop :=
  ∀ (s : State) (r : List Event) (k num lo len i part : Nat) (x : Req), s.LinesWf → s.req k num = some x →
    let thawed := s.frozenAt k x.lid.toNat = false
    let go := x.state = .running ∧ x.failed = false ∧ thawed
    let posted := ∀ p ∈ s.posts, p.src ≠ k ∨ p.req ≠ num
    let joined (n : Nat) : Prop := x.dstAddr n = x.dstAddr (n - 1) + 1 ∧ (x.dstAddr n).toNat % 4 ≠ 0
    let copying := s.agenda = .copyBytesWritten k num lo len :: r ∧ go ∧ posted ∧ x.kind = .copy ∧ mcast x.w1 = false ∧
      0 < len ∧ lo + len ≤ x.bytes ∧ ∀ d ∈ x.dones, overlaps d.1 d.2 lo len = false
    (s.agenda = .engineRequestStart k :: r → ∀ a b, (s.core k).reqs = a ++ x :: b → x.state = .queued →
      (∀ q ∈ a, q.state ≠ .queued) → thawed →
      exec .engineRequestStart s = .next (if (s.core k).reqs.countP (fun q => q.state == .running) < 4 then
        s.pop.updReq k num fun q => { q with state := .running, begun := true } else s.pop)) ∧
    (copying → ∀ src dst : Nat → Place, (∀ j < len, (src j).Stored ∧ (dst j).Stored) →
      (∀ j < len, (s.engMeet k x (wordMode x.w0) .read (x.srcAddr (lo + j)) 1).met = .ok (src j) ∧
        (s.engMeet k x (wordMode x.w1) .write (x.dstAddr (lo + j)) 1).met = .ok (dst j)) →
      (∀ n, n = lo ∨ n = lo + len → n = 0 ∨ n = x.bytes ∨
        ¬ joined n) →
      (∀ i < len, ∀ j < len, (dst i = dst j → i = j) ∧ src i ≠ dst j) →
      ∃ t : State, exec .copyBytesWritten s = .next t ∧ s.BytesAt t len dst (fun j => match x.kept.find? (lo + j) with
          | some b => BitVec.ofNat 8 b
          | none => s.seenIn x.kind.cls (src j)) ∧ t.Counted k x lo len ∧
        (tagEn x.w3 = true → TagCounted ((s.core k).tag (tagOf x.w3)) ((t.core k).tag (tagOf x.w3)) len)) ∧
    (copying → (0 < lo ∧ joined lo) ∨ (lo + len < x.bytes ∧ joined (lo + len)) → exec .copyBytesWritten s = .next s.pop) ∧
    (s.agenda = .gatherSnapshot k num i part :: r → go → posted → x.kind = .gather → i < sliceCount x.w2 →
      ∀ v, s.listValue k x i = some v →
        let e := gatherSize x.w2
        let a := x.elemAddr v
        let lands (b : Nat) : Word := BitVec.ofNat 64 (x.w2.toNat % 2 ^ 17 + (i * e + b))
        ∀ (b0 : Nat) (src dst : Nat → Place), b0 + len ≤ e → 0 < len →
          (∀ b < e, (a.toNat + b) / 128 = a.toNat / 128 + part ↔ b0 ≤ b ∧ b < b0 + len) → x.isDone (i * e + b0) = false →
          (∀ j < len, (s.engMeet k x .flat .read (a + BitVec.ofNat 64 (b0 + j)) 1).met = .ok (src j) ∧
            (s.engMeet k x .own .write (lands (b0 + j)) 1).met = .ok (dst j) ∧ (src j).Stored ∧ (dst j).Stored) →
          (∀ i < len, ∀ j < len, (dst i = dst j → i = j) ∧ src i ≠ dst j) →
          ∃ t : State, exec .gatherSnapshot s = .next t ∧ s.BytesAt t len dst (fun j => s.seenIn clsGS (src j)) ∧
            (∀ q, t.req k num = some q → q.keys.find? i = some v ∧ q.delivered = x.delivered + len)) ∧
    (s.agenda = .scataddUpdate k num i :: r → go → posted → x.kind = .scatadd → i < sliceCount x.w2 →
      x.isDone (i * x.esize) = false → ∀ v, s.listValue k x i = some v → ∀ j off pa,
        (s.engMeet k x .own .read (BitVec.ofNat 64 (x.w2.toNat % 2 ^ 17 + i * x.esize)) x.esize).met = .ok (.pad j off) →
        (s.engMeet k x .flat .readWrite (x.elemAddr v) x.esize).met = .ok (.mem pa) →
        ∃ t : State, exec .scataddUpdate s = .next t ∧ s.SameMemBut t pa x.esize ∧ s.SamePads t ∧
          t.memRead pa x.esize =
            addElem (scatType x.w2) (s.memRead pa x.esize) (s.padSeen clsGS j off x.esize) % 256 ^ x.esize ∧
          t.Counted k x (i * x.esize) x.esize) ∧
    (s.agenda = .counterAdd k num len :: r → x.state = .running → thawed → 0 < len → len ≤ x.toAdd k → ∀ pa,
      s.withTokens ioHolder .readWrite (s.engPlace k x .flat .readWrite (BitVec.ofNat 64 (cntAddr x.w3)) 8) = .ok (.mem pa) →
        ∃ t : State, exec .counterAdd s = .next t ∧ t.memRead pa 8 = (s.memRead pa 8 + len) % 2 ^ 64 ∧ s.SameMemBut t pa 8 ∧
          s.SamePads t ∧
          if len = x.toAdd k ∧ (if x.failed = true then x.kind = .get ∨ x.sent.length ≤ x.dones.length + x.nacks
              else x.bytes ≤ x.delivered) then t.req k num = none
          else ∃ q, t.req k num = some q ∧ q.added = x.added + len) ∧
    (s.agenda = .requestHalt k num :: r → x.state = .running → ∀ va,
      (s.reqMeets k x Reach.absentVa = some va ∨ (s.reqMeets k x Reach.absentVa = none ∧ s.farAbsent k x = some va)) →
      ∃ t : State, exec .requestHalt s = .next t ∧ s.SameMem t ∧ s.SamePads t ∧
        (∃ q, t.req k num = some q ∧ q.state = .halted va ∧ q.dones = x.dones ∧
          ∀ j v, x.keys.find? j = some v → q.keys.find? j = some v) ∧
        (t.ctx k x.ctx).parkNext =
          (if x.owned = true ∧ (s.ctx k x.ctx).run ≠ .trapped then some va else (s.ctx k x.ctx).parkNext)) ∧
    (s.agenda = .requestResume k num :: r → ∀ va, x.state = .halted va → thawed →
      (x.owned = true → (s.ctx k x.ctx).mayResume = true ∧
        ∀ q ∈ (s.core k).reqs, q.owned = true → q.ctx = x.ctx → q.halted = true → q = x ∨ x.seq < q.seq) →
      (x.owned = false → ∀ q ∈ (s.core k).reqs, q.owned = false →
        ∀ v, q.state = .halted v → s.pagePresent k q.asid v = some true → q = x ∨ x.seq < q.seq) →
      s.pagePresent k x.asid va = some true → exec .requestResume s =
        .next ((s.pop.updReq k num fun q =>
          { q with state := if (s.core k).reqs.countP (fun q => q.state == .running) < 4 then .running else .queued }).endCoaches
            (clusterOf k))) ∧
    (s.agenda = .requestAccessFault k num :: r → go → posted → mcast x.w1 = false →
      ∀ va, s.reqMeets k x Reach.faultVa = some va →
        ∃ t : State, exec .requestAccessFault s = .next t ∧ s.SameMem t ∧ s.SamePads t ∧
          let answered : Prop := x.kind = .get ∨ x.sent.length ≤ x.dones.length + x.nacks
          ((∃ m ∈ s.counterMeet k x, m.met.faultVa.isSome = true) → t.req k num = none) ∧
          (x.toAdd k = 0 → answered → t.req k num = none) ∧
          (x.toAdd k ≠ 0 ∨ ¬ answered → (∀ m ∈ s.counterMeet k x, m.met.faultVa = none) →
            ∃ q, t.req k num = some q ∧ q.failed = true ∧ q.delivered = x.delivered ∧ q.added = x.added) ∧
          (tagEn x.w3 = true → ((t.core k).tag (tagOf x.w3)).fault = true ∧
            TagCounted ((s.core k).tag (tagOf x.w3)) ((t.core k).tag (tagOf x.w3)) (x.bytes - x.delivered)) ∧
          (x.owned = false → ∃ e, t.forward = s.forward ++ [e]) ∧
          (x.owned = true → t.forward = s.forward ∧ ∃ d : Deferred,
            (t.ctx k x.ctx).deferred = (s.ctx k x.ctx).deferred ++ [d] ∧ d.why = .access va ∧
            d.ord = x.ord ∧ d.tag = (if tagEn x.w3 then some (tagOf x.w3) else none) ∧ d.counter = cntAddr x.w3))

/-- R259, R260, R302, R309, R277, R370: at the package that is named, the bytes of a PUT are written and acknowledged, whole messages
for the active-message window join the endpoint queue; the bytes of a GET are read and sent; the elements of a REDCOPY block are
combined once and a repeated block is only acknowledged; a remote FLAT access is performed and answered. An access that fails is
logged and refused; a poisoned word, or a byte of the own package's request in a generator window, is an access fault (logs 14, 47). A
GET of the own package reads as its engine does (log 6). -/
def Obligations.NetAtTarget : Prop :=
  ∀ (s u : State) (r : List Event) (sender : NetSrc) (asid va lo len cnt id : Nat) (whole : Bool) (bytes : List Byte),
    let finds (acc : Access) (a : Nat) := s.ioTranslate (BitVec.ofNat 13 asid) sender.sup acc a
    let reaches (h : Nat) (acc : Access) (a pa n : Nat) :=
      finds acc a = .mem pa ∧ (acc = .write ∨ poisonedAt s.poison pa n = false) ∧
        s.lineBlocked h (pa / 128) (decide (acc ≠ .read)) = false
    let refusedFor (t : State) (a : Nat) := ∃ e : LogEntry, t.forward = s.forward ++ [e] ∧ e.w3 = BitVec.ofNat 64 a
    let put : NetMsg := .putBytes sender asid va lo cnt whole bytes
    (s.agenda = .netRemoteWrite put :: r → s.Took u put sender → ∀ pc : Nat,
      (inMessageWindow va = true → whole = true → va % 64 = 0 → bytes.length % 64 = 0 →
        s.endpoint.length + s.controls.length + bytes.length / 64 ≤ 1024 → (cnt ≠ 0 → reaches ioHolder .readWrite cnt pc 8) →
        ∃ t : State, exec .netRemoteWrite s = .next t ∧ t.endpoint = s.endpoint ++ messagesOf sender asid bytes ∧
          (cnt = 0 → s.SameMem t) ∧
          (cnt ≠ 0 → s.SameMemBut t pc 8 ∧ t.memRead pc 8 = (s.memRead pc 8 + bytes.length) % 2 ^ 64) ∧
          s.SamePads t ∧ u.Answered t sender.pkg (.ack sender lo bytes.length)) ∧
      (inMessageWindow va = false → ∀ pa : Nat → Nat,
        (∀ j < bytes.length, reaches ioHolder .write ((va + j) % 2 ^ 64) (pa j) 1) →
        (∀ i < bytes.length, ∀ j < bytes.length, pa i = pa j → i = j) →
        (cnt ≠ 0 → reaches ioHolder .readWrite cnt pc 8 ∧ ∀ j < bytes.length, pa j < pc ∨ pc + 8 ≤ pa j) →
        ∃ t : State, exec .netRemoteWrite s = .next t ∧ (∀ j < bytes.length, some (cell t.mem (pa j)) = bytes[j]?) ∧
          (cnt ≠ 0 → t.memRead pc 8 = (s.memRead pc 8 + bytes.length) % 2 ^ 64) ∧
          (∀ a, (∀ j < bytes.length, a ≠ pa j) → (cnt = 0 ∨ a < pc ∨ pc + 8 ≤ a) → cell t.mem a = cell s.mem a) ∧
          s.SamePads t ∧ u.Answered t sender.pkg (.ack sender lo bytes.length))) ∧
    (s.agenda = .netRemoteRead (.getBytes sender asid va lo len) :: r → s.Took u (.getBytes sender asid va lo len) sender →
      ∀ pa : Nat → Nat, (∀ j < len, reaches ioHolder .read ((va + j) % 2 ^ 64) (pa j) 1) →
        ∃ t : State, exec .netRemoteRead s = .next t ∧ s.SameMem t ∧ s.SamePads t ∧
          u.Answered t sender.pkg (.data sender lo ((List.range len).map fun j =>
            if sender.pkg = s.pkg then BitVec.ofNat 8 (s.memSeen clsNT (pa j) 1) else cell s.mem (pa j)))) ∧
    (∀ (q rop rtype : Nat) (elems : List (Nat × Word)),
      let block : NetMsg := .redBlock sender q asid rop rtype lo len cnt elems
      s.agenda = .redcopyBlock block :: r → s.Took u block sender →
      ((sender, q) ∈ s.applied → ∃ t : State, exec .redcopyBlock s = .next t ∧ s.SameMem t ∧ s.SamePads t ∧
        u.Answered t sender.pkg (.ack sender lo len)) ∧
      ((sender, q) ∉ s.applied → ∀ (pa : Nat → Nat) (pc : Nat),
        let e := elemSize rtype
        (∀ j x, elems[j]? = some x → reaches (s.redHolder sender) .readWrite x.1 (pa j) e) →
        (∀ i < elems.length, ∀ j < elems.length, i ≠ j → pa i + e ≤ pa j ∨ pa j + e ≤ pa i) →
        (cnt ≠ 0 → reaches ioHolder .readWrite cnt pc 8 ∧ ∀ j < elems.length, pa j + e ≤ pc ∨ pc + 8 ≤ pa j) →
        ∃ t : State, exec .redcopyBlock s = .next t ∧ (sender, q) ∈ t.applied ∧
          (∀ j x, elems[j]? = some x →
            t.memRead (pa j) e = redElem rop rtype (s.memRead (pa j) e) x.2.toNat % 256 ^ e) ∧
          (cnt ≠ 0 → t.memRead pc 8 = (s.memRead pc 8 + len) % 2 ^ 64) ∧
          (∀ a, (∀ j < elems.length, a < pa j ∨ pa j + e ≤ a) → (cnt = 0 ∨ a < pc ∨ pc + 8 ≤ a) →
            cell t.mem a = cell s.mem a) ∧ s.SamePads t ∧ u.Answered t sender.pkg (.ack sender lo len))) ∧
    (let load : NetMsg := .flatLoad sender asid va len
     s.agenda = .remoteFlatAccess load :: r → s.Took u load sender →
      (∀ pa, reaches ioHolder .read va pa len → ∃ t : State, exec .remoteFlatAccess s = .next t ∧ s.SameMem t ∧ s.SamePads t ∧
        u.Answered t sender.pkg (.loadReply sender true false (BitVec.ofNat 64 (s.memRead pa len)))) ∧
      (finds .read va = .fault → ∃ t : State, exec .remoteFlatAccess s = .next t ∧
        s.SameMem t ∧ s.SamePads t ∧ u.Answered t sender.pkg (.loadReply sender false false 0) ∧ refusedFor t va) ∧
      ∀ pa, finds .read va = .mem pa → poisonedAt s.poison pa len = true → ∃ t : State, exec .remoteFlatAccess s = .next t ∧
        s.SameMem t ∧ s.SamePads t ∧ u.Answered t sender.pkg (.loadReply sender false true 0) ∧
        ∃ e : LogEntry, t.forward = s.forward ++ [e] ∧ e.w2 = BitVec.ofNat 64 pa) ∧
    (let store : NetMsg := .flatStore sender asid va id bytes
     s.agenda = .remoteFlatAccess store :: r → s.Took u store sender →
      (∀ pa, reaches ioHolder .write va pa bytes.length → ∃ t : State, exec .remoteFlatAccess s = .next t ∧
        t.memRead pa bytes.length = ofBytes bytes ∧ s.SameMemBut t pa bytes.length ∧ s.SamePads t ∧
        u.Answered t sender.pkg (.storeAck sender id true)) ∧
      (finds .write va = .fault → ∃ t : State, exec .remoteFlatAccess s = .next t ∧
        s.SameMem t ∧ s.SamePads t ∧ u.Answered t sender.pkg (.storeAck sender id false) ∧ refusedFor t va)) ∧
    (∀ mask : Nat, let word : NetMsg := .flatWord sender asid va id mask bytes
     s.agenda = .remoteFlatAccess word :: r → s.Took u word sender → ∀ pa, reaches ioHolder .write va pa bytes.length →
      ∃ t : State, exec .remoteFlatAccess s = .next t ∧ s.SamePads t ∧ u.Answered t sender.pkg (.storeAck sender id true) ∧
        (∀ j < bytes.length, mask.testBit j = true → some (cell t.mem (pa + j)) = bytes[j]?) ∧
        ∀ a, (∀ j < bytes.length, mask.testBit j = true → a ≠ pa + j) → cell t.mem a = cell s.mem a) ∧
    (∀ m : NetMsg, m = put ∧ inMessageWindow va = false ∧ bytes ≠ [] ∨ m = .getBytes sender asid va lo len ∧ 0 < len →
      let acc : Access := if m = put then .write else .read
      s.agenda = .netRefusal m :: r → s.Took u m sender → va < 2 ^ 64 →
      (finds acc va = .fault →
        ∃ t : State, exec .netRefusal s = .next t ∧ s.SameMem t ∧ s.SamePads t ∧ u.Answered t sender.pkg (.nack sender none) ∧
          refusedFor t va) ∧
      (∀ d, m = put → finds acc va = .gen d → sender.pkg = s.pkg → sender.req ≠ 0 →
        ∃ t : State, exec .netRefusal s = .next t ∧ s.SameMem t ∧ s.SamePads t ∧
          u.Answered t sender.pkg (.nack sender (some va)) ∧ t.forward = s.forward) ∧
      ∀ pa, acc = .read → finds acc va = .mem pa → poisonedAt s.poison pa 1 = true →
        ∃ t : State, exec .netRefusal s = .next t ∧ s.SameMem t ∧ s.SamePads t ∧
          u.Answered t sender.pkg (.nack sender (some va)) ∧ t.forward = s.forward) ∧
    (s.agenda = .netRefusal put :: r → s.Took u put sender → inMessageWindow va = true →
      whole = false ∨ va % 64 ≠ 0 ∨ bytes.length % 64 ≠ 0 →
        ∃ t : State, exec .netRefusal s = .next t ∧ s.SameMem t ∧ s.SamePads t ∧ u.Answered t sender.pkg (.nack sender none) ∧
          refusedFor t va)

/-- R254, R259, R261, R141, R277, R370: the answers that come back. An acknowledgement counts bytes of a PUT or REDCOPY; the data of a
GET are written and counted; a refusal ends its request with a deferred REMOTE fault, or the access fault it was; a value wakes the
context that waits for it, and a refusal of a RAMO or a remote load, or a poisoned word, traps it there, but for a stream's vector that
is read ahead, which its consuming instruction meets (log 6); a refused store waits for a fence, and that of a task that has ended is
only noted. That a refusal by the own package is an access fault, and the answer about a poisoned word, are log 14; that a remote load
waits at its instruction and a refused store is reported by a fence is log 29.
R261, R131: RAMO sends its operands to the named package and waits, with Rel set for its earlier accesses and stream reads first; once
the value is there, rd takes it. A malformed one, or one to a package outside the domain, is an access fault. The target's atomic engine
performs it and answers the old value. -/
def Obligations.NetAnswersAndAtomics : Prop :=
  (∀ (s u : State) (r : List Event) (sender : NetSrc) (lo len : Nat) (bytes : List Byte) (x : Req) (h k c id : Nat) (v : Word),
     let named := s.reqOf sender = some (h, x) ∧ s.req h x.num = some x
     let Back (m : NetMsg) : Prop :=
       (m ∈ s.net ∧ u = { s.pop with net := s.net.erase m }) ∨
         (m ∉ s.net ∧ u = s.pop ∧ farPkg x.kind x.w0 x.w1 ≠ some s.pkg)
     (s.agenda = .netAck (.ack sender lo len) :: r → named → Back (.ack sender lo len) → x.kind ≠ .get → x.failed = false →
       (lo, len) ∈ x.sent → x.isDone lo = false →
       ∃ t : State, exec .netAck s = .next t ∧ t.Counted h x lo len ∧ s.SameMem t ∧ s.SamePads t ∧
         (tagEn x.w3 = true → x.kind = .put ∨ x.kind = .redcopy →
           TagCounted ((s.core h).tag (tagOf x.w3)) ((t.core h).tag (tagOf x.w3)) len) ∧
         (x.delivered + len < x.bytes → t.applied = s.applied) ∧
         (x.bytes ≤ x.delivered + len → (∀ p ∈ t.applied, p ∈ s.applied ∧ p.1 ≠ sender) ∧
           ∀ p ∈ s.applied, p.1 ≠ sender → p.1 ≠ s.reqSrc h x → p ∈ t.applied)) ∧
     (s.agenda = .netAck (.data sender lo bytes) :: r → named → Back (.data sender lo bytes) → x.kind = .get →
       s.LinesWf → (lo, bytes.length) ∈ x.sent → x.isDone lo = false → x.failed = false → s.posting h x = false →
       mcast x.w1 = false →
       ∀ dst : Nat → Place, (∀ j < bytes.length, (dst j).Stored ∧
           (s.engMeet h x (wordMode x.w1) .write (x.dstAddr (lo + j)) 1).met = .ok (dst j)) →
         (∀ i < bytes.length, ∀ j < bytes.length, dst i = dst j → i = j) →
         ∃ t : State, exec .netAck s = .next t ∧ s.BytesAt t bytes.length dst (fun j => bytes.getD j 0) ∧
           t.Counted h x lo bytes.length) ∧
     (∀ fault, s.agenda = .netRefusal (.nack sender fault) :: r → named → Back (.nack sender fault) → x.owned = true →
       (x.failed = true → ∃ t : State, exec .netRefusal s = .next t ∧ s.SameMem t ∧ s.SamePads t ∧
         (t.ctx h x.ctx).deferred = (s.ctx h x.ctx).deferred ∧ (t.core h).tags = (s.core h).tags) ∧
       (x.failed = false → ∃ (t : State) (d : Deferred), exec .netRefusal s = .next t ∧ s.SameMem t ∧ s.SamePads t ∧
         (x.toAdd h = 0 → x.kind = .get ∨ x.sent.length ≤ x.dones.length + x.nacks + 1 → t.req h x.num = none) ∧
         (t.ctx h x.ctx).deferred = (s.ctx h x.ctx).deferred ++ [d] ∧
         d.why = match fault with | some va => .access (BitVec.ofNat 64 va) | none => .refusal x.pc)) ∧
     (let y := s.ctx k c
      y.run = .waiting .remote →
       let own : NetSrc := { pkg := s.pkg, core := k, ctx := c, lid := y.lid.toNat, req := 0, sup := y.sup }
       let Answers (i : Instr) (inside : Bool) (reply : NetMsg) (ok poison : Bool) : Prop :=
         ∀ t : State, (inside = false ∧ t = s.pop) ∨ (reply ∈ s.net ∧ t = { s.pop with net := s.net.erase reply }) →
           exec i s = .next (
             if ok then t.setCtx k c { y with run := .ready, remoteAsked := false, remoteVals := y.remoteVals ++ [v] }
             else if y.fetching.isSome then t.setCtx k c { y.skipFetch with run := .ready }
             else if poison then t.trapCtx k c 3 false y.pc (BitVec.ofNat 64 y.askedVa) else t.trapCtx k c 10 false y.pc y.pc)
       ∀ ok poison,
         (s.agenda = .remoteLoadResponse k c ok poison v :: r →
           Answers .remoteLoadResponse (s.loadInside k c) (.loadReply own ok poison v) ok poison) ∧
         (s.agenda = .ramoResponse k c ok poison v :: r →
           Answers .ramoResponse (s.ramoInside k c) (.ramoReply own ok poison v) ok poison)) ∧
     ∀ ok, s.agenda = .remoteStoreAck k c id ok :: r →
       (s.storeInside k c id = false ∧ u = s.pop) ∨
         (∃ (n1 n2 : List NetMsg) (src : NetSrc), s.net = n1 ++ .storeAck src id ok :: n2 ∧ src.core = k ∧ src.ctx = c ∧
           src.pkg = s.pkg ∧ (∀ q, .storeAck q id ok ∈ n1 → q.core ≠ k ∨ q.ctx ≠ c ∨ q.pkg ≠ s.pkg) ∧
           u = { s.pop with net := n1 ++ n2 }) →
       ((∀ z ∈ (s.ctx k c).stores, z.id ≠ id) → exec .remoteStoreAck s = .next
         (u.updCore k fun co => { co with orphans := co.orphans.filter fun o => !(o.1 == c && o.2.id == id) })) ∧
       ∀ a b y, (s.ctx k c).stores = a ++ y :: b → y.id = id → (∀ z ∈ a, z.id ≠ id) →
       (ok = true → exec .remoteStoreAck s = .next (u.updCtx k c fun z => { z with stores := a ++ b })) ∧
       (ok = false → (∀ d ∈ (s.ctx k c).deferred, d.store = false ∨ d.ord ≠ y.ord) →
         ∃ (t : State) (d : Deferred), exec .remoteStoreAck s = .next t ∧ (t.ctx k c).stores = a ++ b ∧
           (t.ctx k c).deferred = (s.ctx k c).deferred ++ [d] ∧ d.why = .refusal y.pc ∧ d.store = true ∧ d.ord = y.ord ∧
           s.SameMem t ∧ s.SamePads t)) ∧
  ((∀ (s : State) (rd : Reg) (p q : Pair) (stl : Stall), isSvc s.focus = false →
     s.me.hazard { reads := usePairs p q, writes := [useX rd] } = none →
     let w0 := (s.me.rx (2 * p.toNat)).toNat
     let b := s.me.rx (2 * p.toNat + 1)
     let c := s.me.rx (2 * q.toNat)
     let w3 := s.me.rx (2 * q.toNat + 1)
     let wide := w3.getLsbD 5
     let far := w0 / 2 ^ 56 % 2 ^ 7
     let bad := 2 ^ 8 ≤ w3.toNat ∨ 9 < w3.toNat % 2 ^ 5 ∨ 2 ^ 63 ≤ w0 ∨ w0 / 2 ^ 48 % 2 ^ 8 ≠ 0 ∨
       w0 % (if wide then 8 else 4) ≠ 0 ∨ s.domain.contains far = false
     let busy (u : State) := w3.getLsbD 7 = true ∧ u.classBusy u.focus u.active (clsLS ||| clsNT) = true
     let reads := s.readsBefore (w3.getLsbD 7)
     (∀ v vs, s.me.fetching = none → s.me.remoteVals = v :: vs → exec (.ramo rd p q stl) s = .next (s.done stl fun x => x.varX rd.toNat
         (if wide then v else BitVec.ofInt 64 (BitVec.ofNat 32 v.toNat).toInt))) ∧
     (s.me.fetching ≠ none ∨ (s.me.remoteVals = [] ∧ s.me.remoteAsked = false) →
       (bad → exec (.ramo rd p q stl) s = .next (s.trap 3 2)) ∧
       (¬ bad → ∀ t, reads = .stop t → exec (.ramo rd p q stl) s = .next t) ∧
       (¬ bad → ∀ u, reads = .on u → busy u → exec (.ramo rd p q stl) s = .next (u.wait (.fence (clsLS ||| clsNT)))) ∧
       (¬ bad → ∀ u, reads = .on u → ¬ busy u →
         ∃ t : State, exec (.ramo rd p q stl) s = .next t ∧
           t.me = { u.me with remoteAsked := true, askedVa := w0 % 2 ^ 48, run := .waiting .remote } ∧
           u.Answered t far (.ramo (u.netSrc 0) u.me.asid.toNat (w0 % 2 ^ 48) (w3.toNat % 2 ^ 5) wide b c) ∧
           u.SameMem t ∧ u.SamePads t)) ∧
     (s.me.fetching = none → s.me.remoteVals = [] → s.me.remoteAsked = true → exec (.ramo rd p q stl) s = .next (s.wait .remote))) ∧
   ∀ (s u : State) (r : List Event) (sender : NetSrc) (asid va pa : Nat) (wide : Bool) (b c : Word) (op : Nat), op ≤ 9 →
     let m : NetMsg := .ramo sender asid va op wide b c
     s.agenda = .ramoAtTarget m :: r → s.Took u m sender →
     let n := if wide then 8 else 4
     let sgnOf (x : Nat) := sgn (8 * n) x
     let old := s.memRead pa n
     let y := b.toNat % 256 ^ n
     let found := s.ioTranslate (BitVec.ofNat 13 asid) sender.sup .readWrite va
     (found = .mem pa → poisonedAt s.poison pa n = false → s.lineBlocked ioHolder (pa / 128) true = false →
       ∃ t : State, exec .ramoAtTarget s = .next t ∧ s.SameMemBut t pa n ∧ s.SamePads t ∧
         u.Answered t sender.pkg (.ramoReply sender true false (BitVec.ofNat 64 old)) ∧
         t.memRead pa n = match op with
           | 0 => y
           | 1 => (old + y) % 256 ^ n
           | 2 => old &&& y
           | 3 => old ||| y
           | 4 => old ^^^ y
           | 5 => if sgnOf old ≤ sgnOf y then old else y
           | 6 => if sgnOf old ≤ sgnOf y then y else old
           | 7 => min old y
           | 8 => max old y
           | _ => if old = c.toNat % 256 ^ n then y else old) ∧
     (found = .mem pa → poisonedAt s.poison pa n = true → ∃ t : State, exec .ramoAtTarget s = .next t ∧ s.SameMem t ∧ s.SamePads t ∧
       u.Answered t sender.pkg (.ramoReply sender false true 0) ∧
       ∃ e : LogEntry, t.forward = s.forward ++ [e] ∧ e.w2 = BitVec.ofNat 64 pa) ∧
     (found = .fault →
       ∃ t : State, exec .ramoAtTarget s = .next t ∧ s.SameMem t ∧ s.SamePads t ∧
         u.Answered t sender.pkg (.ramoReply sender false false 0) ∧
         ∃ e : LogEntry, t.forward = s.forward ++ [e] ∧ e.w3 = BitVec.ofNat 64 va))

/-! ### The matrix engine -/

/-- R216, R218, R220 to R222, R224, R226, R227, R229, R230, R232, R236, R237, R302: major MATRIX on a macro that the task's coach holds
or binds. MSET writes a register's fields and MGET reads a register; MLOADW, MZERO, MDRAIN and MMUL are checked and queued with busy
code 0, or answer 2 (a failed check) or 1 (a full queue), or are stopped at the first byte that the engine does not reach; MCHK gives
the status, waits for the task's operations, or queues a scrub, waiting for its place. For another coach, and outside a coach, every
one but MCHK with Op 0 is an access fault with TVAL 0x100; a deferred fault of the engine is reported first. An EVMAC or a scrub that
meets a full queue keeps its turn with the registers it captured (logs 27, 28, 48, 49, 74).
R221, R222, R233 to R236, R60, R62: EVMAC takes a queue place behind the operations issued before it, with its registers captured,
and waits for its turn; then it takes the oldest entries of the task's channel, up to 32 or 8, adds each to accumulator row 0 column
by column, and gives the sum of their counts, with bit 63 for a parity error; with no entry it gives 0; a column that fails
persistently is a CIMERR trap. Each event on a column is as SumsAndUpdates says. -/
def Obligations.MatrixInstructions : Prop :=
  (∀ (s : State) (rd rs1 rs2 : Reg) (er : EngReg) (stl : Stall),
     let a := s.me.rx rs1.toNat
     let b := s.me.rx rs2.toNat
     let mx := s.myCore.mx
     let k := s.focus
     let S := s.padSize k
     let N := fieldOf mx.mgeo 47 37
     let M := fieldOf mx.mgeo 63 48
     let u := s.binds
     let foreign := isSvc k = false ∧ (s.me.coach = none ∨ (s.myCore.bound.isSome = true ∧ s.myCore.boundLid ≠ s.me.lid))
     let ours := isSvc k = false ∧ s.me.coach.isSome = true ∧ (s.myCore.bound = none ∨ s.myCore.boundLid = s.me.lid)
     let full := 4 ≤ s.myCore.mxq.length
     let code (i : Instr) (n : Nat) := exec i s = .next (u.done stl fun c => c.varX rd.toNat (BitVec.ofNat 64 n))
     let status (t : State) : Nat := min 4 t.myCore.mxq.length + 16 * t.myCore.slots.length + (if t.myCore.bound.isSome then 256 else 0) +
       (if t.myCore.bound.isSome = true ∧ t.myCore.boundLid = t.me.lid ∧ t.me.coach.isSome = true then 512 else 0)
     let at' (mode : AddrMode) (acc : Access) (x : Word) := s.reachFor k s.me.asid s.me.sup mode acc x
     let fine (r : Reach) := s.MxFine k s.me.gens r
     let reports (i : Instr) := ours → s.Reports i fun d => d.cls = clsMX
     let Queues (i : Instr) (kind : MxKind) (x y : Word) : Prop :=
       (full → ∃ t : State, exec i s = .next t ∧ t.me = (s.me.varX rd.toNat 1).next stl ∧ (t.core k).mxq = s.myCore.mxq ∧
         s.SameMem t ∧ s.SamePads t) ∧
       (¬ full → ∃ t : State, exec i s = .next t ∧ s.MxQueued t kind x y rd stl)
     (s.me.hazard { reads := [useX rs1] } = none →
       reports (.mset er rs1 stl) ∧
       (foreign → exec (.mset er rs1 stl) s = .next (s.trap 3 0x100)) ∧
       (s.MxFree → ∃ t : State, exec (.mset er rs1 stl) s = .next t ∧ t.me = s.me.next stl ∧ s.SameMem t ∧ s.SamePads t ∧
         (t.core k).mx.read er = a &&& (match er with
           | .mgeo => 0xFFFFFFFFFFFFFF00#64 | .mfmt => 0xFF0703#64 | .mbase => 0xFF#64 | .mscp => 0x1FFFF#64
           | .macc => 0xBF01FFFF#64 | .mdrh => 0x7FFEFFFFFFFFFFFC#64 | .mdst => 0xC000FFFFFFFFFFFF#64) ∧
         ∀ e, e ≠ er → (t.core k).mx.read e = mx.read e)) ∧
     (s.me.hazard { writes := [useX rd] } = none →
       reports (.mget rd er stl) ∧
       (foreign → exec (.mget rd er stl) s = .next (s.trap 3 0x100)) ∧
       (s.MxFree → exec (.mget rd er stl) s = .next (u.done stl fun c => c.varX rd.toNat (mx.read er)))) ∧
     (s.me.hazard { reads := [useX rs1, useX rs2], writes := [useX rd] } = none →
       reports (.mloadw rd rs1 rs2 stl) ∧ reports (.mmul rd rs1 rs2 stl) ∧
       (foreign → exec (.mloadw rd rs1 rs2 stl) s = .next (s.trap 3 0x100) ∧
         exec (.mmul rd rs1 rs2 stl) s = .next (s.trap 3 0x100)) ∧
       (s.MxFree →
         let K := fieldOf mx.mgeo 26 17
         let mode : AddrMode := if fieldOf a 49 48 = 0 then .flat else .own
         let len := if isWide (clusterOf k) then 2 * K else 17 * ((K + 31) / 32)
         let pitch := if b = 0 then len else b.toNat
         let byte (j i : Nat) : Word := BitVec.ofNat 64 (fieldOf a 47 0 + pitch * j + i)
         let good (j i : Nat) := fine (at' mode .read (byte j i))
         (¬ mx.LoadPasses k S a → code (.mloadw rd rs1 rs2 stl) 2) ∧
         (mx.LoadPasses k S a →
           ((∀ j < N, ∀ i < len, good j i) → Queues (.mloadw rd rs1 rs2 stl) .mloadw a b) ∧
           ∀ j < N, ∀ i < len, ¬ good j i → (∀ h < j, ∀ l < len, good h l) → (∀ l < i, good j l) →
             s.MxStopsAt u (.mloadw rd rs1 rs2 stl) mode .read (byte j i)) ∧
         (¬ mx.MulPasses k S a b → code (.mmul rd rs1 rs2 stl) 2) ∧
         (mx.MulPasses k S a b → a.getLsbD 63 = false → Queues (.mmul rd rs1 rs2 stl) .mmul a b) ∧
         (mx.MulPasses k S a b → a.getLsbD 63 = true →
           (s.me.streams.find? (a.toNat % 8) = none → code (.mmul rd rs1 rs2 stl) 2) ∧
           ∀ f, s.me.streams.find? (a.toNat % 8) = some f →
           let want := M * ((K * (if fieldOf mx.mfmt 10 8 < 3 then 1 else 2) + 63) / 64)
           let dry := f.wrap = false ∧ f.count < f.cursor + want ∧ s.me.dryZero = false
           let claims := claimsOf f want
           let sound (q : Option VWord × Word × BitVec 2) : Prop :=
             q.1 ≠ none ∨ ∀ i < 64, fine (at' (AddrMode.ofBits q.2.2) .read (q.2.1 + BitVec.ofNat 64 i))
           (f.isWrite = true ∨ dry → code (.mmul rd rs1 rs2 stl) 2) ∧
           (f.isWrite = false → ¬ dry →
             ((∀ q ∈ claims, sound q) → (full → ∃ t : State, exec (.mmul rd rs1 rs2 stl) s = .next t ∧
                 t.me = (s.me.varX rd.toNat 1).next stl ∧ (t.core k).mxq = s.myCore.mxq ∧ s.SameMem t ∧ s.SamePads t) ∧
               (¬ full → ∃ (t : State) (o : MxOp) (g : Stream), exec (.mmul rd rs1 rs2 stl) s = .next t ∧
                 (t.core k).mxq = s.myCore.mxq ++ [o] ∧ o.kind = .mmul ∧ o.regs = mx ∧ o.a = a ∧ o.b = b ∧ o.claims = claims ∧
                 t.me.streams.find? (a.toNat % 8) = some g ∧
                 g.cursor = (if f.wrap then f.cursor + want else min f.count (f.cursor + want)) ∧
                 t.me.pc = s.me.pc + 4 ∧ s.SameMem t ∧ s.SamePads t)) ∧
             ∀ (n : Nat) (q : Option VWord × Word × BitVec 2), claims[n]? = some q → q.1 = none → q.2.2 = 0 → (∀ m < n, ∀ p, claims[m]? = some p → sound p) →
               match at' .flat .read q.2.1 with
               | .miss _ _ => exec (.mmul rd rs1 rs2 stl) s = .next (u.wait (.tlb .read q.2.1))
               | .absent _ => exec (.mmul rd rs1 rs2 stl) s = .next ((u.looked .flat q.2.1).park q.2.1)
               | .trap _ _ => exec (.mmul rd rs1 rs2 stl) s =
                   .next ((u.mxLook k s.me.asid (claimRuns claims)).trap 7 (streamTval 4 (a.toNat % 8) q.2.1))
               | _ => True)))) ∧
     (s.me.hazard { reads := [useX rs1], writes := [useX rd] } = none →
       let first := a.toNat % 2 ^ 16
       let count := a.toNat / 2 ^ 16 % 2 ^ 16
       let stop := if count = 0 then M else first + count
       reports (.mzero rd rs1 stl) ∧ reports (.mdrain rd rs1 stl) ∧ (a.toNat % 4 ≠ 0 → reports (.mchk rd rs1 stl)) ∧
       (foreign → exec (.mzero rd rs1 stl) s = .next (s.trap 3 0x100) ∧ exec (.mdrain rd rs1 stl) s = .next (s.trap 3 0x100)) ∧
       (s.MxFree →
         (¬ mx.ZeroPasses k S first stop → code (.mzero rd rs1 stl) 2) ∧
         (mx.ZeroPasses k S first stop → Queues (.mzero rd rs1 stl) .mzero a 0) ∧
         let last := min stop M
         let row := N * mx.outBytes
         let byte (i : Nat) : Word := BitVec.ofNat 64 (fieldOf mx.mdst 47 0 + first * row + i)
         let good (i : Nat) := fine (at' .flat .write (byte i))
         let flat := fieldOf mx.mdst 63 62 = 1 ∧ first < last
         let windowed := ∃ pte, s.tlbHit k s.me.asid (byte 0).toNat = some pte ∧ pte.toNat / 2 ^ 62 = 1
         (¬ mx.DrainPasses k S first last → code (.mdrain rd rs1 stl) 2) ∧
         (mx.DrainPasses k S first last → ¬ flat → Queues (.mdrain rd rs1 stl) .mdrain a 0) ∧
         (mx.DrainPasses k S first last → flat →
           (windowed → code (.mdrain rd rs1 stl) 2) ∧
           (¬ windowed → ((∀ i < (last - first) * row, good i) → Queues (.mdrain rd rs1 stl) .mdrain a 0) ∧
             ∀ i < (last - first) * row, ¬ good i → (∀ l < i, good l) →
               s.MxStopsAt u (.mdrain rd rs1 stl) .flat .write (byte i)))) ∧
       (isSvc k = false → a.toNat % 4 = 0 →
         exec (.mchk rd rs1 stl) s = .next (s.done stl fun c => c.varX rd.toNat (BitVec.ofNat 64 (status s)))) ∧
       (foreign → a.toNat % 4 ≠ 0 → exec (.mchk rd rs1 stl) s = .next (s.trap 3 0x100)) ∧
       (s.MxFree →
         let mine := ∃ o ∈ s.myCore.mxq, o.owned = true ∧ o.ctx = s.active
         let rows := ∃ p ∈ s.myCore.slots, p.2.owned = true ∧ p.2.ctx = s.active
         let place (o : MxOp) : Prop := o.waits = true ∧ o.owned = true ∧ o.ctx = s.active
         (a.toNat % 4 = 1 → (¬ mine → code (.mchk rd rs1 stl) (status u)) ∧
           (mine → exec (.mchk rd rs1 stl) s = .next (u.wait (.engineOwn false)))) ∧
         (a.toNat % 4 = 2 → (¬ mine → ¬ rows → code (.mchk rd rs1 stl) (status u)) ∧
           (mine ∨ rows → exec (.mchk rd rs1 stl) s = .next (u.wait (.engineOwn true)))) ∧
         (a.toNat % 4 = 3 →
           ((∀ o ∈ s.myCore.mxq, ¬ place o) → ∃ (t : State) (o : MxOp), exec (.mchk rd rs1 stl) s = .next t ∧
             (t.core k).mxq = s.myCore.mxq ++ [o] ∧ o.kind = .scrub ∧ o.regs = mx ∧ o.ctx = s.active ∧ o.owned = true ∧
             s.SameMem t ∧ s.SamePads t ∧
             (full → o.waits = true ∧ t.me.run = .waiting .enginePlace ∧ t.me.pc = s.me.pc) ∧
             (¬ full → o.waits = false ∧ t.me =
               ({ s.me with storeIds := s.me.storeIds + 1 }.varX rd.toNat (BitVec.ofNat 64 (status t))).next stl)) ∧
           ∀ x o y, s.myCore.mxq = x ++ o :: y → place o → (∀ q ∈ x, ¬ place q) →
             (4 ≤ x.length → exec (.mchk rd rs1 stl) s = .next (u.wait .enginePlace)) ∧
             (x.length < 4 → ∃ t : State, exec (.mchk rd rs1 stl) s = .next t ∧
               (t.core k).mxq = x ++ { o with waits := false } :: y ∧
               t.me = (s.me.varX rd.toNat (BitVec.ofNat 64 (status t))).next stl ∧ s.SameMem t ∧ s.SamePads t))))) ∧
  ((∀ (s : State) (rd rs1 : Reg) (stl : Stall), s.me.hazard { reads := [useX rs1], writes := [useX rd] } = none → s.MxFree →
     let i : Instr := .evmac rd rs1 stl
     let ch := (s.me.rx rs1.toNat).toNat % 64
     let k := s.focus
     let owner := (s.myCore.chtab.get ch 0).toNat / 2 ^ 48 % 8
     let mine := s.myCore.queue.filter fun e => e.channel.toNat == ch
     let taken := mine.take (if isWide (clusterOf k) then 8 else 32)
     let turn (o : MxOp) : Prop := o.kind = .evmac ∧ o.owned = true ∧ o.ctx = s.active
     let Passes (mx : MxRegs) (left : List MxOp) : Prop :=
       (mine = [] → ∃ t : State, exec i s = .next t ∧ t.me = (s.me.varX rd.toNat 0).next stl ∧ (t.core k).mxq = left ∧
         s.SameMem t ∧ s.SamePads t) ∧
       (mine ≠ [] → s.myCore.padPoison = [] →
         (s.myCore.SumsAgree (fieldOf mx.mgeo 36 27) (fieldOf mx.mgeo 47 37) → ∃ (t : State) (rest : List Entry), exec i s = .next t ∧
           (t.core k).mxq = left ∧ (t.core k).queue = rest ∧ rest.filter (fun e => e.channel.toNat == ch) = mine.drop taken.length ∧
           rest.filter (fun e => e.channel.toNat != ch) = s.myCore.queue.filter (fun e => e.channel.toNat != ch) ∧
           (t.core k).pad = ((taken.foldl (fun u e => u.applyEvent k mx e) s).core k).pad ∧ s.SameMem t ∧
           t.me = (s.me.varX rd.toNat (BitVec.ofNat 64
             ((if taken.any Entry.perr then 2 ^ 63 else 0) + (taken.map Entry.count).sum % 2 ^ 16))).next stl) ∧
         ∀ c, s.myCore.faultyCols.find? (fun c => decide (fieldOf mx.mgeo 36 27 ≤ c ∧
             c < fieldOf mx.mgeo 36 27 + fieldOf mx.mgeo 47 37)) = some c →
           ∃ u : State, exec i s = .next (u.trap 9 (BitVec.ofNat 64 (4 * 2 ^ 56 + c % 1024))) ∧ u.me = s.me ∧ s.SameMem u ∧
             s.SamePads u ∧ (u.core k).queue = s.myCore.queue)
     ((∀ o ∈ s.myCore.mxq, ¬ turn o) →
       (s.me.coach ≠ some owner → exec i s = .next (s.binds.trap 3 (BitVec.ofNat 64 (0x200 + ch)))) ∧
       (s.me.coach = some owner →
         (∀ n, s.myCore.mx.EvmacFails k (s.padSize k) n → exec i s = .next (s.binds.trap 3 (BitVec.ofNat 64 (0x300 + n)))) ∧
         ((∀ n, ¬ s.myCore.mx.EvmacFails k (s.padSize k) n) →
           (s.myCore.mxq = [] → Passes s.myCore.mx []) ∧
           (s.myCore.mxq ≠ [] → ∃ (t : State) (o : MxOp), exec i s = .next t ∧
             (t.core k).mxq = s.myCore.mxq ++ [o] ∧ turn o ∧ o.regs = s.myCore.mx ∧ t.me.run = .waiting .engineIdle ∧
             t.me.pc = s.me.pc)))) ∧
     ∀ o q, s.myCore.mxq = o :: q → (turn o → Passes o.regs q) ∧
       (¬ turn o → (∃ p ∈ q, turn p) → exec i s = .next (s.wait .engineIdle))) ∧
   (∀ (s : State) (rd rs1 : Reg) (stl : Stall), s.me.hazard { reads := [useX rs1], writes := [useX rd] } = none → isSvc s.focus = false →
     (∀ o ∈ s.myCore.mxq, ¬ (o.kind = .evmac ∧ o.owned = true ∧ o.ctx = s.active)) →
     (s.me.coach = none ∨ (s.myCore.bound.isSome = true ∧ s.myCore.boundLid ≠ s.me.lid) →
       exec (.evmac rd rs1 stl) s = .next (s.trap 3 0x100)) ∧
     (s.me.coach.isSome = true → s.myCore.bound = none ∨ s.myCore.boundLid = s.me.lid →
       s.Reports (.evmac rd rs1 stl) fun d => d.cls = clsMX)) ∧
   ∀ (s : State) (k j : Nat) (r : MxRegs) (e : Entry), j < r.N →
     let t := s.applyEvent k r e
     let i := e.index.toNat
     let col := r.col0 + j
     let old := s.padSeen clsMX k (r.accOff + j * r.accSize) r.accSize
     let w := (s.core k).weight (r.row0 + i) col
     (e.perr = true → t = s) ∧
     (e.perr = false → r.scp + 16 * (r.col0 + r.N) ≤ r.accOff ∨ r.accOff + r.N * r.accSize ≤ r.scp + 16 * r.col0 →
       r.row0 + i < 512 →
       (isWide (clusterOf k) = false → t.padRead k (r.accOff + j * r.accSize) r.accSize = if r.K ≤ i then old else
         narrowEvent r.base r.frac w (s.padSeen clsMX k (r.scp + 16 * col + (r.row0 + i) / 32) 1) e.sum.toInt old % 256 ^ r.accSize) ∧
       (isWide (clusterOf k) = true → t.padRead k (r.accOff + j * r.accSize) r.accSize =
         (if r.K ≤ i then fp32Add old (.zero false) else wideEvent (Fp.decode r.wFloat w) e.sum.toInt r.evExp old) % 256 ^ r.accSize)))

/-- R221, R222, R225, R227 to R232, R235 to R237, R240: the steps of the engine on the operation at the head of its queue. MZERO clears
its rows; MLOADW stores its codes, scale bytes or elements; a scrub without a failing column changes nothing; MMUL and MDRAIN start; a
group of MMUL writes its rows, or fails with a late CIMERR that ends its task's operations; a row drains to the lowest free slot, is
handed to a handler, and departs, its slot free even where its destination is denied; a spare replaces a column (logs 28, 45, 78, 79).
What the engine reads is what a write left, or what it replaced where nothing orders the two (log 6). -/
def Obligations.MatrixSteps : Prop :=
  ∀ (s : State) (r : List Event) (k c n col : Nat),
    (∀ o q, (s.core k).mxq = o :: q → s.frozenAt k o.lid.toNat = false →
      let mx := o.regs
      let S := s.padSize k
      let wide := isWide (clusterOf k)
      let first := o.a.toNat % 2 ^ 16
      let count := o.a.toNat / 2 ^ 16 % 2 ^ 16
      let stop := if count = 0 then mx.M else first + count
      let last := min stop mx.M
      let clean := (s.core k).padPoison = []
      (s.agenda = .matrixOpStart k :: r → o.started = false → o.waits = false →
        (o.kind = .mzero → ∃ t : State, exec .matrixOpStart s = .next t ∧ (t.core k).mxq = q ∧ s.SameMem t ∧
          (∀ b, mx.accRow first ≤ b → b < mx.accRow stop → cell (t.core k).pad b = 0) ∧
          ∀ j b, j ≠ k ∨ b < mx.accRow first ∨ mx.accRow stop ≤ b → cell (t.core j).pad b = cell (s.core j).pad b) ∧
        (o.kind = .mloadw → mx.col0 + mx.N ≤ 1024 → mx.row0 + mx.K ≤ 512 → ∀ src : Nat → Nat → Place,
          let len := if wide then 2 * mx.K else 17 * ((mx.K + 31) / 32)
          let pitch := if o.b = 0 then len else o.b.toNat
          let byte (j i : Nat) := (s.seenIn clsMX (src j i)).toNat
          (∀ j < mx.N, ∀ i < len,
            s.reachFor k o.asid o.sup (wordMode o.a) .read (BitVec.ofNat 64 (o.a.toNat % 2 ^ 48 + pitch * j + i)) = .ok (src j i) ∧
            s.placePoisoned (src j i) 1 = false ∧
            match src j i with
            | .mem pa => s.lineBlocked (vdnOf k) (pa / 128) false = false
            | .pad h off => wide = false → h ≠ k ∨ off < mx.scp + 16 * mx.col0 ∨ mx.scp + 16 * (mx.col0 + mx.N) ≤ off
            | _ => False) →
          ∃ t : State, exec .matrixOpStart s = .next t ∧ (t.core k).mxq = q ∧ s.SameMem t ∧
            ∀ j < mx.N,
              (wide = true → ∀ i < mx.K,
                (t.core k).weight (mx.row0 + i) (mx.col0 + j) = byte j (2 * i) + 256 * byte j (2 * i + 1)) ∧
              (wide = false → ∀ b < (mx.K + 31) / 32,
                t.padRead k (mx.scp + 16 * (mx.col0 + j) + (mx.row0 / 32 + b)) 1 = byte j (17 * b) ∧
                ∀ i < 32, (t.core k).weight (mx.row0 + 32 * b + i) (mx.col0 + j) =
                  byte j (17 * b + 1 + i / 2) / 16 ^ (i % 2) % 16)) ∧
        (o.kind = .scrub → (s.core k).SumsAgree 0 (macroCols k) → ∃ t : State, exec .matrixOpStart s = .next t ∧
          (t.core k).mxq = q ∧ s.SameMem t ∧ s.SamePads t ∧ (t.core k).weights = (s.core k).weights) ∧
        (o.kind = .mdrain → last ≤ first → ∃ t : State, exec .matrixOpStart s = .next t ∧ (t.core k).mxq = q ∧ s.SameMem t ∧
          s.SamePads t) ∧
        (o.kind = .mmul ∨ (o.kind = .mdrain ∧ first < last) → exec .matrixOpStart s = .next
          (s.pop.updCore k fun co => { co with mxq := { o with started := true } :: q }))) ∧
      (s.agenda = .mmulGroupCommit k :: r → o.started = true → o.kind = .mmul → mx.MulPasses k S o.a o.b → clean →
        (o.streamed = false → o.claims = []) →
        (∀ m < mx.M * mx.rowVecs, o.streamed = true → ∃ p, o.claims[m]? = some p ∧ p.1 ≠ none) →
        8 * o.done < mx.M →
        ((s.core k).SumsAgree mx.col0 mx.N → ∃ t : State, exec .mmulGroupCommit s = .next t ∧ s.SameMem t ∧
          (8 * (o.done + 1) < mx.M → (t.core k).mxq = { o with done := o.done + 1 } :: q) ∧
          (mx.M ≤ 8 * (o.done + 1) → (t.core k).mxq = q) ∧
          (∀ i, 8 * o.done ≤ i → i < 8 * (o.done + 1) → i < mx.M → ∀ j < mx.N,
            let old := s.padSeen clsMX k (mx.accRow i + j * mx.accSize) mx.accSize
            let taken (b : Nat) : Nat := elem 8 (((o.claims[i * mx.rowVecs + b / 64]?).bind Prod.fst).getD 0) (b % 64)
            let act (n : Nat) : Fp := mx.actVal (
              if o.streamed then (if mx.actSize = 1 then taken n else taken (2 * n) + 256 * taken (2 * n + 1))
              else s.padSeen clsMX k (o.a.toNat % 2 ^ 17 + i * o.pitch + mx.actSize * n) mx.actSize)
            let weight (n : Nat) := (s.core k).weight (mx.row0 + n) (mx.col0 + j)
            t.padRead k (mx.accRow i + j * mx.accSize) mx.accSize =
              (if wide then wideColumn mx.K (fun n => Fp.decode mx.wFloat (weight n)) act old
              else narrowColumn mx.K mx.base mx.fx mx.frac weight
                (fun b => s.padSeen clsMX k (mx.scp + 16 * (mx.col0 + j) + (mx.row0 / 32 + b)) 1) act
                (if mx.actFmt = 0 then some (Fp.decode fp32 (s.padSeen clsMX k (o.scaleOff + 4 * i) 4)) else none) old)
              % 256 ^ mx.accSize) ∧
          ∀ j b, j ≠ k ∨ b < mx.accRow (8 * o.done) ∨ mx.accRow (min mx.M (8 * (o.done + 1))) ≤ b →
            cell (t.core j).pad b = cell (s.core j).pad b) ∧
        ∀ f, (s.core k).faultyCols.find? (fun f => decide (mx.col0 ≤ f ∧ f < mx.col0 + mx.N)) = some f →
          ∃ t : State, exec .mmulGroupCommit s = .next t ∧ s.SameMem t ∧ s.SamePads t ∧
            (t.core k).mxq = q.filter (fun p => !o.sameTask p) ∧
            (o.owned = true → ∃ d : Deferred, (t.ctx k o.ctx).deferred = (s.ctx k o.ctx).deferred ++ [d] ∧ d.cls = clsMX ∧ d.ord = o.ord ∧
              d.why = .cimerr (BitVec.ofNat 64 (2 ^ 63 + 3 * 2 ^ 56 + o.done % 65536 * 2 ^ 16 + f % 1024)))) ∧
      (s.agenda = .drainRow k :: r → o.started = true → o.kind = .mdrain → mx.DrainPasses k S first last →
        first + o.done < last → clean → n < mx.slotCount → (s.core k).slots.find? n = none →
        (∀ i < n, (s.core k).slots.find? i ≠ none) →
        let i := first + o.done
        ∃ (t : State) (x : Slot), exec .drainRow s = .next t ∧ (t.core k).slots.find? n = some x ∧ x.row = i ∧ x.off = mx.slotAt n ∧
          x.regs = mx ∧ x.ctx = o.ctx ∧ x.owned = o.owned ∧ x.ended = decide (mx.handler = 0) ∧ s.SameMem t ∧
          (t.core k).drainQ = (if mx.handler = 0 then (s.core k).drainQ else (s.core k).drainQ ++ [n]) ∧
          (∀ j < mx.N, t.padRead k (mx.slotAt n + j * mx.outSize) mx.outSize =
            mx.outElem (s.padSeen clsMX k (mx.accRow i + j * mx.accSize) mx.accSize) % 256 ^ mx.outSize) ∧
          (i + 1 = last → (t.core k).mxq = q) ∧
          (i + 1 < last → (t.core k).mxq = { o with done := o.done + 1 } :: q) ∧
          ∀ b < mx.N * mx.accSize,
            cell (t.core k).pad (mx.accRow i + b) = if o.a.getLsbD 63 then 0 else cell (s.core k).pad (mx.accRow i + b))) ∧
    (s.agenda = .drainDispatch k c :: r → s.freeCtx k c = true → s.nextWork k = some (.drain n) → ∀ x co,
      (s.core k).slots.find? n = some x → s.startCoach (clusterOf k) x.lid = some co →
        ∃ t : State, exec .drainDispatch s = .next t ∧ s.SameMem t ∧ s.SamePads t ∧ s.SameCtxsBut t k c ∧
          (t.ctx k c).Started co (BitVec.ofNat 64 x.regs.handler)
            [BitVec.ofNat 64 x.row, BitVec.ofNat 64 x.off, BitVec.ofNat 64 x.n] (x.regs.mdrh.toNat / 2 ^ 61 % 4) x.tile ∧
          (t.ctx k c).drainSlot = some n ∧ (t.core k).drainQ = (s.core k).drainQ.drop 1) ∧
    (∀ x, (s.core k).slots.find? n = some x → s.agenda = .rowDeparture k n :: r → x.ended = true →
      s.frozenAt k x.lid.toNat = false →
      (x.regs.dstMode = 0 → ∃ t : State, exec .rowDeparture s = .next t ∧ (t.core k).slots.find? n = none ∧ s.SameMem t ∧ s.SamePads t) ∧
      (x.regs.dstMode ≠ 0 → (s.core k).padPoison = [] →
        let at' (j : Nat) : Reach := s.reachFor k x.asid x.sup (if x.regs.dstMode = 1 then .flat else .own) .write
          (x.regs.dstRow x.row + BitVec.ofNat 64 j)
        (∀ dst : Nat → Place, (∀ j < x.bytes, at' j = .ok (dst j) ∧
            match dst j with
            | .mem pa => s.lineBlocked (vdnOf k) (pa / 128) true = false
            | .pad _ _ => True
            | _ => False) →
          (∀ i < x.bytes, ∀ j < x.bytes, (dst i = dst j → i = j) ∧ dst i ≠ .pad k (x.off + j)) →
          ∃ t : State, exec .rowDeparture s = .next t ∧ (t.core k).slots.find? n = none ∧
            s.BytesAt t x.bytes dst fun j => cell (s.core k).pad (x.off + j)) ∧
        ∀ j < x.bytes, ∀ code va, at' j = .trap code va → (∀ i < j, ∃ p, at' i = .ok p ∧ p.Stored) →
          ∃ t : State, exec .rowDeparture s = .next t ∧ (t.core k).slots.find? n = none ∧ s.SameMem t ∧ s.SamePads t ∧
            (x.owned = true → ∃ d : Deferred, (t.ctx k x.ctx).deferred = (s.ctx k x.ctx).deferred ++ [d] ∧ d.cls = clsMX ∧ d.ord = x.ord ∧
              d.why = .access va) ∧
            (x.owned = false → ∃ e, t.forward = s.forward ++ [e]))) ∧
    (s.agenda = .spareColumnSubstitution k col :: r → isSvc k = false → (s.core k).bound = none → col < macroCols k →
      (((s.core k).spares.filter fun p => p.1 / (macroCols k / 4) == col / (macroCols k / 4)).map Prod.snd).sum < 2 →
      ∃ t : State, exec .spareColumnSubstitution s = .next t ∧ col ∉ (t.core k).faultyCols ∧
        (∀ d, d ≠ col → (d ∈ (t.core k).faultyCols ↔ d ∈ (s.core k).faultyCols)) ∧
        (∀ row d, d < 1024 → d ≠ col → (t.core k).weight row d = (s.core k).weight row d) ∧
        (t.core k).spares.find? col = some ((s.core k).spares.get col 0 + 1) ∧ s.SameMem t ∧ s.SamePads t)

/-- R33, R39 to R41, R54 to R57, R59 to R62, R230: the numbers of the macros. A code and a scale byte stand for the table's values; an
int8, FP8, BF16 or FP16 activation for its number; a column of MMUL adds block after block on a narrow macro, and K-group after
K-group on a wide one; an event adds its contribution; MDRAIN converts an element with one rounding.
R256, R258, R260, R154: what SCATADD adds and REDCOPY combines, by element type: int32, int64, FP32 or BF16. Integers wrap, or
compare signed; floating-point sums, maxima and minima are VFADD's, VFMAX's and VFMIN's without flags, as FloatValues states. A row scale
that is no finite number scales the whole sum of its block (log 48). -/
def Obligations.SumsAndUpdates : Prop :=
  ((∀ f ∈ [fp32, bf16, fp16, e4m3, e5m2], ∀ v < 2 ^ f.width, (Fp.decode f v).ext = f.ext v ∧ (Fp.decode f v).Proper) ∧
   (∀ (r : MxRegs) (v : Nat), v < 256 ^ r.actSize → (r.actVal v).Proper ∧ (r.actVal v).ext =
     let t := fieldOf r.mfmt 10 8
     if t = 0 then .num (sgn 8 v)
     else (if t = 1 then e4m3 else if t = 2 then e5m2 else if t = 4 then bf16 else fp16).ext v) ∧
   (∀ (K : Nat) (B : Int) (fx : Bool) (F : Nat) (code scale : Nat → Nat) (act : Nat → Fp) (rowScale : Option Fp) (acc : Nat),
     (∀ n, code n < 16 ∧ (act n).Proper) → (∀ b, scale b < 256) → (∀ x, rowScale = some x → x.Proper) → acc < 2 ^ (if fx then 49 else 32) →
     ∃ accs : Nat → Nat, accs 0 = acc ∧ narrowColumn K B fx F code scale act rowScale acc = accs ((K + 31) / 32) ∧
       ∀ b < (K + 31) / 32,
         let x := blockValue B (scale b) (min 32 (K - 32 * b)) (fun i => code (32 * b + i)) (fun i => (act (32 * b + i)).ext)
           (rowScale.map Fp.ext)
         if fx then EntersFx F (accs b) 1 x (accs (b + 1)) else fp32.Nearest ((fp32.ext (accs b)).add x) (accs (b + 1))) ∧
   (∀ (B : Int) (F code scale : Nat) (delta : Int) (acc : Nat), code < 16 → scale < 256 → acc < 2 ^ 49 →
     EntersFx F acc delta ((elementOf scale code).mul (scaleOf scale B)) (narrowEvent B F code scale delta acc)) ∧
   (∀ (K : Nat) (weight act : Nat → Fp) (acc : Nat), (∀ n, (weight n).Proper ∧ (act n).Proper) → acc < 2 ^ 32 →
     ∃ accs : Nat → Nat, accs 0 = acc ∧ wideColumn K weight act acc = accs ((K + 31) / 32) ∧
       ∀ g < (K + 31) / 32, ∃ G,
         GroupIs (min 32 (K - 32 * g)) (fun i => (act (32 * g + i)).ext.mul (weight (32 * g + i)).ext) G ∧
         fp32.Nearest ((fp32.ext (accs g)).add G) (accs (g + 1))) ∧
   (∀ (w : Fp) (delta e : Int) (acc : Nat), w.Proper → acc < 2 ^ 32 →
     ∃ G, GroupIs 1 (fun _ => (Ext.num (delta * (2 : ℚ) ^ e)).mul w.ext) G ∧
       fp32.Nearest ((fp32.ext acc).add G) (wideEvent w delta e acc)) ∧
   ∀ (r : MxRegs) (v : Nat),
     let out := fieldOf r.mdrh 57 56
     let f := if out = 1 then fp32 else if out = 2 then bf16 else fp16
     let F := fieldOf r.macc 29 24
     let x := (BitVec.ofNat 48 v).toInt
     (out = 0 → r.macc.getLsbD 31 = true → r.outElem v = v % 2 ^ 49) ∧
     (out = 0 → r.macc.getLsbD 31 = false → r.outElem v = v) ∧
     (out ≠ 0 → r.macc.getLsbD 31 = true →
       f.Nearest (if v / 2 ^ 48 % 2 = 1 then .nan else .num (x / (2 : ℚ) ^ F)) (r.outElem v)) ∧
     (out ≠ 0 → r.macc.getLsbD 31 = false → v < 2 ^ 32 →
       if fp32.ext v = .num 0 then r.outElem v = f.zeroEnc (fp32.negOf v) else f.Nearest (fp32.ext v) (r.outElem v))) ∧
  (∀ a b : Nat,
     addElem 0 a b = (a + b) % 2 ^ 32 ∧ addElem 1 a b = (a + b) % 2 ^ 64 ∧
     addElem 2 a b = (fpAdd fp32 a b).1 ∧ addElem 3 a b = (fpAdd bf16 a b).1 ∧
     (∀ t < 4, elemSize t = typeBytes t ∧ redElem 0 t a b = addElem t a b) ∧
     (∀ t < 2, a < 256 ^ elemSize t → b < 256 ^ elemSize t →
       let w := 8 * elemSize t
       sgn w (redElem 1 t a b) = max (sgn w a) (sgn w b) ∧ sgn w (redElem 2 t a b) = min (sgn w a) (sgn w b)) ∧
     redElem 1 2 a b = (fpMax fp32 a b).1 ∧ redElem 2 2 a b = (fpMin fp32 a b).1 ∧
     redElem 1 3 a b = (fpMax bf16 a b).1 ∧ redElem 2 3 a b = (fpMin bf16 a b).1)

/-! ### Faults, coaches and launches -/

/-- R331, R333, R350, R335, R336, R179, R344, R375, R86: a notice enters the service core's queue of 64, or waits for a place in it; the
board controller restarts a halted service context at a pc; a waiting miss sends its notice once; a park ends when its page is present,
and looks the page up again when no TLB holds it; FREEZE and its release take effect at their ticks, a release for a Lid that is not
frozen being ignored; the scan path reads frozen state, and an error log at any time. The forms in which it reads a progress point and a
queue entry are the model's (log 4), and so are the place of an entry in its partition (log 82), a miss's own step (log 62), who looks a
lost page up again (log 63), the registers of a restarted context (log 52) and the one moment at which a job freezes (log 65). -/
def Obligations.FaultSteps : Prop :=
  ∀ (s : State) (r : List Event) (cl k c lid tick : Nat) (pc : Word),
    (s.agenda = .trapNotice cl :: r → ∀ (n : Word) (rest : List Word), (s.cluster cl).noticesInFlight = n :: rest →
      ((s.cluster cl).notices.length < 64 → exec .trapNotice s = .next (s.pop.updCluster cl fun x =>
        { x with notices := x.notices ++ [n], noticesInFlight := rest })) ∧
      (64 ≤ (s.cluster cl).notices.length → ∃ t : State, exec .trapNotice s = .next t ∧ t.cluster cl = s.cluster cl)) ∧
    (s.agenda = .serviceContextRestart k c pc :: r → isSvc k = true → s.hasCtx k c = true → (s.ctx k c).run = .halted →
      exec .serviceContextRestart s = .next (s.pop.updCtx k c fun x => { x with run := .ready, pc := pc &&& ~~~3#64 })) ∧
    (s.agenda = .tlbMissNotice k c :: r → ∀ acc va, (s.ctx k c).run = .waiting (.tlb acc va) →
      s.translate k (s.ctx k c).asid (s.ctx k c).sup acc va = .miss →
      let m := missOf (s.ctx k c).asid va.toNat ((s.core k).inRegion va.toNat)
      let old := s.cluster (clusterOf k)
      ∃ t : State, exec .tlbMissNotice s = .next t ∧ s.SameMem t ∧ s.SamePads t ∧ (∀ j n, t.ctx j n = s.ctx j n) ∧
        (m ∈ old.misses ∨ 16 ≤ old.misses.length → t.cluster (clusterOf k) = old) ∧
        (m ∉ old.misses → old.misses.length < 16 → (t.cluster (clusterOf k)).misses = old.misses ++ [m] ∧
          (t.cluster (clusterOf k)).noticesInFlight = old.noticesInFlight ++
            [missWord acc (s.ctx k c).asid va.toNat ((s.core k).inRegion va.toNat)])) ∧
    (s.agenda = .parkResume k c :: r → ∀ va since, (s.ctx k c).run = .parked va since → s.coachHere k (s.ctx k c) = true →
      s.isFrozen k (s.ctx k c) = false →
      let goOn := (s.pop.setCtx k c { s.ctx k c with run := .ready, resumeHalted := some false }).updCore k fun co =>
        { co with gated := false }
      let mine (q : Req) : Bool := q.owned && q.ctx == c && q.state == .halted va
      (s.pagePresent k (s.ctx k c).asid va = some true → exec .parkResume s = .next goOn) ∧
      (s.pagePresent k (s.ctx k c).asid va = some false → exec .parkResume s = .next s.pop) ∧
      (s.pagePresent k (s.ctx k c).asid va = none → (s.core k).reqs.find? mine = none → exec .parkResume s = .next goOn) ∧
      (s.pagePresent k (s.ctx k c).asid va = none → ∀ q, (s.core k).reqs.find? mine = some q →
        exec .parkResume s = .next (s.pop.seekHalted k q va))) ∧
    (s.agenda = .freeze lid tick :: r → exec .freeze s = .next { s.pop with freezes := s.freezes ++ [(lid, tick)] }) ∧
    (s.agenda = .freezeAtTick lid :: r → ∀ p ∈ s.freezes, p.1 = lid → p.2 ≤ s.ptc →
      ∃ t : State, exec .freezeAtTick s = .next t ∧ lid ∈ t.frozenLids ∧ (∀ n, n ≠ lid → (n ∈ t.frozenLids ↔ n ∈ s.frozenLids)) ∧
        s.SameMem t ∧ s.SamePads t ∧ ∀ j n,
          t.ctx j n = if (s.ctx j n).coach.isSome = true ∧ (s.ctx j n).lid.toNat = lid then (s.ctx j n).flush else s.ctx j n) ∧
    (s.agenda = .release lid tick :: r →
      (s.jobFrozen lid = true → exec .release s = .next { s.pop with releases := s.releases ++ [(lid, tick)] }) ∧
      (s.jobFrozen lid = false → exec .release s = .next s.pop)) ∧
    (s.agenda = .releaseAtTick lid :: r → (∀ p ∈ s.freezes, p.1 = lid → s.ptc < p.2) → ∀ p ∈ s.releases, p.1 = lid → p.2 ≤ s.ptc →
      ∃ t : State, exec .releaseAtTick s = .next t ∧ t.jobFrozen lid = false ∧ lid ∉ t.frozenLids ∧ (∀ n, n ≠ lid → (n ∈ t.frozenLids ↔ n ∈ s.frozenLids)) ∧
        s.SameMem t ∧ s.SamePads t ∧ ∀ j n, t.ctx j n = s.ctx j n) ∧
    (∀ item, (∀ d i, item ≠ .log d i) → s.agenda = .scanRead k c item :: r → s.hasCtx k c = true →
      s.isFrozen k (s.ctx k c) = true →
      exec .scanRead s = .next { s.pop with hostOut := s.hostOut ++ [.scan (match item with
        | .x n => ((s.ctx k c).rx (n % 32)).setWidth 512
        | .v n => (s.ctx k c).rv (n % 32)
        | .m n => ((s.ctx k c).rm (n % 8)).setWidth 512
        | .pc => (s.ctx k c).pc.setWidth 512
        | .csr a => (s.csrRead k c a).setWidth 512
        | .scratch off => BitVec.ofNat 512 (s.padRead k (off % 2 ^ 17) 64)
        | .request num => BitVec.ofNat 512 (((s.req k num).map Req.progress).getD 0)
        | .operation i => BitVec.ofNat 512 ((((s.core k).mxq[i]?).map MxOp.done).getD 0)
        | .entry place => BitVec.ofNat 512 ((((s.core k).entryAt place).map fun e => e.low + e.src.toNat * 2 ^ 64).getD 0)
        | .log _ _ => 0)] }) ∧
    (∀ die i e, s.agenda = .scanRead k c (.log die i) :: r → (s.logs.get die {}).entries[i]? = some e →
      exec .scanRead s = .next { s.pop with hostOut := s.hostOut ++ [.log e] }) ∧
    (∀ ch < 64, let w := (s.core k).chtab.get ch 0
      w.getLsbD 63 = true → ∀ j < 4 * (w.toNat / 2 ^ 51 % 2 ^ 7),
        (s.core k).entryAt (partStart (s.core k).chtab ch + j) =
          ((s.core k).queue.filter fun e => e.channel.toNat == ch)[j]?) ∧
    ∀ q : Req, let first := q.progress * q.unit
      (∃ m, first ≤ m ∧ m < first + q.unit ∧ ∀ p ∈ q.dones, ¬ (p.1 ≤ m ∧ m < p.1 + p.2)) ∧
      ∀ m < first, ∃ p ∈ q.dones, p.1 ≤ m ∧ m < p.1 + p.2

/-- R315, R316, R178, R182, R338 to R343: a coach forms for a waiting record with the launch's identity, its channels enabled on
the cluster's cores; an eligible coach begins its save; a save writes its area and empties its contexts; a readmitted coach
has its contexts and scratchpads again, each context at its own number where that is free (logs 50, 51); a task that outlasts PREDL
stops. -/
def Obligations.CoachSteps : Prop :=
  ∀ (s : State) (r : List Event) (cl n base k c : Nat),
    let lid := BitVec.ofNat 16 n
    (s.agenda = .coachAdmission cl n :: r → s.formable cl lid none = true → ∀ l j x slot,
      s.launches.find? lid.toNat = some l → s.outranked cl (l.cls.toNat, x.since) lid = false → s.freeSlotOf cl lid none = some slot →
      j < 4 → (∃ n < 8, s.freeCtx (4 * cl + j) n = true) →
      (s.core (4 * cl + j)).arrivals.find? (fun y => y.lid == lid) = some x →
      (∀ i < j, (∀ n < 8, s.freeCtx (4 * cl + i) n = false) ∨ ∀ y ∈ (s.core (4 * cl + i)).arrivals, y.lid ≠ lid) →
      ∃ (t : State) (co : Coach), exec .coachAdmission s = .next t ∧ (t.cluster cl).coaches = (s.cluster cl).coaches ++ [co] ∧ co.lid = lid ∧
        co.slot = slot ∧ co.asid = l.asid ∧ co.kp = l.kp ∧ co.cap = l.cap ∧ co.grant = l.grant ∧ co.tile = x.tile ∧
        co.predl = l.predl ∧ co.state = .resident ∧ s.SameMem t ∧ s.SamePads t ∧ (∀ i m, t.ctx i m = s.ctx i m) ∧
        ((∀ d ∈ (s.cluster cl).coaches, d.state = .saved) → (t.cluster cl).split = l.split ∧ (t.cluster cl).fuse = l.fuse) ∧
        (channelsOnce l.chans = true → (∀ e ∈ l.chans, e.channel < 64) → ∀ e ∈ l.chans, e.part < 2 ^ 7 → e.maxRun < 2 ^ 3 → e.cls < 2 ^ 2 →
          ∀ i < 4, let w := (t.core (4 * cl + i)).chtab.get e.channel 0
            w.getLsbD 63 = true ∧ w.toNat / 2 ^ 61 % 4 = e.cls ∧ w.toNat / 2 ^ 58 % 8 = e.maxRun ∧
            w.toNat / 2 ^ 51 % 2 ^ 7 = e.part ∧ w.toNat / 2 ^ 48 % 8 = slot ∧
            w.toNat % 2 ^ 48 = e.pc.toNat % 2 ^ 48 / 4 * 4)) ∧
    (s.agenda = .coachSwap cl :: r → (∀ d ∈ (s.cluster cl).coaches, d.state ≠ .saving) → ∀ d ∈ (s.cluster cl).coaches,
      s.swappable cl d = true →
      (∀ e ∈ (s.cluster cl).coaches, s.swappable cl e = true → e ≠ d → s.coachClass cl d < s.coachClass cl e ∨
        (s.coachClass cl d = s.coachClass cl e ∧ s.oldestPark cl d < s.oldestPark cl e)) →
      exec .coachSwap s = .next (s.pop.updCoach cl d.lid fun e => { e with state := .saving })) ∧
    (s.agenda = .coachSave cl n base :: r → s.StoresWf → ∀ d, (s.cluster cl).coachOf lid = some d → s.stopped cl d = true →
      s.drained cl d = true → base % 4096 = 0 → base + 0xA2000 ≤ memorySize → cl < 2048 → (s.cluster cl).split ≤ 8 →
      (∀ b ∈ (s.cluster cl).bars, b.1 < 16) → (s.tasksOf cl d).length ≤ 32 →
      ((coresOf cl).map fun k => ((s.core k).reqs.filter fun q => q.lid == lid).length).sum ≤ 32 →
      ∃ (t : State) (e : Coach), exec .coachSave s = .next t ∧ e ∈ (t.cluster cl).coaches ∧ e.lid = lid ∧ e.state = .saved ∧ e.saved.base = base ∧
        s.SamePads t ∧ s.SameMemBut t base 0xA2000 ∧ t.memRead base 8 = 1 ∧
        t.memRead (base + 0x18) 8 = s.ptc % 2 ^ 64 ∧ t.memRead (base + 0x20) 8 = (s.tasksOf cl d).length ∧
        t.memRead (base + 0x28) 8 = d.grant.toNat ∧
        (∀ j < 4, ∀ off < s.padSize (4 * cl + j),
          cell t.mem (base + 0x22000 + 2 ^ 17 * j + off) = cell (s.core (4 * cl + j)).pad off) ∧
        (∀ i p, (s.tasksOf cl d)[i]? = some p →
          t.memRead (base + 0x100 + 4096 * i + 8) 8 =
            (if p.2.2.run = .trapped ∨ p.2.2.run = .killed then p.2.2.epc else p.2.2.pc).toNat ∧
          (∀ m < 32, t.memRead (base + 0x100 + 4096 * i + 0x40 + 8 * m) 8 = (p.2.2.flush.rx m).toNat) ∧
          t.memRead (base + 0x100 + 4096 * i + 0x9D8) 8 = p.2.2.epc.toNat) ∧
        ∀ j < 4, ∀ m, (s.ctx (4 * cl + j) m).coach = some d.slot → (t.ctx (4 * cl + j) m).run = .idle) ∧
    (s.agenda = .coachReadmission cl n :: r → s.StoresWf → ∀ home d l slot,
      (s.savedOn cl).find? (fun p => p.2.lid == lid && s.readmittable p.1 p.2 cl none) = some (home, d) →
      s.launches.find? lid.toNat = some l → s.outranked cl (s.savedClass home d, d.since) lid = false →
      (if s.bindsChannels lid then some d.slot else s.freeSlotOf cl lid none) = some slot →
      d.saved.ctxs ≠ [] → (∀ p ∈ d.saved.ctxs, p.2.run ≠ .killed ∧ p.2.run ≠ .idle ∧ p.1 < 32) →
      (∀ p ∈ d.saved.ctxs, ∀ q ∈ d.saved.ctxs, p.1 = q.1 → p = q) →
      ∃ (t : State) (e : Coach), exec .coachReadmission s = .next t ∧ e ∈ (t.cluster cl).coaches ∧ e.lid = lid ∧ e.state = .resident ∧
        e.slot = slot ∧ s.SameMem t ∧
        (∀ p ∈ d.saved.ctxs,
          let x := t.ctx (4 * cl + p.1 / 8) (SMap.get (s.seatsOf cl d none (p.1 / 8)) (p.1 % 8) 0)
          (∀ m, x.rx m = p.2.rx m ∧ x.rv m = p.2.rv m ∧ x.rm m = p.2.rm m) ∧ x.pc = p.2.pc ∧ x.coach = some slot ∧
          x.preq = false ∧ x.run = (if p.2.run = .stopped ∨ p.2.run = .yielded then .ready else p.2.run)) ∧
        (∀ p ∈ d.saved.ctxs, (s.ctx (4 * cl + p.1 / 8) (p.1 % 8)).run = .idle →
          SMap.get (s.seatsOf cl d none (p.1 / 8)) (p.1 % 8) 0 = p.1 % 8) ∧
        ∀ j < 4, ∀ off < t.padSize (4 * cl + j),
          cell (t.core (4 * cl + j)).pad off = cell (d.saved.pads.get j []) off) ∧
    (s.agenda = .predlExpiry k c :: r → (s.ctx k c).preq = true → (s.ctx k c).run = .ready → (s.ctx k c).remoteVals = [] →
      s.isFrozen k (s.ctx k c) = false →
      ∀ due m d, (s.ctx k c).predlEnd = some due → due ≤ s.cycles.get (vdnOf k) 0 → (s.ctx k c).coach = some m →
        (s.cluster (clusterOf k)).coachIn m = some d → d.state = .preempted →
        exec .predlExpiry s = .next (s.pop.setCtx k c { (s.ctx k c).flush with run := .stopped }))

/-- R317 to R322, R324: a launch begins its placement in class order, and beside a begun one only with a lower class and
other dies; a placement takes its next step, is complete when every named die holds the reservation, and gives way to a waiting
launch of class 3; a ready gang posts its message and holds the others'; the slice starts at its tick when every package is ready,
its staged messages becoming records, and ends with PREQ on the gang's coaches; a core recomputes a stage's weight from its
backlog; a context that waited 256 cycles is aged. That a begun placement lets a lower class begin beside it is the model's reading,
as are which clusters a placed launch still holds (log 30), when a sliced gang's coaches may run (log 31) and when its steps come (logs
60, 64). -/
def Obligations.LaunchSteps : Prop :=
  ∀ (s : State) (r : List Event) (lid tick p n k c : Nat),
    (s.agenda = .placementStep lid :: r → ∀ l, s.launches.find? lid = some l →
      (l.placement = .waiting → exec .placementStep s =
        .next (if s.mayBegin lid l then { s.pop with classQ := s.classQ.filter (· != lid) }.placeOne lid 0 l else s.pop)) ∧
      (l.placement = .placing n → exec .placementStep s = .next (s.pop.placeOne lid n l))) ∧
    (∀ l, s.launches.find? lid = some l → s.placings = [] →
      (s.mayBegin lid l = true ↔ ∃ c < 4, s.queueHead c = some lid ∧ ∀ d < 4, c < d → s.queueHead d = none)) ∧
    (∀ l, ∀ p ∈ s.placings, s.launches.find? lid = some l → (p.cls ≤ l.cls ∨ p.dies &&& l.dies ≠ 0) →
      lid < 65536 → s.mayBegin lid l = false) ∧
    (∀ l, s.launches.find? lid = some l → l.vdns.length ≤ n + 1 → (s.advance lid n l).placementDone lid l = true →
      ∃ m : Launch, (s.placeOne lid n l).launches.find? lid = some m ∧ m.placement = .placed ∧ m.raised = [] ∧
        s.SameMem (s.placeOne lid n l) ∧ s.SamePads (s.placeOne lid n l) ∧
        (∀ cl, ((s.placeOne lid n l).cluster cl).reservedBy = ((s.advance lid n l).cluster cl).reservedBy) ∧
        ∀ v ∈ l.vdns, l.reserve.get v 0 ≤ ((s.placeOne lid n l).reservedOn v lid).length) ∧
    (∀ l, s.launches.find? lid = some l → ¬ (l.vdns.length ≤ n + 1 ∧ (s.advance lid n l).placementDone lid l = true) →
      l.cls.toNat < 3 → s.queueHead 3 ≠ none →
      ∃ m : Launch, (s.placeOne lid n l).launches.find? lid = some m ∧ m.placement = .waiting ∧ m.raised = [] ∧
        (s.placeOne lid n l).classQ = lid :: s.classQ ∧
        ∀ cl, BitVec.ofNat 16 lid ∉ ((s.placeOne lid n l).cluster cl).reservedBy) ∧
    (∀ g l, s.gangOf lid = some g → s.launches.find? lid = some l →
      let agreed := g.t0 ≤ tick ∧ (tick - g.t0) % g.period = 0
      let able := (∀ e, (lid, e) ∈ s.slices → e ≤ tick) ∧ l.placement = .placed ∧
        ∀ m ∈ s.endpoint, (m.word 0).toNat / 4 % 2 ^ 16 = lid → m.word 5 = 0
      (s.agenda = .gangReadyPost lid tick :: r → agreed → s.ptc + 2000 ≤ tick → (lid, tick, s.pkg) ∉ s.gangReady →
        (able → ∃ t : State, exec .gangReadyPost s = .next t ∧ t.gangReady = s.gangReady ++ [(lid, tick, s.pkg)] ∧
          ∀ m, m ∈ t.gangOut ↔ m ∈ s.gangOut ∨ (m.1 = lid ∧ m.2.1 = tick ∧ m.2.2 ≠ s.pkg ∧ g.names m.2.2 = true)) ∧
        (¬ able → exec .gangReadyPost s = .next s.pop)) ∧
      (s.agenda = .gangReadyMessage lid tick p :: r → g.names p = true → p ≠ s.pkg → (lid, tick, p) ∉ s.gangReady →
        exec .gangReadyMessage s = .next { s.pop with gangReady := s.gangReady ++ [(lid, tick, p)] }) ∧
      (s.agenda = .gangDecision lid tick :: r → agreed → tick ≤ s.ptc + 1000 → ∃ t : State, exec .gangDecision s = .next t ∧
        ((∀ q < 128, g.names q = true → (lid, tick, q) ∈ s.gangReady) → (∀ e, (lid, e) ∈ s.slices → e ≤ tick) →
          t.gangStart = s.gangStart ++ [(lid, tick)]) ∧
        ((∃ q < 128, g.names q = true ∧ (lid, tick, q) ∉ s.gangReady) ∨ (∃ e, (lid, e) ∈ s.slices ∧ tick < e) →
          t.gangStart = s.gangStart) ∧
        ∀ m, m.1 ≠ lid → (m ∈ t.gangReady ↔ m ∈ s.gangReady)) ∧
      (s.agenda = .sliceStart lid tick :: r → (lid, tick) ∈ s.gangStart → tick ≤ s.ptc → (∀ e, (lid, e) ∉ s.slices) →
        ∃ t : State, exec .sliceStart s = .next t ∧
        (∀ cl m, m ∈ (t.cluster cl).staged ↔
          m ∈ (s.cluster cl).staged ∧ ¬ (m.record.lid.toNat = lid ∧ m.tick ≤ tick)) ∧
        (∃ out, t.records = s.records ++ out ∧ ∀ cl m, m ∈ (s.cluster cl).staged → m.record.lid.toNat = lid → m.tick ≤ tick →
          (m.core, m.record) ∈ out) ∧
        t.slices = (if g.sliceLen = 0 then s.slices else s.slices ++ [(lid, tick + g.sliceLen)]) ∧
        (∀ T q, (lid, T, q) ∈ t.gangReady ↔ (lid, T, q) ∈ s.gangReady ∧ tick + g.sliceLen ≤ T) ∧
        (∀ T, (lid, T) ∈ t.gangStart ↔ (lid, T) ∈ s.gangStart ∧ T ≠ tick ∧ tick + g.sliceLen ≤ T) ∧
        s.SameMem t ∧ s.SamePads t)) ∧
    (s.agenda = .sliceEnd lid :: r → ∀ e, (lid, e) ∈ s.slices → e ≤ s.ptc → ∃ t : State, exec .sliceEnd s = .next t ∧
      s.SameMem t ∧ s.SamePads t ∧ ∀ cl d, (s.cluster cl).coachOf (BitVec.ofNat 16 lid) = some d → d.state = .resident →
        (∃ d' ∈ (t.cluster cl).coaches, d'.lid = d.lid ∧ d'.state = .preempted) ∧
        ∀ j < 4, ∀ m, (s.ctx (4 * cl + j) m).coach = some d.slot → (s.ctx (4 * cl + j) m).run ≠ .idle →
          (t.ctx (4 * cl + j) m).preq = true) ∧
    (s.agenda = .stageWeightUpdate k :: r → s.hasCompute k = true → ∃ t : State, exec .stageWeightUpdate s = .next t ∧
      s.SameMem t ∧ s.SamePads t ∧ (∀ j m, t.ctx j m = s.ctx j m) ∧
      let stagesOf (d : Coach) : List Stage := ((s.launches.find? d.lid.toNat).map Launch.stages).getD []
      ∀ d ∈ (s.cluster (clusterOf k)).here, ∀ g ∈ stagesOf d, (s.core k).ownsChannel g.channel d = true →
        (∀ d' ∈ (s.cluster (clusterOf k)).here, ∀ g' ∈ stagesOf d', g'.channel = g.channel → g' = g) →
        let waiting := (s.core k).queue.countP fun e => e.channel.toNat == g.channel
        let places := 4 * (((s.core k).chtab.get g.channel 0).toNat / 2 ^ 51 % 2 ^ 7)
        (t.core k).weightsOf.get g.channel 0 = max g.wMin (min g.wMax ((8 * waiting + places - 1) / places))) ∧
    (s.agenda = .contextAged k c :: r → s.hasCtx k c = true → 256 ≤ (s.ctx k c).age →
      1 ≤ s.effOf k c → exec .contextAged s = .next (s.pop.setCtx k c { s.ctx k c with aged := true }))

/-- R307 to R309, R312, R313, R319, R361 to R363, R366, R370, R375: an active message becomes a record, is staged, waits for its
launch's registration, or is discarded and logged; a host WRITE is performed and acknowledged, a READ answered with the bytes, a refused
one with a NAK and a log entry, and one behind a held WRITE waits; a SEND joins its queue, is answered with RNR NAK, or is dropped and
counted when it is not a whole number of records (log 33), as is a packet outside the options; a log entry goes to the host. Where a
page is absent or tokens are kept elsewhere, how a host access waits is the model's (logs 32 and 38).
R304, R319, R364 to R366: a Type 1 record registers its launch when its fields keep their limits, with what its extension block says
when it names one; a Type 2 record retires a launch that nothing holds. Each is answered with its status, and a refused one changes no
launch and is logged. That a gang names two packages at least and that its Period is at least 10 µs are checked with the extension (log
34). -/
def Obligations.HostInterface : Prop :=
  (∀ (s : State) (r : List Event) (qp rkey va len : Nat) (bytes : List Byte) (control : Bool) (payload : List Word),
     (s.agenda = .activeMessage :: r → ∀ (m : EndpointRec) (rest : List EndpointRec), s.endpoint = m :: rest →
       let w (i : Nat) : Nat := (m.word i).toNat
       let k := w 4 / 2 ^ 3 % 2 ^ 13
       let die := w 4 / 2 ^ 11 % 2 ^ 5
       let early := ∃ c ∈ s.controls, (c.word 0).toNat / 2 ^ 56 = 1 ∧ (c.word 0).toNat / 2 ^ 40 % 2 ^ 16 = w 0 / 4 % 2 ^ 16 ∧ c.seq < m.seq
       let good := ∃ l, s.launches.find? (w 0 / 4 % 2 ^ 16) = some l ∧ w 3 / 2 ^ 48 = 0 ∧ w 4 / 2 ^ 23 = 0 ∧ w 4 % 8 = 0 ∧ w 6 = 0 ∧ w 7 = 0 ∧
         w 4 / 2 ^ 16 % 2 ^ 7 = s.pkg ∧ s.mapped die = true ∧ l.dies.getLsbD die = true ∧ (w 5 = 0 ∨ l.gang ≠ none) ∧
         ∀ src asid, m.put = some (src, asid) → asid = l.asid.toNat
       let tells (x : Record) (origin : Nat) : Prop := x.pc.toNat = w 0 / 2 ^ 18 * 4 ∧ x.lid.toNat = w 0 / 4 % 2 ^ 16 ∧
         x.cls.toNat = w 0 % 4 ∧ x.args = [m.word 1, m.word 2] ∧ x.tile.toNat = w 3 % 2 ^ 48 ∧ x.origin.toNat = origin
       (early → exec .activeMessage s = .next s.pop) ∧
       (¬ early → ¬ good → ∃ t : State, exec .activeMessage s = .next t ∧ t.endpoint = rest ∧ t.records = s.records ∧
         ∃ e : LogEntry, t.forward = s.forward ++ [e] ∧ e.w2 = BitVec.ofNat 64 (w 4 % 2 ^ 23 / 8 * 8)) ∧
       (¬ early → good → w 5 = 0 → s.recordRoom k = true → ∃ (t : State) (x : Record), exec .activeMessage s = .next t ∧
         t.endpoint = rest ∧ t.records = s.records ++ [(k, x)] ∧ tells x 0) ∧
       (¬ early → good → w 5 = 0 → s.recordRoom k = false → exec .activeMessage s = .next s.pop) ∧
       (¬ early → good → w 5 ≠ 0 → (s.cluster (clusterOf k)).staged.length < 64 → ∃ (t : State) (g : Staged),
         exec .activeMessage s = .next t ∧ t.endpoint = rest ∧
         (t.cluster (clusterOf k)).staged = (s.cluster (clusterOf k)).staged ++ [g] ∧ g.core = k ∧ g.tick = w 5 ∧ tells g.record 4) ∧
       (¬ early → good → w 5 ≠ 0 → 64 ≤ (s.cluster (clusterOf k)).staged.length → exec .activeMessage s = .next s.pop)) ∧
     (∀ w ∈ s.windows, (∀ v ∈ s.windows, v.rkey = w.rkey → v = w) → w.rkey = rkey →
       let holds (n : Nat) := w.va ≤ va ∧ va + n ≤ w.va + w.len
       let me := (qp, rkey, va, bytes)
       (s.agenda = .hostRdmaWrite qp rkey va bytes :: r →
         ((∃ h, s.heldOf qp = some h ∧ h ≠ me) → me ∉ s.hostHeld → exec .hostRdmaWrite s =
           .next { s.pop with hostHeld := s.hostHeld ++ [me] }) ∧
         ((∀ h, s.heldOf qp = some h → h = me) →
           (holds bytes.length → w.wr = true → ∀ pa : Nat → Nat,
             (∀ j < bytes.length, s.ioTranslate w.asid true .write (va + j) = .mem (pa j)) →
             (∀ i < bytes.length, ∀ j < bytes.length, pa i = pa j → i = j) →
             ((∀ j < bytes.length, s.lineBlocked ioHolder (pa j / 128) true = false) →
               ∃ t : State, exec .hostRdmaWrite s = .next t ∧ t.hostOut = s.hostOut ++ [HostMsg.ack qp] ∧ s.SamePads t ∧
                 t.hostHeld = s.hostHeld.erase me ∧ (∀ j < bytes.length, some (cell t.mem (pa j)) = bytes[j]?) ∧
                 ∀ a, (∀ j < bytes.length, a ≠ pa j) → cell t.mem a = cell s.mem a) ∧
             ((∃ j < bytes.length, s.lineBlocked ioHolder (pa j / 128) true = true) →
               ∃ t : State, exec .hostRdmaWrite s = .next t ∧ t.hostOut = s.hostOut ∧ s.SameMem t ∧ s.SamePads t ∧ me ∈ t.hostHeld)) ∧
           (¬ (holds bytes.length ∧ w.wr = true) → ∃ (t : State) (e : LogEntry), exec .hostRdmaWrite s = .next t ∧
             t.hostOut = s.hostOut ++ [HostMsg.nak qp] ∧ s.SameMem t ∧ s.SamePads t ∧ t.forward = s.forward ++ [e] ∧
             e.w2 = BitVec.ofNat 64 (qp % 2 ^ 24 * 2 ^ 32 + rkey % 2 ^ 32) ∧ e.w3 = BitVec.ofNat 64 va))) ∧
       (s.agenda = .hostRdmaRead qp rkey va len :: r →
         (s.heldOf qp ≠ none → exec .hostRdmaRead s = .next s.pop) ∧
         (s.heldOf qp = none →
           (holds len → w.rd = true → ∀ pa : Nat → Nat,
             (∀ j < len, s.ioTranslate w.asid true .read (va + j) = .mem (pa j)) →
             ((∀ j < len, poisonedAt s.poison (pa j) 1 = false) →
               (∀ j < len, s.lineBlocked ioHolder (pa j / 128) false = false) → exec .hostRdmaRead s =
               .next { s.pop.holderReads ioHolder ((List.range len).map pa) with
                 hostOut := s.hostOut ++ [.readData qp ((List.range len).map fun j => cell s.mem (pa j))] }) ∧
             ((∃ j < len, poisonedAt s.poison (pa j) 1 = true) → exec .hostRdmaRead s =
               .next { s.pop with hostOut := s.hostOut ++ [HostMsg.nak qp] })) ∧
           (¬ (holds len ∧ w.rd = true) → ∃ (t : State) (e : LogEntry), exec .hostRdmaRead s = .next t ∧
             t.hostOut = s.hostOut ++ [HostMsg.nak qp] ∧ s.SameMem t ∧ s.SamePads t ∧ t.forward = s.forward ++ [e])))) ∧
     (s.agenda = .hostSend qp control payload :: r →
       let n := payload.length / 8
       let recs : List EndpointRec :=
         (List.range n).map fun i => { words := (payload.drop (8 * i)).take 8, qp := qp, seq := s.endSeq + 1 }
       (payload.length % 8 ≠ 0 → exec .hostSend s = .next { s.pop with dropped := s.dropped + 1 }) ∧
       (payload.length % 8 = 0 → s.heldOf qp ≠ none → exec .hostSend s = .next s.pop) ∧
       (payload.length % 8 = 0 → s.heldOf qp = none → 1024 < s.endpoint.length + s.controls.length + n →
         exec .hostSend s = .next { s.pop with hostOut := s.hostOut ++ [HostMsg.rnr qp] }) ∧
       (payload.length % 8 = 0 → s.heldOf qp = none → s.endpoint.length + s.controls.length + n ≤ 1024 → exec .hostSend s =
         .next { s.pop with hostOut := s.hostOut ++ [HostMsg.ack qp], endSeq := s.endSeq + 1
                            controls := if control then s.controls ++ recs else s.controls
                            endpoint := if control then s.endpoint else s.endpoint ++ recs })) ∧
     (s.agenda = .hostOutside qp :: r → exec .hostSend s = .next { s.pop with dropped := s.dropped + 1 }) ∧
     (s.agenda = .logForward :: r → ∀ (e : LogEntry) (rest : List LogEntry), s.forward = e :: rest →
       exec .logForward s = .next { s.pop with forward := rest, hostOut := s.hostOut ++ [HostMsg.log e] })) ∧
  (∀ (s : State) (r : List Event),
     (∀ (m : EndpointRec) (rest : List EndpointRec), s.controls = m :: rest →
       let w (i : Nat) : Nat := (m.word i).toNat
       let lid := w 0 / 2 ^ 40 % 2 ^ 16
       let type := w 0 / 2 ^ 56
       let fits := w 0 % 2 ^ 18 = 0 ∧ w 4 / 2 ^ 48 = 0 ∧ w 5 = 0 ∧ w 6 = 0 ∧ w 7 = 0 ∧ w 1 / 2 ^ 48 = 0 ∧ lid ≠ 0 ∧
         w 0 / 2 ^ 21 % 16 ≤ 8 ∧ w 0 / 2 ^ 18 % 4 ≤ w 0 / 2 ^ 25 % 4 ∧ w 3 / 2 ^ 32 ≠ 0 ∧ w 3 % 2 ^ 32 ≠ 0 ∧
         ∀ v < 32, (m.word 3).getLsbD v = true → s.mapped v = true
       let answers (i : Instr) (status : Nat) : Prop := ∃ t : State, exec i s = .next t ∧ t.controls = rest ∧
         t.hostOut = s.hostOut ++ [HostMsg.reply (m.word 0) (BitVec.ofNat 64 status)] ∧ s.SameMem t ∧ s.SamePads t ∧
         (status ≠ 0 → t.launches = s.launches ∧ ∃ e : LogEntry, t.forward = s.forward ++ [e] ∧ e.w2 = m.word 0 ∧
           e.w3 = BitVec.ofNat 64 status)
       let registers (also : Launch → Prop) : Prop := ∃ (t : State) (l : Launch), exec .registerLaunch s = .next t ∧ t.controls = rest ∧
         t.launches.find? lid = some l ∧ t.hostOut = s.hostOut ++ [HostMsg.reply (m.word 0) 0] ∧ t.classQ = s.classQ ++ [lid] ∧
         t.registeredOnce = true ∧ l.placement = .waiting ∧ l.kp = m.word 1 ∧ l.grant = m.word 2 ∧
         l.asid.toNat = w 0 / 2 ^ 27 % 2 ^ 13 ∧ l.cls.toNat = w 0 / 2 ^ 18 % 4 ∧ l.cap.toNat = w 0 / 2 ^ 25 % 4 ∧
         l.split = w 0 / 2 ^ 21 % 2 ^ 4 ∧ l.fuse = (m.word 0).getLsbD 20 ∧
         l.dies.toNat = w 3 % 2 ^ 32 ∧ l.predl.toNat = w 3 / 2 ^ 32 ∧ (∀ n, n ≠ lid → t.launches.find? n = s.launches.find? n) ∧
         s.SameMem t ∧ s.SamePads t ∧ also l
       (s.agenda = .registerLaunch :: r →
         (type ≠ 1 → type ≠ 2 → answers .registerLaunch 5) ∧
         (type = 1 → ¬ fits → answers .registerLaunch 1) ∧
         (type = 1 → fits → s.launches.find? lid ≠ none → answers .registerLaunch 2) ∧
         (type = 1 → fits → s.launches.find? lid = none →
           (w 4 % 2 ^ 48 = 0 → registers fun l => l.chans = [] ∧ l.stages = [] ∧ l.gang = none ∧
             ∀ v < 32, l.reserve.get v 0 = if l.dies.getLsbD v then 1 else 0) ∧
           (w 4 % 2 ^ 48 ≠ 0 →
             let asid := BitVec.ofNat 13 (w 0 / 2 ^ 27)
             let ext := w 4 % 2 ^ 48
             (s.extRead asid ext 80 = .bad → answers .registerLaunch 3) ∧
             (∀ pas, s.extRead asid ext 80 = .later pas →
               exec .registerLaunch s = .next (s.pop.wantTokens ioHolder false pas .host)) ∧
             ∀ b pas b' pas', s.extRead asid ext 80 = .bytes b pas →
               let nc := fieldAt b 32 1
               let ns := fieldAt b 33 1
               (64 < nc ∨ 8 < ns → answers .registerLaunch 1) ∧
               (nc ≤ 64 → ns ≤ 8 → s.extRead asid ext (80 + 8 * nc + 4 * ns) = .bytes b' pas' →
                 ((m.launch.withExt b').extOk = true → registers fun l =>
                   (∀ v < 32, l.reserve.get v 0 = fieldAt b' v 1) ∧ l.chans.length = fieldAt b' 32 1 ∧ l.stages.length = fieldAt b' 33 1 ∧
                   (∀ i c, l.chans[i]? = some c → let e := fieldAt b' (80 + 8 * i) 8
                     c.channel = e % 2 ^ 6 ∧ c.part = e / 2 ^ 6 % 2 ^ 7 ∧ c.maxRun = e / 2 ^ 13 % 2 ^ 3 ∧ c.cls = e / 2 ^ 16 % 2 ^ 2 ∧
                     c.pc.toNat = 4 * (e / 2 ^ 18)) ∧
                   (∀ i g, l.stages[i]? = some g → let e := fieldAt b' (80 + 8 * fieldAt b' 32 1 + 4 * i) 4
                     g.channel = e % 2 ^ 6 ∧ g.wMin = e / 2 ^ 8 % 2 ^ 4 ∧ g.wMax = e / 2 ^ 12 % 2 ^ 4) ∧
                   (fieldAt b' 34 1 % 2 = 0 → l.gang = none) ∧
                   (fieldAt b' 34 1 % 2 = 1 → ∃ g, l.gang = some g ∧ g.packages = fieldAt b' 40 16 ∧ g.t0 = fieldAt b' 56 8 ∧
                     g.period = fieldAt b' 64 8 ∧ g.sliceLen = fieldAt b' 72 8)) ∧
                 ((m.launch.withExt b').extOk = false → answers .registerLaunch 1))))) ∧
       (s.agenda = .retireLaunch :: r → type = 2 →
         let clean := w 0 % 2 ^ 40 = 0 ∧ ∀ i, 1 ≤ i → i < 8 → w i = 0
         (¬ clean → answers .retireLaunch 1) ∧
         (clean → s.launches.find? lid = none → answers .retireLaunch 2) ∧
         (clean → s.launches.find? lid ≠ none → s.launchBusy lid = true → answers .retireLaunch 4) ∧
         (clean → s.launches.find? lid ≠ none → s.launchBusy lid = false → ∃ t : State, exec .retireLaunch s = .next t ∧
           t.controls = rest ∧ t.launches.find? lid = none ∧ lid ∉ t.classQ ∧ lid ∉ t.frozenLids ∧
           t.hostOut = s.hostOut ++ [HostMsg.reply (m.word 0) 0]))) ∧
     ∀ l : Launch, (l.extOk = true ↔
       (∀ v < 32, if l.dies.getLsbD v then 1 ≤ l.reserve.get v 0 ∧ l.reserve.get v 0 ≤ 64 else l.reserve.get v 0 = 0) ∧
       l.chans.length ≤ 64 ∧ l.stages.length ≤ 8 ∧ (l.chans.map ChanEntry.channel).Nodup ∧ (∀ c ∈ l.chans, 1 ≤ c.part) ∧
       (l.chans.map ChanEntry.part).sum ≤ 256 ∧ (∀ g ∈ l.stages, 1 ≤ g.wMin ∧ g.wMin ≤ g.wMax ∧ g.wMax ≤ 8) ∧
       ∀ g, l.gang = some g → 2 ≤ ((List.range 128).filter g.packages.testBit).length ∧ 10000 ≤ g.period))

/-! ### Tokens and tiers -/

/-- R268 to R273, R135: the token protocol on one line. A holder answers a read with one token and data when it is the owner, and a
write with all that it has; tokens reach their holder, and go on to the active requester; a requester without what it needs asks every
other holder, up to four times, and then persistently; the home activates one persistent request at a time, its holders obey it and
go back to transient requests when it is done; the requester that has performed its access says so; an evicted line's tokens go home;
a constrained sequence keeps tokens for 256 cycles at most (log 13). When an access takes or waits for tokens is the model's reading
(logs 35 and 38). -/
def Obligations.TokenSteps : Prop :=
  ∀ (s : State) (r : List Event) (h n q num i k c : Nat) (write : Bool),
    let l := s.line n
    let becomes (e : Instr) (P : Line → Prop) : Prop := ∃ m : Line, exec e s = .next (s.pop.updLine n fun _ => m) ∧ P m
    let sendsAll (m : Line) (dst : Nat) : Prop :=
      m.count h = 0 ∧ h ∉ m.valid ∧ m.owner = (if l.owner = some h then none else l.owner) ∧
        m.flying = l.flying ++ [{ dst := dst, count := l.count h, owner := l.owner == some h, data := l.owner == some h }] ∧
        ∀ g, g ≠ h → m.count g = l.count g ∧ (g ∈ m.valid ↔ g ∈ l.valid)
    let silent := l.obeying.find? h = none ∧ l.kept h = false
    (s.agenda = .reqRead h n q num :: r → (h, q, false, num) ∈ l.asks → h ≠ q →
      let asked := s.pop.updLine n fun m => { m with asks := m.asks.erase (h, q, false, num) }
      (l.kept h = true → exec .reqRead s = .next (s.pop.updLine n fun m => m)) ∧
      (l.kept h = false → l.obeying.find? h ≠ none → exec .reqRead s = .next asked) ∧
      (silent → l.owner ≠ some h → exec .reqRead s = .next asked) ∧
      (silent → l.owner = some h → 1 < l.count h → becomes .reqRead fun m => m.count h = l.count h - 1 ∧ m.owner = some h ∧
        m.valid = l.valid ∧ m.flying = l.flying ++ [{ dst := q, count := 1, owner := false, data := true }] ∧
        m.asks = l.asks.erase (h, q, false, num)) ∧
      (silent → l.owner = some h → l.count h = 1 → becomes .reqRead fun m => sendsAll m q)) ∧
    (s.agenda = .reqWrite h n q num :: r → (h, q, true, num) ∈ l.asks → h ≠ q →
      let asked := s.pop.updLine n fun m => { m with asks := m.asks.erase (h, q, true, num) }
      (l.kept h = true → exec .reqWrite s = .next (s.pop.updLine n fun m => m)) ∧
      (l.kept h = false → l.obeying.find? h ≠ none → exec .reqWrite s = .next asked) ∧
      (silent → l.count h ≠ 0 → becomes .reqWrite fun m => sendsAll m q ∧ m.asks = l.asks.erase (h, q, true, num)) ∧
      (silent → l.count h = 0 → exec .reqWrite s = .next asked)) ∧
    (∀ m, s.agenda = .tokens n i :: r → l.flying[i]? = some m →
      (l.obeying.find? m.dst = none → s.noRoom m.dst n = true → exec .tokens s = .next s.pop) ∧
      (l.obeying.find? m.dst = none → s.noRoom m.dst n = false → ∃ t : State, exec .tokens s = .next t ∧ s.SameMem t ∧ s.SamePads t ∧
        (∀ j, j ≠ n → t.line j = s.line j ∨ (s.sliceFull m.dst n = true ∧ t.line j = (s.line j).goHome m.dst)) ∧
        let x := t.line n
        x.count m.dst = l.count m.dst + m.count ∧ (∀ g, g ≠ m.dst → x.count g = l.count g) ∧
        x.owner = (if m.owner then some m.dst else l.owner) ∧ (m.data = true → m.dst ∈ x.valid) ∧
        x.flying = l.flying.eraseIdx i) ∧
      (l.obeying.find? m.dst = some q → q ≠ m.dst → l.kept m.dst = false → m.count ≠ 0 → becomes .tokens fun x =>
        x.count m.dst = 0 ∧ (∀ g, g ≠ m.dst → x.count g = l.count g) ∧ ∃ f : TokMsg,
          x.flying = l.flying.eraseIdx i ++ [f] ∧ f.dst = q ∧ f.count = l.count m.dst + m.count)) ∧
    (s.agenda = .transientAttempt n q write :: r → s.isHolder q = true → q ≠ homeHolder → 128 * n < memorySize →
      l.satisfied q write = false →
      (l.reqs = [] → becomes .transientAttempt fun m =>
        m.reqs = [{ requester := q, write := write, since := s.ptc }] ∧ m.reqNum = l.reqNum + 1 ∧
        ∀ g, (g, q, write, l.reqNum + 1) ∈ m.asks ↔
          (g, q, write, l.reqNum + 1) ∈ l.asks ∨ (s.isHolder g = true ∧ g < 34 ∧ g ≠ q)) ∧
      (∀ x, l.reqs = [x] → x.requester = q → x.write = write → x.persistent = false → x.attempts < 4 →
        becomes .transientAttempt fun m => m.reqs = [{ x with attempts := x.attempts + 1 }] ∧ m.reqNum = l.reqNum + 1)) ∧
    (∀ x, s.agenda = .transientTimeout n q :: r → l.reqs = [x] → x.requester = q → x.persistent = false →
      l.satisfied q x.write = false → 4 ≤ x.attempts ∨ x.since + 2000 ≤ s.ptc →
      s.outstanding n q < (if q = ioHolder then 4 else 1) → becomes .transientTimeout fun m =>
        m.reqs = [{ x with persistent := true }] ∧ m.asked = l.asked ++ [q]) ∧
    (s.agenda = .persistReq n q :: r → q ∈ l.asked →
      (l.active ≠ none → exec .persistReq s = .next (s.pop.updLine n fun m =>
        { m with asked := m.asked.erase q, table := m.table ++ [q] })) ∧
      (l.active = none → l.table = [] → becomes .persistReq fun m => m.active = some q ∧ m.table = [] ∧ m.asked = l.asked.erase q ∧
        m.actNum = l.actNum + 1 ∧ ∀ g, (s.isHolder g = true ∧ g < 34) → (g, m.actNum.toNat, q) ∈ m.ons)) ∧
    (s.agenda = .persistOn h n num :: r → l.ons.find? (fun m => m.1 == h && m.2.1 == num) = some (h, num, q) →
      (l.kept h = true → exec .persistOn s = .next s.pop) ∧
      (l.kept h = false → l.stale h num = true → exec .persistOn s = .next (s.pop.updLine n fun m =>
        { m with ons := m.ons.erase (h, num, q) })) ∧
      (l.kept h = false → l.stale h num = false → h ≠ q → ∃ t : State, exec .persistOn s = .next t ∧ s.SameMem t ∧ s.SamePads t ∧
        (t.line n).obeying.find? h = some q ∧ (t.line n).count h = 0 ∧ ((t.line n).seen.get h 0).toNat = num % 2 ^ 16 ∧
        (l.count h ≠ 0 → (t.line n).flying = l.flying ++
          [{ dst := q, count := l.count h, owner := l.owner == some h, data := l.owner == some h }]))) ∧
    (s.agenda = .persistOff h n num :: r → l.offs.find? (fun m => m.1 == h && m.2.1 == num) = some (h, num, q) → l.stale h num = false →
      becomes .persistOff fun m => m.obeying.find? h = none ∧ (∀ g, g ≠ h → m.obeying.find? g = l.obeying.find? g) ∧
        m.offs = l.offs.erase (h, num, q)) ∧
    (s.agenda = .persistDone n q num :: r → (q, num) ∈ l.dones →
      (l.active = some q → l.actNum.toNat = num → becomes .persistDone fun m =>
        (∀ g, s.isHolder g = true → g < 34 → (g, num, q) ∈ m.offs) ∧ m.active = l.table.head? ∧ m.dones = l.dones.erase (q, num)) ∧
      (l.active ≠ some q ∨ l.actNum.toNat ≠ num → exec .persistDone s = .next (s.pop.updLine n fun m =>
        { m with dones := m.dones.erase (q, num) }))) ∧
    (∀ x, s.agenda = .persistDone n q num :: r → (q, num) ∉ l.dones → l.active ≠ none → l.wants = [(q, write, .ctx k c)] →
      (s.ctx k c).run ≠ .waiting (.line q n write) → l.reqs = [x] → x.requester = q → x.persistent = true →
      l.satisfied q x.write = true → l.obeying.find? q = some q → becomes .persistDone fun m =>
        m.wants = [] ∧ m.reqs = [] ∧ m.dones = l.dones ++ [(q, (l.seen.get q 0).toNat)]) ∧
    (s.agenda = .lineEviction h n :: r → h < 32 → s.pinned h n = false → l.kept h = false → l.count h ≠ 0 →
      becomes .lineEviction fun m => sendsAll m homeHolder) ∧
    (s.agenda = .constrainedSequenceLimit k c :: r →
      List.find? (fun (p : Nat × Line) => p.2.keptBy k c) s.lines = some (n, l) →
      ((∀ p ∈ l.held, p.core = k → p.ctx = c → p.since + 256 ≤ s.cycles.get (vdnOf k) 0) →
        ∃ t : State, exec .constrainedSequenceLimit s = .next t ∧ s.SameMem t ∧ s.SamePads t ∧
          (t.line n).held = l.held.filter (fun p => !(p.core == k && p.ctx == c)) ∧ ∀ j, j ≠ n → t.line j = s.line j) ∧
      ((∃ p ∈ l.held, p.core = k ∧ p.ctx = c ∧ s.cycles.get (vdnOf k) 0 < p.since + 256) →
        exec .constrainedSequenceLimit s = .next s.pop)) ∧
    (l.blocked h write = true ↔ l.satisfied h write = false ∧
      ((∃ a, l.active = some a ∧ a ≠ h) ∨ (∃ p ∈ l.obeying, p.2 ≠ h) ∨
        ∃ p ∈ l.held, p.holder ≠ h ∧ (write = true ∨ l.owner = some p.holder))) ∧
    ∀ x, l.reqs = [x] → x.requester = h → x.persistent = true → l.satisfied h x.write = true → l.obeying.find? h = some h →
      (l.accessed h x.write).reqs = [] ∧ (l.accessed h x.write).dones = l.dones ++ [(h, (l.seen.get h 0).toNat)]

/-- R352 to R354: a promote starts a promotion, joins one, completes at once for a tile that is held, or waits for an eviction or
behind a command that waits; an evict drops its user's reference, the last one starting the eviction; a query completes; a malformed
record is logged and completes. The end of a promotion gives the named die all tokens of the tile's lines, when its tier storage has
room; that of an eviction removes the tile. A counter that cannot take its 1 yet is tried again as the next step of a tier manager
begins: the model's choice (log 36). So are these: a tile that reaches 3,072 GB has only the lines below, and a slice takes a tile's
lines when those that it may not evict leave them room (log 69); a base alone names a tile (log 84); a tile's rows may not overlap (log
85); the counter is reached in the ASID that comes with the step, with supervisor privilege (log 86). -/
def Obligations.TierSteps : Prop :=
  ∀ (s : State) (r : List Event) (w0 w1 w2 w3 : Word) (asid base : Nat),
    let op := w0.toNat / 2 ^ 62
    let user := w0.toNat / 2 ^ 46 % 2 ^ 16
    let vdn := w0.toNat / 2 ^ 41 % 2 ^ 5
    let cnt := w3.toNat / 8 * 8
    let tile := w1.toNat % 2 ^ 5 * 2 ^ 47 + w0.toNat % 2 ^ 40 * 2 ^ 7
    let good := boxOk w2 = true ∧ boxApart w2 = true
    let a := s.pop.tierRetry
    let done (u : State) := u.tierDone cnt asid
    let cmd (p : Bool) : TierCmd := { promote := p, user := user, vdn := vdn, geo := w2, cnt := cnt, asid := asid }
    (s.tierCounts = [] → a = s.pop) ∧
    (∀ p, s.tierCounts = [p] → p.1 ≠ 0 → a = { s.pop with tierCounts := [] }.tierDone p.1 p.2) ∧
    (a.tiles = s.tiles ∧ s.SamePads a) ∧
    (∀ pa, cnt ≠ 0 → s.ioTranslate (BitVec.ofNat 13 asid) true .readWrite cnt = .mem pa →
      (s.lineBlocked ioHolder (pa / 128) true = false →
        (done s).memRead pa 8 = (s.memRead pa 8 + 1) % 2 ^ 64 ∧ s.SameMemBut (done s) pa 8 ∧ s.SamePads (done s)) ∧
      (s.lineBlocked ioHolder (pa / 128) true = true →
        (done s).tierCounts = s.tierCounts ++ [(cnt, asid)] ∧ s.SameMem (done s) ∧ s.SamePads (done s))) ∧
    (cnt ≠ 0 → (s.ioTranslate (BitVec.ofNat 13 asid) true .readWrite cnt = .absent ∨
        s.ioTranslate (BitVec.ofNat 13 asid) true .readWrite cnt = .miss) →
      done s = { s with tierCounts := s.tierCounts ++ [(cnt, asid)] }) ∧
    (cnt = 0 → done s = s) ∧
    (s.agenda = .tierPromote w0 w1 w2 w3 asid :: r →
      (op = 3 ∨ (op = 0 ∧ (¬ good ∨ s.mapped vdn = false)) → ∃ (u : State) (e : LogEntry), exec .tierPromote s = .next (done u) ∧
        u.tiles = s.tiles ∧ u.mem = a.mem ∧ u.forward = s.forward ++ [e] ∧ e.w2 = w0) ∧
      (op = 0 → good → s.mapped vdn = true →
        (s.tiles.find? tile = none → ∃ (t : State) (x : Tile), exec .tierPromote s = .next t ∧ t.tiles.find? tile = some x ∧
          x.state = .promoting ∧ x.users = [user] ∧ x.vdn = vdn ∧ x.geo = w2 ∧ x.promoting = [(cnt, asid)]) ∧
        ∀ x, s.tiles.find? tile = some x →
          (x.state = .promoting → x.waiting = [] → ∃ (t : State) (y : Tile), exec .tierPromote s = .next t ∧
            t.tiles.find? tile = some y ∧ user ∈ y.users ∧ y.state = .promoting ∧ y.vdn = x.vdn ∧
            y.promoting = x.promoting ++ [(cnt, asid)]) ∧
          (x.state = .held → ∃ (t u : State) (y : Tile), exec .tierPromote s = .next t ∧ t = done u ∧ t.tiles.find? tile = some y ∧
            user ∈ y.users ∧ y.state = .held ∧ y.vdn = x.vdn ∧ u.mem = a.mem) ∧
          (x.state = .evicting ∨ (x.state = .promoting ∧ x.waiting ≠ []) → exec .tierPromote s =
            .next (a.setTile tile { x with waiting := x.waiting ++ [cmd true] })))) ∧
    (s.agenda = .tierEvict w0 w1 w2 w3 asid :: r → op = 1 → good →
      (s.tiles.find? tile = none → exec .tierEvict s = .next (done a)) ∧
      ∀ x, s.tiles.find? tile = some x →
        (x.state = .promoting ∨ (x.state = .evicting ∧ x.waiting ≠ []) → exec .tierEvict s =
          .next (a.setTile tile { x with waiting := x.waiting ++ [cmd false] })) ∧
        ((x.state = .evicting ∧ x.waiting = []) ∨ (x.state = .held ∧ user ∉ x.users) → exec .tierEvict s = .next (done a)) ∧
        (x.state = .held → user ∈ x.users → (∀ u ∈ x.users, u = user) → exec .tierEvict s =
          .next (a.setTile tile { x with users := [], state := .evicting, evicting := [(cnt, asid)] })) ∧
        (x.state = .held → user ∈ x.users → (∃ u ∈ x.users, u ≠ user) → exec .tierEvict s =
          .next (done (a.setTile tile { x with users := x.users.filter (· != user) })))) ∧
    (s.agenda = .tierQuery w0 w1 w2 w3 asid :: r → op = 2 → good → exec .tierQuery s = .next (done a)) ∧
    (∀ x, s.agenda = .tileHeld base :: r → s.tiles.find? base = some x → x.state = .promoting → s.mapped x.vdn = true →
      let lines := tileLines base x.geo
      let room := ∀ n ∈ lines, ((a.pinnedOn x.vdn ++ lines).filter fun m => homeSlice m == homeSlice n).length ≤ 64 * s.tierWays
      (¬ room → exec .tileHeld s = .next a) ∧
      (room → a.slicesTake x.vdn lines = true → (∀ n ∈ lines, (a.line n).held = [] ∧ a.lineBlocked x.vdn n true = false) → x.waiting = [] →
        (∀ p ∈ x.promoting, p.1 = 0) → ∃ (t : State) (y : Tile), exec .tileHeld s = .next t ∧ t.tiles.find? base = some y ∧ y.state = .held ∧
          y.users = x.users ∧ y.promoting = [] ∧ (∀ n ∈ lines, (t.line n).count x.vdn = 64) ∧ a.SameMem t ∧ s.SamePads t)) ∧
    ∀ x, s.agenda = .tileAbsent base :: r → s.tiles.find? base = some x → x.state = .evicting → x.waiting = [] →
      (∀ p ∈ x.evicting, p.1 = 0) → ∃ t : State, exec .tileAbsent s = .next t ∧ t.tiles.find? base = none ∧
        (∀ n ∈ tileLines base x.geo, x.vdn ≠ homeHolder → (a.line n).obeying.find? homeHolder ≠ some x.vdn →
          (t.line n).count x.vdn = 0) ∧ (∀ n ∈ tileLines base x.geo, 128 * n < memorySize) ∧ a.SameMem t ∧ s.SamePads t

/-! ### Links, time, power and trust -/

/-- R23, R25, R276, R356 to R360, R367 to R370, R372 to R374: replays and retraining of a link; a die that leaves and the launches
that it aborts; a remap of a VDN; the time counter's rate and its one step forward; budgets, the governor, and the thermal limits;
a poisoned word; and power-on. The boot table for one or two failing dies is the model's choice (log 22), the numbers of links are (log
21), and a copy's poison (log 37), what a budget delays (log 58), how a rate is picked (log 59), what an abort leaves (log 56) and a
remapped VDN holds (log 57) are its readings; what BX-T logs without a Kind is free (log 4). -/
def Obligations.PackageSteps : Prop :=
  ∀ (s : State) (r : List Event) (n vdn phys p ref k a value energy celsius : Nat) (ok : Bool) (packages : List Nat)
    (item : BudgetItem) (failing : List BootDie),
    let link := s.links.get n {}
    let known := (128 ≤ n ∧ n < 144) ∨ ∃ d ∈ s.vdns, 4 * d.2 ≤ n ∧ n < 4 * d.2 + 4
    (link.down = false → link.retraining = false → known →
      (s.agenda = .linkUnitReplay n false :: r → exec .linkUnitReplay s = .next (s.pop.setLink n { link with fails := 0 })) ∧
      (s.agenda = .linkUnitReplay n true :: r → link.fails < 15 → exec .linkUnitReplay s =
        .next (s.pop.setLink n { link with fails := link.fails + 1 })) ∧
      (s.agenda = .linkUnitReplay n true :: r → 15 ≤ link.fails → ∃ (t : State) (e : LogEntry), exec .linkUnitReplay s = .next t ∧
        (t.links.get n {}).retraining = true ∧ t.forward = s.forward ++ [e] ∧ e.w2 = BitVec.ofNat 64 n ∧ e.w3 = 0)) ∧
    (s.agenda = .linkUnitReplay n ok :: r → ¬ known → exec .linkUnitReplay s = .next s.pop) ∧
    (s.agenda = .linkRetrain n ok :: r → link.retraining = true →
      (ok = true → exec .linkRetrain s = .next (s.pop.setLink n {})) ∧
      (ok = false → ∃ (t : State) (e : LogEntry), exec .linkRetrain s = .next t ∧ (t.links.get n {}).down = true ∧
        t.forward = s.forward ++ [e] ∧ e.w2 = BitVec.ofNat 64 n ∧ e.w3 = 1)) ∧
    (s.agenda = .dieOutOfService vdn :: r → s.mapped vdn = true →
      (s.cutOff vdn = false → ∃ t : State, exec .dieOutOfService s = .next t ∧ t.mapped vdn = false ∧
        (∀ v, v ≠ vdn → t.vdns.find? v = s.vdns.find? v) ∧ (∀ d, s.vdns.find? vdn = some d → (vdn, d) ∈ t.lost) ∧
        s.SameMem t ∧ s.SamePads t ∧ (∀ m, vdn ≠ homeHolder → (t.line m).count vdn = 0) ∧
        ∀ lid ∈ s.dieLids vdn,
          (∀ l, s.launches.find? lid.toNat = some l → ∃ l', t.launches.find? lid.toNat = some l' ∧ l'.aborted = true) ∧
          (∀ cl, ∀ d ∈ (t.cluster cl).coaches, d.lid ≠ lid) ∧ (∀ x ∈ t.records, x.2.lid ≠ lid)) ∧
      (s.cutOff vdn = true → ∃ t : State, exec .dieOutOfService s = .next t ∧ t.held = true ∧ s.SameMem t ∧ s.SamePads t)) ∧
    (s.agenda = .vdnRemap vdn phys :: r →
      let works := phys < 32 ∧ .compute phys ∉ s.inReset ∧ ∀ d ∈ s.lost, d.2 ≠ phys
      (s.mapped vdn = true → works → (∀ d ∈ s.vdns, d.2 = phys → d.1 = vdn) →
        (∀ d ∈ s.clusters, d.1 / 64 = vdn → ∀ e ∈ d.2.coaches, e.state = .saved ∧ e.saved.placeBound = false) →
        ∃ t : State, exec .vdnRemap s = .next t ∧ t.vdns = s.vdns.set vdn phys ∧ s.SameMem t ∧ s.SamePads t ∧
          (∀ m, vdn ≠ homeHolder → (t.line m).count vdn = 0)) ∧
      (s.mapped vdn = false ∨ ¬ works → exec .vdnRemap s = .next s.pop)) ∧
    (s.agenda = .timeMessage p ref :: r →
      let hears := (∃ j < 16, (s.links.get (128 + j) {}).down = false ∧ (s.links.get (128 + j) {}).retraining = false) ∧
        p ∈ s.domain ∧ p < s.pkg
      (¬ hears → exec .timeMessage s = .next s.pop) ∧
      (hears → ∃ t : State, exec .timeMessage s = .next t ∧ t.ptc = s.ptc ∧
        (s.ptc < ref → 0 ≤ t.rate ∧ t.rate ≤ 200) ∧ (ref < s.ptc → -200 ≤ t.rate ∧ t.rate ≤ 0) ∧
        (s.ptc = ref → t.rate = 0))) ∧
    (s.agenda = .domainJoin ref packages :: r → s.joined = false → s.pkg ∈ packages → (∀ q ∈ packages, q < 128) →
      (s.registeredOnce = false → exec .domainJoin s =
        .next { s.pop with joined := true, domain := packages, ptc := max s.ptc ref }) ∧
      (s.registeredOnce = true → exec .domainJoin s = .next s.pop)) ∧
    (s.agenda = .budgetSetting item value :: r →
      (((∃ i j, item = .link i j) ∨ (∃ i j, item = .memory i j) ∨ (∃ i j, item = .tier i j) ∨ item = .governor) →
        exec .budgetSetting s = .next { s.pop with budgets := s.budgets.filter (fun b => b.1 != item) ++ [(item, value)] }) ∧
      (∀ rkey asid va len rd wr, item = .window rkey asid va len rd wr → ∃ t : State, exec .budgetSetting s = .next t ∧
        ∀ w, w ∈ t.windows ↔ (w ∈ s.windows ∧ w.rkey ≠ rkey) ∨
          (value ≠ 0 ∧ w = { rkey := rkey, asid := BitVec.ofNat 13 asid, va := va, len := len, rd := rd, wr := wr })) ∧
      (item = .tierWays → s.tiles = [] → exec .budgetSetting s = .next { s.pop with tierWays := min value 2 })) ∧
    (s.agenda = .budgetPeriod :: r → exec .budgetPeriod s =
      .next { s.pop with left := s.budgets.filter fun b => b.1 != .governor }) ∧
    (s.agenda = .governorPeriod energy :: r →
      ((∀ b ∈ s.budgets, b.1 ≠ .governor) → exec .governorPeriod s = .next { s.pop with throttled := decide (180000 < energy) }) ∧
      ∀ limit, s.budgets.find? (fun b => b.1 == .governor) = some (.governor, limit) →
        exec .governorPeriod s = .next { s.pop with throttled := decide (min 180000 limit < energy) }) ∧
    (s.agenda = .thermalThrottle celsius :: r → exec .thermalThrottle s = .next { s.pop with hot := decide (105 < celsius) }) ∧
    (s.agenda = .thermalTrip celsius :: r → 115 ≤ celsius → ∃ t : State, exec .thermalTrip s = .next t ∧ t.held = true ∧
      ∃ e : LogEntry, t.forward = s.forward ++ [e]) ∧
    (∀ place, place = .memory ∨ (place = .l1 ∧ k ∈ (s.line (a / 128)).l1) ∨ (place = .l2 ∧ vdnOf k ∈ (s.line (a / 128)).valid) →
      s.agenda = .uncorrectableError place k a :: r → a < 3072 * 10 ^ 9 →
      ∃ t : State, exec .uncorrectableError s = .next t ∧
        (∀ w, w ∈ t.poison ↔ w = a / 8 ∨ w ∈ s.poison) ∧ t.cores = s.cores ∧ t.mem = s.mem) ∧
    (s.agenda = .uncorrectableError .scratchpad k a :: r → s.hasCompute k = true → a < 131072 →
      ∃ t : State, exec .uncorrectableError s = .next t ∧ (∀ w, w ∈ (t.core k).padPoison ↔ w = a / 8 ∨ w ∈ (s.core k).padPoison) ∧
        t.poison = s.poison ∧ s.SameMem t ∧ s.SamePads t) ∧
    (s.agenda = .uncorrectableError .serviceMemory k a :: r → isSvc k = true → s.hasCore k = true → a < 32768 →
      ∃ t : State, exec .uncorrectableError s = .next t ∧ (∀ w, w ∈ (t.core k).padPoison ↔ w = a / 8 ∨ w ∈ (s.core k).padPoison) ∧
        t.poison = s.poison ∧ s.SameMem t ∧ s.SamePads t) ∧
    (s.agenda = .uncorrectableError .column k a :: r → s.hasCompute k = true → a < macroCols k →
      ∃ t : State, exec .uncorrectableError s = .next t ∧
        (∀ w, w ∈ (t.core k).faultyCols ↔ w = a ∨ w ∈ (s.core k).faultyCols) ∧ s.SameMem t ∧ s.SamePads t) ∧
    (s.agenda = .uncorrectableError .pass k a :: r → s.hasCompute k = true → a < macroCols k → exec .uncorrectableError s =
      .next (s.pop.updCore k fun co => { co with mismatches := co.mismatches ++ [a] })) ∧
    (s.agenda = .uncorrectableError .single k a :: r → exec .uncorrectableError s =
      .next { s.pop with corrected := s.corrected + 1 }) ∧
    (s.agenda = .powerOn failing :: r → ∃ t : State, exec .powerOn s = .next t ∧ t.agenda = r ∧ t.resets = s.resets + 1 ∧
      t.cores = [] ∧ t.clusters = [] ∧ t.launches = [] ∧ t.ptc = 0 ∧ t.domain = [s.pkg] ∧ t.lost = [] ∧
      let good := (∀ m < 4, .bxm m ∉ failing) ∧ .bxio ∉ failing ∧
        30 ≤ ((List.range 32).filter fun d => !failing.contains (.compute d)).length
      (good → t.held = false) ∧ (¬ good → t.held = true) ∧
      ((∀ d < 32, .compute d ∉ failing) → ∀ v, t.vdns.find? v = if v < 32 then some v else none) ∧
      (∀ v d, t.vdns.find? v = some d → d < 32 ∧ .compute d ∉ failing) ∧ t.forward.length = failing.length)

/-- R373: the SPDM responder answers each request: version 1.3, no secure sessions, ML-DSA-87 and SHA3-512 and no other, a part of the
certificate chain, and the measurement of an index from 1 to 40, with a signature where one is asked for; another index is an error.
The other bytes of the answers are free (log 24). -/
def Obligations.SpdmAnswers : Prop :=
  ∀ (s : State) (r : List Event) (off len nonce index : Nat) (signed : Bool),
    let answers (i : Instr) (a : SpdmAnswer) (P : List Byte → Prop) : Prop :=
      ∃ bytes, P bytes ∧ exec i s = .next { s.pop with hostOut := s.hostOut ++ [.spdm a bytes] }
    (s.agenda = .getVersion :: r → answers .getVersion (.version 1 3) fun _ => True) ∧
    (s.agenda = .getCapabilities :: r → answers .getCapabilities (.capabilities false) fun _ => True) ∧
    (s.agenda = .negotiateAlgorithms :: r → answers .negotiateAlgorithms (.algorithms .mlDsa87 .sha3_512) fun _ => True) ∧
    (s.agenda = .getDigests :: r → answers .getDigests .digests fun _ => True) ∧
    (s.agenda = .getCertificate off len :: r → answers .getCertificate .certificate fun b => b.length ≤ len) ∧
    (s.agenda = .challenge nonce :: r → answers .challenge .challengeAuth fun _ => True) ∧
    (s.agenda = .getMeasurements index signed nonce :: r →
      (1 ≤ index → index ≤ 40 → answers .getMeasurements .measurements fun b => 64 ≤ b.length ∧ (signed = false → b.length = 64)) ∧
      (index = 0 ∨ 40 < index → answers .getMeasurements .error fun b => b = []))

/-! ### The machine as a whole -/

/-- R68: the two words that are never an instruction, and the trap that executing one takes. R69, R70: words written out from
the encodings of R69, each with the instruction it stands for. -/
def Obligations.DecodedWords : Prop :=
  decode 0xFFB0050A = some (.addi 10 0 0xFFB 2) ∧ decode 0x04192280 = some (.lw 5 18 16 .own 0) ∧
  decode 0xFFFFD0A4 = some (.jal 1 0xFFFFD 0) ∧ decode 0x4000252C = some (.csrrs 10 0 0x400 0) ∧
  decode 0x0000002C = some (.ecall 0) ∧ decode 0x0C696530 = some (.amoadd 10 18 6 .rel true .die 0) ∧
  decode 0x2802044C = some (.vfredsum 8 4 .f32 0 0) ∧ decode 0x00000C50 = some (.sbind 0 0) ∧
  decode 0x00000000 = none ∧ decode 0xFFFFFFFF = none ∧
  ∀ (s : State) (r : List Event) (w : BitVec 32), w = 0x00000000 ∨ w = 0xFFFFFFFF → s.agenda = .illegalInstruction w :: r →
    s.me.run = .ready → exec .illegalInstruction s = .next (s.pop.trap 1 (w.setWidth 64))

/-- R66 to R76: encoding a well-formed instruction that has a word and decoding the word gives the instruction back, with every
operand as it was; and a word that decodes is the encoding of what it decodes to, which is well formed. -/
def Obligations.DecodeEncodeAgree : Prop :=
  (∀ (i : Instr) (w : BitVec 32), i.wellFormed = true → encode? i = some w → decode w = some i) ∧
  ∀ (i : Instr) (w : BitVec 32), decode w = some i → encode? i = some w ∧ i.wellFormed = true

/-- R82, R101, R109, R135, R254, R332, R372: one step. The head of the agenda, where there is one, is executed; else the scheduler's
pick on the core that acts fetches four bytes at its pc and executes what they decode to, an illegal instruction where they decode to
none or a service core lacks it, and a fetch fault where the fetch fails; a context whose request has halted parks instead. While the
dies are held in reset nothing but the root of trust acts. The agenda, and which core acts, are the model's choice (log 3); the passing
of time before each step is log 4. -/
def Obligations.StepRunsDecoded : Prop :=
  ∀ s : State,
    (∀ e r, s.agenda = e :: r →
      (s.held = false ∨ e.whenHeld = true → step s = exec e.instr s) ∧
      (s.held = true → e.whenHeld = false → step s = .fault .heldInReset)) ∧
    (s.agenda = [] → s.held = true → step s = .fault .heldInReset) ∧
    (s.agenda = [] → s.held = false →
      let u := s.turn.timePasses
      u.focus = (match s.turns with | k :: _ => if s.hasCore k then k else s.focus | [] => s.focus) ∧
      (u.pick u.focus = none → step s = .next (u.coreCycle u.focus 8)) ∧
      (∀ c co va, u.pick u.focus = some (c, co) → (s.ctx u.focus c).parkNext = some va → (s.ctx u.focus c).remoteAsked = false →
        (s.ctx u.focus c).remoteVals = [] →
        let v := { (u.setCore u.focus co).coreCycle u.focus c with active := c }.leaveQueues
        step s = .next ((v.setMe { v.me with parkNext := none }).park va)) ∧
      ∀ c co, u.pick u.focus = some (c, co) →
        ((s.ctx u.focus c).parkNext = none ∨ (s.ctx u.focus c).remoteAsked = true ∨ (s.ctx u.focus c).remoteVals ≠ []) →
        let b := ((u.setCore u.focus co).coreCycle u.focus c).begin c
        b.focus = u.focus ∧ b.active = c ∧ b.mem = s.mem ∧ b.me.pc = (s.ctx u.focus c).pc ∧
        (∀ n, b.me.rx n = (s.ctx u.focus c).rx n ∧ b.me.rv n = (s.ctx u.focus c).rv n) ∧
        (∀ pa w, b.translate b.focus b.me.asid b.me.sup .fetch b.me.pc = .mem pa → poisonedAt b.poison pa 4 = false →
          b.lineBlocked (vdnOf b.focus) (pa / 128) false = false →
          w = wordOfBytes (cell b.mem pa) (cell b.mem (pa + 1)) (cell b.mem (pa + 2)) (cell b.mem (pa + 3)) →
          let n := b.noteFetch
          (∀ i, decode w = some i → i.wellFormed = true ∧
            (isSvc b.focus = false → step s = exec i (n.countSequence i)) ∧
            (isSvc b.focus = true → svcLacks w = false → (∀ rd rs1 stl, i ≠ .wfe rd rs1 stl) →
              step s = exec i (n.countSequence i)) ∧
            ∀ rd rs1 stl, i = .wfe rd rs1 stl → isSvc b.focus = true → svcLacks w = false →
              step s = exec .wfeNotice ((n.push (.wfeNotice rd rs1 stl)).countSequence .wfeNotice)) ∧
          (decode w = none ∨ (isSvc b.focus = true ∧ svcLacks w = true) →
            step s = exec .illegalInstruction ((n.push (.illegalInstruction w)).countSequence .illegalInstruction))) ∧
        ((∀ w, b.fetch ≠ .word w) → step s = exec .fetchFault ((b.push .fetchFault).countSequence .fetchFault))) ∧
    (∀ i : Instr, (∀ n, (s.countSequence i).line n = s.line n ∨ ((s.line n).keptBy s.focus s.active = true ∧
        ∃ p, (s.countSequence i).line n = { s.line n with held := p })) ∧
      { s.countSequence i with lines := s.lines } = s)

/-- R20, R21, R47, R87, R119, R120, R165, R166, R211, R248, R268, R327, R330, R334, R337, R345, R359: what reset leaves, by the Reset
columns of the spec's tables. That memory reads 0 (log 1), which VDNs are mapped (log 8), and that no context runs (logs 5 and 41) are
the model's choices; no value of log 2 is stated. -/
def Obligations.ResetValues : Prop :=
  let s := State.reset
  (∀ k c a, a ∉ [0x400, 0x401, 0x402, 0x403, 0x405, 0x800, 0x820, 0x821, 0x822] → s.csrRead k c a = 0) ∧
  (∀ k c, s.csrRead k c 0x800 = if isSvc k then 7 else 0) ∧
  (∀ k c, s.csrRead k c 0x820 = 0x8000800080008000 ∧ s.csrRead k c 0x821 = 0x100 ∧ s.csrRead k c 0x822 = 20000) ∧
  (∀ k c, (s.csrRead k c 0x400).toNat / 2 ^ 25 = 32) ∧
  (∀ cl b, (s.cluster cl).bars.get b {} = {}) ∧ s.ptc = 0 ∧ s.held = false ∧
  (∀ k c, (s.ctx k c).run = if isSvc k then .halted else .idle) ∧
  (∀ v, s.vdns.find? v = if v < 32 then some v else none) ∧
  (∀ n, (s.line n).count homeHolder = 64 ∧ (s.line n).owner = some homeHolder ∧ (s.line n).flying = [] ∧
    ∀ h, h ≠ homeHolder → (s.line n).count h = 0) ∧
  s.StoresWf ∧ s.LinesWf

/-- The model's memory (log 1): package memory and every scratchpad, resident or saved, keep their canonical form, so that equal
contents are equal states; every step from every state keeps it. -/
def Obligations.StepsKeepStores : Prop :=
  ∀ s t : State, s.StoresWf → step s = .next t → t.StoresWf

/-- R268, R270: every line has exactly 64 tokens, at its holders and on their way, one of them the owner token, which stands with a
holder that has valid data or travels with data; every step from every state keeps it. At reset the home has all 64 of every
line, with the data. -/
def Obligations.StepsKeepTokens : Prop :=
  (∀ n, (State.reset.line n).count homeHolder = 64 ∧ (State.reset.line n).owner = some homeHolder ∧
    homeHolder ∈ (State.reset.line n).valid) ∧
  ∀ s t : State, s.LinesWf → step s = .next t → t.LinesWf
end

