-- ==== Sys2Proof/Laws/Decode.lean ====
section
/-!
SUPPORT. The fields of a word that is put together from fields (R69): what the decoder reads is what the encoder wrote.
-/

namespace Sys2Proof

/-- The R format. -/
theorem ofWord_encR (f7 : BitVec 7) (rs2 rs1 : BitVec 5) (f3 : BitVec 3) (rd maj : BitVec 5) (stl : Stall) :
    Fields.ofWord (encR f7 rs2 rs1 f3 rd maj stl) = ⟨stl, rd, f3, rs1, rs2, f7⟩ ∧
      fld 2 5 (encR f7 rs2 rs1 f3 rd maj stl) = maj := by
  unfold Fields.ofWord encR fld
  simp only [Fields.mk.injEq]
  refine ⟨⟨?_, ?_, ?_, ?_, ?_, ?_⟩, ?_⟩ <;>
  · refine BitVec.eq_of_getLsbD_eq fun i hi => ?_
    simp only [BitVec.getLsbD_extractLsb', BitVec.getLsbD_append]
    interval_cases i <;> simp

/-- Two parts of a bit vector, put together again. -/
theorem parts_append {n m : Nat} (v : BitVec (n + m)) : v.extractLsb' m n ++ v.extractLsb' 0 m = v := by
  refine BitVec.eq_of_getLsbD_eq fun i hi => ?_
  rw [BitVec.getLsbD_append]
  split
  · simp [*]
  · simp only [BitVec.getLsbD_extractLsb']
    rw [decide_eq_true (by omega), Bool.true_and]
    congr 1; omega

theorem append_hi {n m : Nat} (a : BitVec n) (b : BitVec m) : (a ++ b).extractLsb' m n = a := by
  refine BitVec.eq_of_getLsbD_eq fun i hi => ?_
  rw [BitVec.getLsbD_extractLsb', BitVec.getLsbD_append, if_neg (by omega)]
  simp [hi]

theorem append_lo {n m : Nat} (a : BitVec n) (b : BitVec m) : (a ++ b).extractLsb' 0 m = b := by
  refine BitVec.eq_of_getLsbD_eq fun i hi => ?_
  rw [BitVec.getLsbD_extractLsb', BitVec.getLsbD_append, if_pos (by omega)]
  simp [hi]

/-- The I format is the R format with the immediate cut in two. -/
theorem encI_eq (imm : BitVec 12) (rs1 : BitVec 5) (f3 : BitVec 3) (rd maj : BitVec 5) (stl : Stall) :
    encI imm rs1 f3 rd maj stl = encR (imm.extractLsb' 5 7) (imm.extractLsb' 0 5) rs1 f3 rd maj stl := by
  unfold encI encR; rw [parts_append (n := 7) (m := 5) imm]

/-- The V format is the R format with vfunc and etype as f7 and the mask as f3. -/
theorem encV_eq (vfunc : BitVec 5) (etype : BitVec 2) (vs2 vs1 : BitVec 5) (m : BitVec 3) (vd maj : BitVec 5) (stl : Stall) :
    encV vfunc etype vs2 vs1 m vd maj stl = encR (vfunc ++ etype) vs2 vs1 m vd maj stl := rfl

/-- A word of a major other than 0 is not 0, so that it is decoded by its major. -/
theorem decode_encR (f7 : BitVec 7) (rs2 rs1 : BitVec 5) (f3 : BitVec 3) (rd maj : BitVec 5) (stl : Stall) (h : maj ≠ 0) :
    decode (encR f7 rs2 rs1 f3 rd maj stl) =
      decodeMajor maj (fld 12 20 (encR f7 rs2 rs1 f3 rd maj stl)) ⟨stl, rd, f3, rs1, rs2, f7⟩ := by
  obtain ⟨h1, h2⟩ := ofWord_encR f7 rs2 rs1 f3 rd maj stl
  unfold decode
  rw [if_neg, h1, h2]
  intro e
  rw [e] at h2
  exact h (h2.symm.trans rfl)

end Sys2Proof
end

