-- ==== Sys2Proof/Laws/Map.lean ====
section
/-!
SUPPORT. Reading a sparse map after a write, an erasure or a change of every value; the canonical form is kept.
-/

namespace Sys2Proof

variable {α β : Type}

@[simp] theorem SMap.find?_nil (k : Nat) : SMap.find? ([] : SMap α) k = none := rfl

theorem SMap.find?_cons (p : Nat × α) (r : SMap α) (k : Nat) :
    SMap.find? (p :: r) k = if k = p.1 then some p.2 else SMap.find? r k := by cases p; rfl

@[simp] theorem SMap.get_nil (k : Nat) (d : α) : SMap.get ([] : SMap α) k d = d := rfl

theorem SMap.find?_set (m : SMap α) (k j : Nat) (v : α) :
    (m.set k v).find? j = if j = k then some v else m.find? j := by
  induction m with
  | nil => simp [SMap.set, SMap.find?]
  | cons p r ih =>
    obtain ⟨k', v'⟩ := p
    unfold SMap.set
    split
    · simp [SMap.find?_cons]
    · split
      · subst k; by_cases h : j = k' <;> simp [SMap.find?_cons, h]
      · simp only [SMap.find?_cons, ih]
        by_cases h : j = k'
        · subst j; rw [if_pos rfl, if_neg (by omega), if_pos rfl]
        · simp [h]

theorem SMap.get_set (m : SMap α) (k j : Nat) (v d : α) :
    (m.set k v).get j d = if j = k then v else m.get j d := by
  unfold SMap.get; rw [SMap.find?_set]; split <;> simp

@[simp] theorem SMap.get_set_self (m : SMap α) (k : Nat) (v d : α) : (m.set k v).get k d = v := by
  simp [SMap.get_set]

theorem SMap.get_set_ne (m : SMap α) {k j : Nat} (v d : α) (h : j ≠ k) : (m.set k v).get j d = m.get j d := by
  simp [SMap.get_set, h]

theorem SMap.find?_erase (m : SMap α) (k j : Nat) :
    (m.erase k).find? j = if j = k then none else m.find? j := by
  induction m with
  | nil => simp [SMap.erase, SMap.find?]
  | cons p r ih =>
    unfold SMap.erase at *
    by_cases h : p.1 = k
    · rw [List.filter_cons_of_neg (by simp [h]), ih, SMap.find?_cons]
      by_cases hj : j = k <;> simp [hj, h]
    · rw [List.filter_cons_of_pos (by simp [h]), SMap.find?_cons, SMap.find?_cons, ih]
      by_cases hj : j = p.1
      · subst j; simp [h]
      · simp [hj]

theorem SMap.get_put [DecidableEq α] (m : SMap α) (k j : Nat) (v d : α) :
    (SMap.put d m k v).get j d = if j = k then v else m.get j d := by
  unfold SMap.put
  split
  · subst v; unfold SMap.get; rw [SMap.find?_erase]; split <;> simp
  · exact SMap.get_set m k j v d

@[simp] theorem SMap.get_put_self [DecidableEq α] (m : SMap α) (k : Nat) (v d : α) :
    (SMap.put d m k v).get k d = v := by simp [SMap.get_put]

theorem SMap.get_put_ne [DecidableEq α] (m : SMap α) {k j : Nat} (v d : α) (h : j ≠ k) :
    (SMap.put d m k v).get j d = m.get j d := by simp [SMap.get_put, h]

theorem SMap.find?_mapVal (f : Nat → α → β) (m : SMap α) (k : Nat) :
    (m.mapVal f).find? k = (m.find? k).map (f k) := by
  induction m with
  | nil => rfl
  | cons p r ih =>
    simp only [SMap.mapVal, List.map_cons, SMap.find?_cons] at *
    by_cases h : k = p.1
    · simp [h]
    · rw [if_neg h, if_neg h]; exact ih

theorem SMap.get_mapVal (f : Nat → α → β) (m : SMap α) (k : Nat) (d : α) (e : β) (h : f k d = e) :
    (m.mapVal f).get k e = f k (m.get k d) := by
  unfold SMap.get; rw [SMap.find?_mapVal]; cases m.find? k <;> simp [h]

/-! ### The canonical form -/

/-- Every key of a canonical map but the first is above the first. -/
theorem SMap.wf_cons [DecidableEq α] (d : α) (p : Nat × α) (r : SMap α) :
    SMap.wf d (p :: r) = true ↔ p.2 ≠ d ∧ (∀ q ∈ r, p.1 < q.1) ∧ SMap.wf d r = true := by
  induction r generalizing p with
  | nil => simp [SMap.wf]
  | cons q r ih =>
    simp only [SMap.wf, Bool.and_eq_true, decide_eq_true_eq, List.mem_cons, forall_eq_or_imp]
    constructor
    · rintro ⟨⟨h1, h2⟩, h3⟩
      exact ⟨h1, ⟨h2, fun x hx => lt_trans h2 (((ih q).1 h3).2.1 x hx)⟩, h3⟩
    · rintro ⟨h1, ⟨h2, -⟩, h3⟩
      exact ⟨⟨h1, h2⟩, h3⟩

/-- A canonical map without the entries that a test drops is canonical. -/
theorem SMap.wf_filter [DecidableEq α] (d : α) (f : Nat × α → Bool) (m : SMap α) (h : SMap.wf d m = true) :
    SMap.wf d (m.filter f) = true := by
  induction m with
  | nil => simpa using h
  | cons p r ih =>
    obtain ⟨h1, h2, h3⟩ := (SMap.wf_cons d p r).1 h
    rw [List.filter_cons]
    split
    · exact (SMap.wf_cons d p _).2 ⟨h1, fun q hq => h2 q (List.mem_filter.1 hq).1, ih h3⟩
    · exact ih h3

/-- Two canonical maps, every key of the first below every key of the second, make one. -/
theorem SMap.wf_append [DecidableEq α] (d : α) (m n : SMap α) (hm : SMap.wf d m = true) (hn : SMap.wf d n = true)
    (h : ∀ p ∈ m, ∀ q ∈ n, p.1 < q.1) : SMap.wf d (m ++ n) = true := by
  induction m with
  | nil => simpa using hn
  | cons p r ih =>
    obtain ⟨h1, h2, h3⟩ := (SMap.wf_cons d p r).1 hm
    rw [List.cons_append]
    refine (SMap.wf_cons d p _).2 ⟨h1, fun q hq => ?_, ih h3 fun x hx => h x (List.mem_cons_of_mem _ hx)⟩
    rcases List.mem_append.1 hq with hq | hq
    · exact h2 q hq
    · exact h p List.mem_cons_self q hq

theorem SMap.wf_set [DecidableEq α] (d : α) (m : SMap α) (k : Nat) (v : α) (hv : v ≠ d) (h : SMap.wf d m = true) :
    SMap.wf d (m.set k v) = true ∧ ∀ q ∈ m.set k v, q.1 = k ∨ q ∈ m := by
  induction m with
  | nil => simp [SMap.set, SMap.wf, hv]
  | cons p r ih =>
    obtain ⟨k', v'⟩ := p
    obtain ⟨h1, h2, h3⟩ := (SMap.wf_cons d _ r).1 h
    unfold SMap.set
    split
    · rename_i hk
      refine ⟨(SMap.wf_cons d _ _).2 ⟨hv, ?_, h⟩, fun q hq => (List.mem_cons.1 hq).imp (fun e => by rw [e]) id⟩
      intro q hq
      rcases List.mem_cons.1 hq with rfl | hq
      · exact hk
      · exact lt_trans hk (h2 q hq)
    · split
      · subst k
        refine ⟨(SMap.wf_cons d _ _).2 ⟨hv, h2, h3⟩, ?_⟩
        intro q hq
        rcases List.mem_cons.1 hq with rfl | hq
        · exact .inl rfl
        · exact .inr (List.mem_cons_of_mem _ hq)
      · rename_i hk hk'
        obtain ⟨hw, hm⟩ := ih h3
        refine ⟨(SMap.wf_cons d _ _).2 ⟨h1, fun q hq => ?_, hw⟩, ?_⟩
        · rcases hm q hq with e | e
          · rw [e]; simp only at *; omega
          · exact h2 q e
        · intro q hq
          rcases List.mem_cons.1 hq with rfl | hq
          · exact .inr List.mem_cons_self
          · rcases hm q hq with e | e
            · exact .inl e
            · exact .inr (List.mem_cons_of_mem _ e)

/-- A write keeps the canonical form. -/
theorem SMap.wf_put [DecidableEq α] (d : α) (m : SMap α) (k : Nat) (v : α) (h : SMap.wf d m = true) :
    SMap.wf d (SMap.put d m k v) = true := by
  unfold SMap.put SMap.erase
  split
  · exact SMap.wf_filter d _ m h
  · rename_i hv; exact (SMap.wf_set d m k v hv h).1

end Sys2Proof
end

