-- ==== Sys2Proof/Laws/State.lean ====
section
/-!
SUPPORT. What each update of the state leaves in each field, and reading a core, a cluster or a context after one.
-/

namespace Sys2Proof.Machine

/-! ### Fields after an update -/
@[simp] theorem State.setCore_mem (s : State) (k : Nat) (x : Core) : (s.setCore k x).mem = s.mem := rfl
@[simp] theorem State.setCore_poison (s : State) (k : Nat) (x : Core) : (s.setCore k x).poison = s.poison := rfl
@[simp] theorem State.setCore_olds (s : State) (k : Nat) (x : Core) : (s.setCore k x).olds = s.olds := rfl
@[simp] theorem State.setCore_clusters (s : State) (k : Nat) (x : Core) : (s.setCore k x).clusters = s.clusters := rfl
@[simp] theorem State.setCore_pkg (s : State) (k : Nat) (x : Core) : (s.setCore k x).pkg = s.pkg := rfl
@[simp] theorem State.setCore_domain (s : State) (k : Nat) (x : Core) : (s.setCore k x).domain = s.domain := rfl
@[simp] theorem State.setCore_vdns (s : State) (k : Nat) (x : Core) : (s.setCore k x).vdns = s.vdns := rfl
@[simp] theorem State.setCore_ptc (s : State) (k : Nat) (x : Core) : (s.setCore k x).ptc = s.ptc := rfl
@[simp] theorem State.setCore_rate (s : State) (k : Nat) (x : Core) : (s.setCore k x).rate = s.rate := rfl
@[simp] theorem State.setCore_joined (s : State) (k : Nat) (x : Core) : (s.setCore k x).joined = s.joined := rfl
@[simp] theorem State.setCore_cycles (s : State) (k : Nat) (x : Core) : (s.setCore k x).cycles = s.cycles := rfl
@[simp] theorem State.setCore_launches (s : State) (k : Nat) (x : Core) : (s.setCore k x).launches = s.launches := rfl
@[simp] theorem State.setCore_classQ (s : State) (k : Nat) (x : Core) : (s.setCore k x).classQ = s.classQ := rfl
@[simp] theorem State.setCore_records (s : State) (k : Nat) (x : Core) : (s.setCore k x).records = s.records := rfl
@[simp] theorem State.setCore_posts (s : State) (k : Nat) (x : Core) : (s.setCore k x).posts = s.posts := rfl
@[simp] theorem State.setCore_endpoint (s : State) (k : Nat) (x : Core) : (s.setCore k x).endpoint = s.endpoint := rfl
@[simp] theorem State.setCore_controls (s : State) (k : Nat) (x : Core) : (s.setCore k x).controls = s.controls := rfl
@[simp] theorem State.setCore_windows (s : State) (k : Nat) (x : Core) : (s.setCore k x).windows = s.windows := rfl
@[simp] theorem State.setCore_hostHeld (s : State) (k : Nat) (x : Core) : (s.setCore k x).hostHeld = s.hostHeld := rfl
@[simp] theorem State.setCore_hostOut (s : State) (k : Nat) (x : Core) : (s.setCore k x).hostOut = s.hostOut := rfl
@[simp] theorem State.setCore_logs (s : State) (k : Nat) (x : Core) : (s.setCore k x).logs = s.logs := rfl
@[simp] theorem State.setCore_forward (s : State) (k : Nat) (x : Core) : (s.setCore k x).forward = s.forward := rfl
@[simp] theorem State.setCore_farVdns (s : State) (k : Nat) (x : Core) : (s.setCore k x).farVdns = s.farVdns := rfl
@[simp] theorem State.setCore_layerKinds (s : State) (k : Nat) (x : Core) : (s.setCore k x).layerKinds = s.layerKinds := rfl
@[simp] theorem State.setCore_reqSeq (s : State) (k : Nat) (x : Core) : (s.setCore k x).reqSeq = s.reqSeq := rfl
@[simp] theorem State.setCore_endSeq (s : State) (k : Nat) (x : Core) : (s.setCore k x).endSeq = s.endSeq := rfl
@[simp] theorem State.setCore_dropped (s : State) (k : Nat) (x : Core) : (s.setCore k x).dropped = s.dropped := rfl
@[simp] theorem State.setCore_registeredOnce (s : State) (k : Nat) (x : Core) : (s.setCore k x).registeredOnce = s.registeredOnce := rfl
@[simp] theorem State.setCore_tierWays (s : State) (k : Nat) (x : Core) : (s.setCore k x).tierWays = s.tierWays := rfl
@[simp] theorem State.setCore_tierCounts (s : State) (k : Nat) (x : Core) : (s.setCore k x).tierCounts = s.tierCounts := rfl
@[simp] theorem State.setCore_lost (s : State) (k : Nat) (x : Core) : (s.setCore k x).lost = s.lost := rfl
@[simp] theorem State.setCore_corrected (s : State) (k : Nat) (x : Core) : (s.setCore k x).corrected = s.corrected := rfl
@[simp] theorem State.setCore_net (s : State) (k : Nat) (x : Core) : (s.setCore k x).net = s.net := rfl
@[simp] theorem State.setCore_netOut (s : State) (k : Nat) (x : Core) : (s.setCore k x).netOut = s.netOut := rfl
@[simp] theorem State.setCore_applied (s : State) (k : Nat) (x : Core) : (s.setCore k x).applied = s.applied := rfl
@[simp] theorem State.setCore_flitsOut (s : State) (k : Nat) (x : Core) : (s.setCore k x).flitsOut = s.flitsOut := rfl
@[simp] theorem State.setCore_flitErrors (s : State) (k : Nat) (x : Core) : (s.setCore k x).flitErrors = s.flitErrors := rfl
@[simp] theorem State.setCore_gangReady (s : State) (k : Nat) (x : Core) : (s.setCore k x).gangReady = s.gangReady := rfl
@[simp] theorem State.setCore_gangOut (s : State) (k : Nat) (x : Core) : (s.setCore k x).gangOut = s.gangOut := rfl
@[simp] theorem State.setCore_gangStart (s : State) (k : Nat) (x : Core) : (s.setCore k x).gangStart = s.gangStart := rfl
@[simp] theorem State.setCore_slices (s : State) (k : Nat) (x : Core) : (s.setCore k x).slices = s.slices := rfl
@[simp] theorem State.setCore_freezes (s : State) (k : Nat) (x : Core) : (s.setCore k x).freezes = s.freezes := rfl
@[simp] theorem State.setCore_releases (s : State) (k : Nat) (x : Core) : (s.setCore k x).releases = s.releases := rfl
@[simp] theorem State.setCore_frozenLids (s : State) (k : Nat) (x : Core) : (s.setCore k x).frozenLids = s.frozenLids := rfl
@[simp] theorem State.setCore_lines (s : State) (k : Nat) (x : Core) : (s.setCore k x).lines = s.lines := rfl
@[simp] theorem State.setCore_tiles (s : State) (k : Nat) (x : Core) : (s.setCore k x).tiles = s.tiles := rfl
@[simp] theorem State.setCore_links (s : State) (k : Nat) (x : Core) : (s.setCore k x).links = s.links := rfl
@[simp] theorem State.setCore_budgets (s : State) (k : Nat) (x : Core) : (s.setCore k x).budgets = s.budgets := rfl
@[simp] theorem State.setCore_left (s : State) (k : Nat) (x : Core) : (s.setCore k x).left = s.left := rfl
@[simp] theorem State.setCore_throttled (s : State) (k : Nat) (x : Core) : (s.setCore k x).throttled = s.throttled := rfl
@[simp] theorem State.setCore_hot (s : State) (k : Nat) (x : Core) : (s.setCore k x).hot = s.hot := rfl
@[simp] theorem State.setCore_held (s : State) (k : Nat) (x : Core) : (s.setCore k x).held = s.held := rfl
@[simp] theorem State.setCore_inReset (s : State) (k : Nat) (x : Core) : (s.setCore k x).inReset = s.inReset := rfl
@[simp] theorem State.setCore_resets (s : State) (k : Nat) (x : Core) : (s.setCore k x).resets = s.resets := rfl
@[simp] theorem State.setCore_focus (s : State) (k : Nat) (x : Core) : (s.setCore k x).focus = s.focus := rfl
@[simp] theorem State.setCore_active (s : State) (k : Nat) (x : Core) : (s.setCore k x).active = s.active := rfl
@[simp] theorem State.setCore_turns (s : State) (k : Nat) (x : Core) : (s.setCore k x).turns = s.turns := rfl
@[simp] theorem State.setCore_agenda (s : State) (k : Nat) (x : Core) : (s.setCore k x).agenda = s.agenda := rfl
@[simp] theorem State.setCore_free (s : State) (k : Nat) (x : Core) : (s.setCore k x).free = s.free := rfl

@[simp] theorem State.updCore_mem (s : State) (k : Nat) (f : Core → Core) : (s.updCore k f).mem = s.mem := rfl
@[simp] theorem State.updCore_poison (s : State) (k : Nat) (f : Core → Core) : (s.updCore k f).poison = s.poison := rfl
@[simp] theorem State.updCore_olds (s : State) (k : Nat) (f : Core → Core) : (s.updCore k f).olds = s.olds := rfl
@[simp] theorem State.updCore_clusters (s : State) (k : Nat) (f : Core → Core) : (s.updCore k f).clusters = s.clusters := rfl
@[simp] theorem State.updCore_pkg (s : State) (k : Nat) (f : Core → Core) : (s.updCore k f).pkg = s.pkg := rfl
@[simp] theorem State.updCore_domain (s : State) (k : Nat) (f : Core → Core) : (s.updCore k f).domain = s.domain := rfl
@[simp] theorem State.updCore_vdns (s : State) (k : Nat) (f : Core → Core) : (s.updCore k f).vdns = s.vdns := rfl
@[simp] theorem State.updCore_ptc (s : State) (k : Nat) (f : Core → Core) : (s.updCore k f).ptc = s.ptc := rfl
@[simp] theorem State.updCore_rate (s : State) (k : Nat) (f : Core → Core) : (s.updCore k f).rate = s.rate := rfl
@[simp] theorem State.updCore_joined (s : State) (k : Nat) (f : Core → Core) : (s.updCore k f).joined = s.joined := rfl
@[simp] theorem State.updCore_cycles (s : State) (k : Nat) (f : Core → Core) : (s.updCore k f).cycles = s.cycles := rfl
@[simp] theorem State.updCore_launches (s : State) (k : Nat) (f : Core → Core) : (s.updCore k f).launches = s.launches := rfl
@[simp] theorem State.updCore_classQ (s : State) (k : Nat) (f : Core → Core) : (s.updCore k f).classQ = s.classQ := rfl
@[simp] theorem State.updCore_records (s : State) (k : Nat) (f : Core → Core) : (s.updCore k f).records = s.records := rfl
@[simp] theorem State.updCore_posts (s : State) (k : Nat) (f : Core → Core) : (s.updCore k f).posts = s.posts := rfl
@[simp] theorem State.updCore_endpoint (s : State) (k : Nat) (f : Core → Core) : (s.updCore k f).endpoint = s.endpoint := rfl
@[simp] theorem State.updCore_controls (s : State) (k : Nat) (f : Core → Core) : (s.updCore k f).controls = s.controls := rfl
@[simp] theorem State.updCore_windows (s : State) (k : Nat) (f : Core → Core) : (s.updCore k f).windows = s.windows := rfl
@[simp] theorem State.updCore_hostHeld (s : State) (k : Nat) (f : Core → Core) : (s.updCore k f).hostHeld = s.hostHeld := rfl
@[simp] theorem State.updCore_hostOut (s : State) (k : Nat) (f : Core → Core) : (s.updCore k f).hostOut = s.hostOut := rfl
@[simp] theorem State.updCore_logs (s : State) (k : Nat) (f : Core → Core) : (s.updCore k f).logs = s.logs := rfl
@[simp] theorem State.updCore_forward (s : State) (k : Nat) (f : Core → Core) : (s.updCore k f).forward = s.forward := rfl
@[simp] theorem State.updCore_farVdns (s : State) (k : Nat) (f : Core → Core) : (s.updCore k f).farVdns = s.farVdns := rfl
@[simp] theorem State.updCore_layerKinds (s : State) (k : Nat) (f : Core → Core) : (s.updCore k f).layerKinds = s.layerKinds := rfl
@[simp] theorem State.updCore_reqSeq (s : State) (k : Nat) (f : Core → Core) : (s.updCore k f).reqSeq = s.reqSeq := rfl
@[simp] theorem State.updCore_endSeq (s : State) (k : Nat) (f : Core → Core) : (s.updCore k f).endSeq = s.endSeq := rfl
@[simp] theorem State.updCore_dropped (s : State) (k : Nat) (f : Core → Core) : (s.updCore k f).dropped = s.dropped := rfl
@[simp] theorem State.updCore_registeredOnce (s : State) (k : Nat) (f : Core → Core) : (s.updCore k f).registeredOnce = s.registeredOnce := rfl
@[simp] theorem State.updCore_tierWays (s : State) (k : Nat) (f : Core → Core) : (s.updCore k f).tierWays = s.tierWays := rfl
@[simp] theorem State.updCore_tierCounts (s : State) (k : Nat) (f : Core → Core) : (s.updCore k f).tierCounts = s.tierCounts := rfl
@[simp] theorem State.updCore_lost (s : State) (k : Nat) (f : Core → Core) : (s.updCore k f).lost = s.lost := rfl
@[simp] theorem State.updCore_corrected (s : State) (k : Nat) (f : Core → Core) : (s.updCore k f).corrected = s.corrected := rfl
@[simp] theorem State.updCore_net (s : State) (k : Nat) (f : Core → Core) : (s.updCore k f).net = s.net := rfl
@[simp] theorem State.updCore_netOut (s : State) (k : Nat) (f : Core → Core) : (s.updCore k f).netOut = s.netOut := rfl
@[simp] theorem State.updCore_applied (s : State) (k : Nat) (f : Core → Core) : (s.updCore k f).applied = s.applied := rfl
@[simp] theorem State.updCore_flitsOut (s : State) (k : Nat) (f : Core → Core) : (s.updCore k f).flitsOut = s.flitsOut := rfl
@[simp] theorem State.updCore_flitErrors (s : State) (k : Nat) (f : Core → Core) : (s.updCore k f).flitErrors = s.flitErrors := rfl
@[simp] theorem State.updCore_gangReady (s : State) (k : Nat) (f : Core → Core) : (s.updCore k f).gangReady = s.gangReady := rfl
@[simp] theorem State.updCore_gangOut (s : State) (k : Nat) (f : Core → Core) : (s.updCore k f).gangOut = s.gangOut := rfl
@[simp] theorem State.updCore_gangStart (s : State) (k : Nat) (f : Core → Core) : (s.updCore k f).gangStart = s.gangStart := rfl
@[simp] theorem State.updCore_slices (s : State) (k : Nat) (f : Core → Core) : (s.updCore k f).slices = s.slices := rfl
@[simp] theorem State.updCore_freezes (s : State) (k : Nat) (f : Core → Core) : (s.updCore k f).freezes = s.freezes := rfl
@[simp] theorem State.updCore_releases (s : State) (k : Nat) (f : Core → Core) : (s.updCore k f).releases = s.releases := rfl
@[simp] theorem State.updCore_frozenLids (s : State) (k : Nat) (f : Core → Core) : (s.updCore k f).frozenLids = s.frozenLids := rfl
@[simp] theorem State.updCore_lines (s : State) (k : Nat) (f : Core → Core) : (s.updCore k f).lines = s.lines := rfl
@[simp] theorem State.updCore_tiles (s : State) (k : Nat) (f : Core → Core) : (s.updCore k f).tiles = s.tiles := rfl
@[simp] theorem State.updCore_links (s : State) (k : Nat) (f : Core → Core) : (s.updCore k f).links = s.links := rfl
@[simp] theorem State.updCore_budgets (s : State) (k : Nat) (f : Core → Core) : (s.updCore k f).budgets = s.budgets := rfl
@[simp] theorem State.updCore_left (s : State) (k : Nat) (f : Core → Core) : (s.updCore k f).left = s.left := rfl
@[simp] theorem State.updCore_throttled (s : State) (k : Nat) (f : Core → Core) : (s.updCore k f).throttled = s.throttled := rfl
@[simp] theorem State.updCore_hot (s : State) (k : Nat) (f : Core → Core) : (s.updCore k f).hot = s.hot := rfl
@[simp] theorem State.updCore_held (s : State) (k : Nat) (f : Core → Core) : (s.updCore k f).held = s.held := rfl
@[simp] theorem State.updCore_inReset (s : State) (k : Nat) (f : Core → Core) : (s.updCore k f).inReset = s.inReset := rfl
@[simp] theorem State.updCore_resets (s : State) (k : Nat) (f : Core → Core) : (s.updCore k f).resets = s.resets := rfl
@[simp] theorem State.updCore_focus (s : State) (k : Nat) (f : Core → Core) : (s.updCore k f).focus = s.focus := rfl
@[simp] theorem State.updCore_active (s : State) (k : Nat) (f : Core → Core) : (s.updCore k f).active = s.active := rfl
@[simp] theorem State.updCore_turns (s : State) (k : Nat) (f : Core → Core) : (s.updCore k f).turns = s.turns := rfl
@[simp] theorem State.updCore_agenda (s : State) (k : Nat) (f : Core → Core) : (s.updCore k f).agenda = s.agenda := rfl
@[simp] theorem State.updCore_free (s : State) (k : Nat) (f : Core → Core) : (s.updCore k f).free = s.free := rfl

@[simp] theorem State.setCluster_mem (s : State) (k : Nat) (x : Cluster) : (s.setCluster k x).mem = s.mem := rfl
@[simp] theorem State.setCluster_poison (s : State) (k : Nat) (x : Cluster) : (s.setCluster k x).poison = s.poison := rfl
@[simp] theorem State.setCluster_olds (s : State) (k : Nat) (x : Cluster) : (s.setCluster k x).olds = s.olds := rfl
@[simp] theorem State.setCluster_cores (s : State) (k : Nat) (x : Cluster) : (s.setCluster k x).cores = s.cores := rfl
@[simp] theorem State.setCluster_pkg (s : State) (k : Nat) (x : Cluster) : (s.setCluster k x).pkg = s.pkg := rfl
@[simp] theorem State.setCluster_domain (s : State) (k : Nat) (x : Cluster) : (s.setCluster k x).domain = s.domain := rfl
@[simp] theorem State.setCluster_vdns (s : State) (k : Nat) (x : Cluster) : (s.setCluster k x).vdns = s.vdns := rfl
@[simp] theorem State.setCluster_ptc (s : State) (k : Nat) (x : Cluster) : (s.setCluster k x).ptc = s.ptc := rfl
@[simp] theorem State.setCluster_rate (s : State) (k : Nat) (x : Cluster) : (s.setCluster k x).rate = s.rate := rfl
@[simp] theorem State.setCluster_joined (s : State) (k : Nat) (x : Cluster) : (s.setCluster k x).joined = s.joined := rfl
@[simp] theorem State.setCluster_cycles (s : State) (k : Nat) (x : Cluster) : (s.setCluster k x).cycles = s.cycles := rfl
@[simp] theorem State.setCluster_launches (s : State) (k : Nat) (x : Cluster) : (s.setCluster k x).launches = s.launches := rfl
@[simp] theorem State.setCluster_classQ (s : State) (k : Nat) (x : Cluster) : (s.setCluster k x).classQ = s.classQ := rfl
@[simp] theorem State.setCluster_records (s : State) (k : Nat) (x : Cluster) : (s.setCluster k x).records = s.records := rfl
@[simp] theorem State.setCluster_posts (s : State) (k : Nat) (x : Cluster) : (s.setCluster k x).posts = s.posts := rfl
@[simp] theorem State.setCluster_endpoint (s : State) (k : Nat) (x : Cluster) : (s.setCluster k x).endpoint = s.endpoint := rfl
@[simp] theorem State.setCluster_controls (s : State) (k : Nat) (x : Cluster) : (s.setCluster k x).controls = s.controls := rfl
@[simp] theorem State.setCluster_windows (s : State) (k : Nat) (x : Cluster) : (s.setCluster k x).windows = s.windows := rfl
@[simp] theorem State.setCluster_hostHeld (s : State) (k : Nat) (x : Cluster) : (s.setCluster k x).hostHeld = s.hostHeld := rfl
@[simp] theorem State.setCluster_hostOut (s : State) (k : Nat) (x : Cluster) : (s.setCluster k x).hostOut = s.hostOut := rfl
@[simp] theorem State.setCluster_logs (s : State) (k : Nat) (x : Cluster) : (s.setCluster k x).logs = s.logs := rfl
@[simp] theorem State.setCluster_forward (s : State) (k : Nat) (x : Cluster) : (s.setCluster k x).forward = s.forward := rfl
@[simp] theorem State.setCluster_farVdns (s : State) (k : Nat) (x : Cluster) : (s.setCluster k x).farVdns = s.farVdns := rfl
@[simp] theorem State.setCluster_layerKinds (s : State) (k : Nat) (x : Cluster) : (s.setCluster k x).layerKinds = s.layerKinds := rfl
@[simp] theorem State.setCluster_reqSeq (s : State) (k : Nat) (x : Cluster) : (s.setCluster k x).reqSeq = s.reqSeq := rfl
@[simp] theorem State.setCluster_endSeq (s : State) (k : Nat) (x : Cluster) : (s.setCluster k x).endSeq = s.endSeq := rfl
@[simp] theorem State.setCluster_dropped (s : State) (k : Nat) (x : Cluster) : (s.setCluster k x).dropped = s.dropped := rfl
@[simp] theorem State.setCluster_registeredOnce (s : State) (k : Nat) (x : Cluster) : (s.setCluster k x).registeredOnce = s.registeredOnce := rfl
@[simp] theorem State.setCluster_tierWays (s : State) (k : Nat) (x : Cluster) : (s.setCluster k x).tierWays = s.tierWays := rfl
@[simp] theorem State.setCluster_tierCounts (s : State) (k : Nat) (x : Cluster) : (s.setCluster k x).tierCounts = s.tierCounts := rfl
@[simp] theorem State.setCluster_lost (s : State) (k : Nat) (x : Cluster) : (s.setCluster k x).lost = s.lost := rfl
@[simp] theorem State.setCluster_corrected (s : State) (k : Nat) (x : Cluster) : (s.setCluster k x).corrected = s.corrected := rfl
@[simp] theorem State.setCluster_net (s : State) (k : Nat) (x : Cluster) : (s.setCluster k x).net = s.net := rfl
@[simp] theorem State.setCluster_netOut (s : State) (k : Nat) (x : Cluster) : (s.setCluster k x).netOut = s.netOut := rfl
@[simp] theorem State.setCluster_applied (s : State) (k : Nat) (x : Cluster) : (s.setCluster k x).applied = s.applied := rfl
@[simp] theorem State.setCluster_flitsOut (s : State) (k : Nat) (x : Cluster) : (s.setCluster k x).flitsOut = s.flitsOut := rfl
@[simp] theorem State.setCluster_flitErrors (s : State) (k : Nat) (x : Cluster) : (s.setCluster k x).flitErrors = s.flitErrors := rfl
@[simp] theorem State.setCluster_gangReady (s : State) (k : Nat) (x : Cluster) : (s.setCluster k x).gangReady = s.gangReady := rfl
@[simp] theorem State.setCluster_gangOut (s : State) (k : Nat) (x : Cluster) : (s.setCluster k x).gangOut = s.gangOut := rfl
@[simp] theorem State.setCluster_gangStart (s : State) (k : Nat) (x : Cluster) : (s.setCluster k x).gangStart = s.gangStart := rfl
@[simp] theorem State.setCluster_slices (s : State) (k : Nat) (x : Cluster) : (s.setCluster k x).slices = s.slices := rfl
@[simp] theorem State.setCluster_freezes (s : State) (k : Nat) (x : Cluster) : (s.setCluster k x).freezes = s.freezes := rfl
@[simp] theorem State.setCluster_releases (s : State) (k : Nat) (x : Cluster) : (s.setCluster k x).releases = s.releases := rfl
@[simp] theorem State.setCluster_frozenLids (s : State) (k : Nat) (x : Cluster) : (s.setCluster k x).frozenLids = s.frozenLids := rfl
@[simp] theorem State.setCluster_lines (s : State) (k : Nat) (x : Cluster) : (s.setCluster k x).lines = s.lines := rfl
@[simp] theorem State.setCluster_tiles (s : State) (k : Nat) (x : Cluster) : (s.setCluster k x).tiles = s.tiles := rfl
@[simp] theorem State.setCluster_links (s : State) (k : Nat) (x : Cluster) : (s.setCluster k x).links = s.links := rfl
@[simp] theorem State.setCluster_budgets (s : State) (k : Nat) (x : Cluster) : (s.setCluster k x).budgets = s.budgets := rfl
@[simp] theorem State.setCluster_left (s : State) (k : Nat) (x : Cluster) : (s.setCluster k x).left = s.left := rfl
@[simp] theorem State.setCluster_throttled (s : State) (k : Nat) (x : Cluster) : (s.setCluster k x).throttled = s.throttled := rfl
@[simp] theorem State.setCluster_hot (s : State) (k : Nat) (x : Cluster) : (s.setCluster k x).hot = s.hot := rfl
@[simp] theorem State.setCluster_held (s : State) (k : Nat) (x : Cluster) : (s.setCluster k x).held = s.held := rfl
@[simp] theorem State.setCluster_inReset (s : State) (k : Nat) (x : Cluster) : (s.setCluster k x).inReset = s.inReset := rfl
@[simp] theorem State.setCluster_resets (s : State) (k : Nat) (x : Cluster) : (s.setCluster k x).resets = s.resets := rfl
@[simp] theorem State.setCluster_focus (s : State) (k : Nat) (x : Cluster) : (s.setCluster k x).focus = s.focus := rfl
@[simp] theorem State.setCluster_active (s : State) (k : Nat) (x : Cluster) : (s.setCluster k x).active = s.active := rfl
@[simp] theorem State.setCluster_turns (s : State) (k : Nat) (x : Cluster) : (s.setCluster k x).turns = s.turns := rfl
@[simp] theorem State.setCluster_agenda (s : State) (k : Nat) (x : Cluster) : (s.setCluster k x).agenda = s.agenda := rfl
@[simp] theorem State.setCluster_free (s : State) (k : Nat) (x : Cluster) : (s.setCluster k x).free = s.free := rfl

@[simp] theorem State.updCluster_mem (s : State) (k : Nat) (f : Cluster → Cluster) : (s.updCluster k f).mem = s.mem := rfl
@[simp] theorem State.updCluster_poison (s : State) (k : Nat) (f : Cluster → Cluster) : (s.updCluster k f).poison = s.poison := rfl
@[simp] theorem State.updCluster_olds (s : State) (k : Nat) (f : Cluster → Cluster) : (s.updCluster k f).olds = s.olds := rfl
@[simp] theorem State.updCluster_cores (s : State) (k : Nat) (f : Cluster → Cluster) : (s.updCluster k f).cores = s.cores := rfl
@[simp] theorem State.updCluster_pkg (s : State) (k : Nat) (f : Cluster → Cluster) : (s.updCluster k f).pkg = s.pkg := rfl
@[simp] theorem State.updCluster_domain (s : State) (k : Nat) (f : Cluster → Cluster) : (s.updCluster k f).domain = s.domain := rfl
@[simp] theorem State.updCluster_vdns (s : State) (k : Nat) (f : Cluster → Cluster) : (s.updCluster k f).vdns = s.vdns := rfl
@[simp] theorem State.updCluster_ptc (s : State) (k : Nat) (f : Cluster → Cluster) : (s.updCluster k f).ptc = s.ptc := rfl
@[simp] theorem State.updCluster_rate (s : State) (k : Nat) (f : Cluster → Cluster) : (s.updCluster k f).rate = s.rate := rfl
@[simp] theorem State.updCluster_joined (s : State) (k : Nat) (f : Cluster → Cluster) : (s.updCluster k f).joined = s.joined := rfl
@[simp] theorem State.updCluster_cycles (s : State) (k : Nat) (f : Cluster → Cluster) : (s.updCluster k f).cycles = s.cycles := rfl
@[simp] theorem State.updCluster_launches (s : State) (k : Nat) (f : Cluster → Cluster) : (s.updCluster k f).launches = s.launches := rfl
@[simp] theorem State.updCluster_classQ (s : State) (k : Nat) (f : Cluster → Cluster) : (s.updCluster k f).classQ = s.classQ := rfl
@[simp] theorem State.updCluster_records (s : State) (k : Nat) (f : Cluster → Cluster) : (s.updCluster k f).records = s.records := rfl
@[simp] theorem State.updCluster_posts (s : State) (k : Nat) (f : Cluster → Cluster) : (s.updCluster k f).posts = s.posts := rfl
@[simp] theorem State.updCluster_endpoint (s : State) (k : Nat) (f : Cluster → Cluster) : (s.updCluster k f).endpoint = s.endpoint := rfl
@[simp] theorem State.updCluster_controls (s : State) (k : Nat) (f : Cluster → Cluster) : (s.updCluster k f).controls = s.controls := rfl
@[simp] theorem State.updCluster_windows (s : State) (k : Nat) (f : Cluster → Cluster) : (s.updCluster k f).windows = s.windows := rfl
@[simp] theorem State.updCluster_hostHeld (s : State) (k : Nat) (f : Cluster → Cluster) : (s.updCluster k f).hostHeld = s.hostHeld := rfl
@[simp] theorem State.updCluster_hostOut (s : State) (k : Nat) (f : Cluster → Cluster) : (s.updCluster k f).hostOut = s.hostOut := rfl
@[simp] theorem State.updCluster_logs (s : State) (k : Nat) (f : Cluster → Cluster) : (s.updCluster k f).logs = s.logs := rfl
@[simp] theorem State.updCluster_forward (s : State) (k : Nat) (f : Cluster → Cluster) : (s.updCluster k f).forward = s.forward := rfl
@[simp] theorem State.updCluster_farVdns (s : State) (k : Nat) (f : Cluster → Cluster) : (s.updCluster k f).farVdns = s.farVdns := rfl
@[simp] theorem State.updCluster_layerKinds (s : State) (k : Nat) (f : Cluster → Cluster) : (s.updCluster k f).layerKinds = s.layerKinds := rfl
@[simp] theorem State.updCluster_reqSeq (s : State) (k : Nat) (f : Cluster → Cluster) : (s.updCluster k f).reqSeq = s.reqSeq := rfl
@[simp] theorem State.updCluster_endSeq (s : State) (k : Nat) (f : Cluster → Cluster) : (s.updCluster k f).endSeq = s.endSeq := rfl
@[simp] theorem State.updCluster_dropped (s : State) (k : Nat) (f : Cluster → Cluster) : (s.updCluster k f).dropped = s.dropped := rfl
@[simp] theorem State.updCluster_registeredOnce (s : State) (k : Nat) (f : Cluster → Cluster) : (s.updCluster k f).registeredOnce = s.registeredOnce := rfl
@[simp] theorem State.updCluster_tierWays (s : State) (k : Nat) (f : Cluster → Cluster) : (s.updCluster k f).tierWays = s.tierWays := rfl
@[simp] theorem State.updCluster_tierCounts (s : State) (k : Nat) (f : Cluster → Cluster) : (s.updCluster k f).tierCounts = s.tierCounts := rfl
@[simp] theorem State.updCluster_lost (s : State) (k : Nat) (f : Cluster → Cluster) : (s.updCluster k f).lost = s.lost := rfl
@[simp] theorem State.updCluster_corrected (s : State) (k : Nat) (f : Cluster → Cluster) : (s.updCluster k f).corrected = s.corrected := rfl
@[simp] theorem State.updCluster_net (s : State) (k : Nat) (f : Cluster → Cluster) : (s.updCluster k f).net = s.net := rfl
@[simp] theorem State.updCluster_netOut (s : State) (k : Nat) (f : Cluster → Cluster) : (s.updCluster k f).netOut = s.netOut := rfl
@[simp] theorem State.updCluster_applied (s : State) (k : Nat) (f : Cluster → Cluster) : (s.updCluster k f).applied = s.applied := rfl
@[simp] theorem State.updCluster_flitsOut (s : State) (k : Nat) (f : Cluster → Cluster) : (s.updCluster k f).flitsOut = s.flitsOut := rfl
@[simp] theorem State.updCluster_flitErrors (s : State) (k : Nat) (f : Cluster → Cluster) : (s.updCluster k f).flitErrors = s.flitErrors := rfl
@[simp] theorem State.updCluster_gangReady (s : State) (k : Nat) (f : Cluster → Cluster) : (s.updCluster k f).gangReady = s.gangReady := rfl
@[simp] theorem State.updCluster_gangOut (s : State) (k : Nat) (f : Cluster → Cluster) : (s.updCluster k f).gangOut = s.gangOut := rfl
@[simp] theorem State.updCluster_gangStart (s : State) (k : Nat) (f : Cluster → Cluster) : (s.updCluster k f).gangStart = s.gangStart := rfl
@[simp] theorem State.updCluster_slices (s : State) (k : Nat) (f : Cluster → Cluster) : (s.updCluster k f).slices = s.slices := rfl
@[simp] theorem State.updCluster_freezes (s : State) (k : Nat) (f : Cluster → Cluster) : (s.updCluster k f).freezes = s.freezes := rfl
@[simp] theorem State.updCluster_releases (s : State) (k : Nat) (f : Cluster → Cluster) : (s.updCluster k f).releases = s.releases := rfl
@[simp] theorem State.updCluster_frozenLids (s : State) (k : Nat) (f : Cluster → Cluster) : (s.updCluster k f).frozenLids = s.frozenLids := rfl
@[simp] theorem State.updCluster_lines (s : State) (k : Nat) (f : Cluster → Cluster) : (s.updCluster k f).lines = s.lines := rfl
@[simp] theorem State.updCluster_tiles (s : State) (k : Nat) (f : Cluster → Cluster) : (s.updCluster k f).tiles = s.tiles := rfl
@[simp] theorem State.updCluster_links (s : State) (k : Nat) (f : Cluster → Cluster) : (s.updCluster k f).links = s.links := rfl
@[simp] theorem State.updCluster_budgets (s : State) (k : Nat) (f : Cluster → Cluster) : (s.updCluster k f).budgets = s.budgets := rfl
@[simp] theorem State.updCluster_left (s : State) (k : Nat) (f : Cluster → Cluster) : (s.updCluster k f).left = s.left := rfl
@[simp] theorem State.updCluster_throttled (s : State) (k : Nat) (f : Cluster → Cluster) : (s.updCluster k f).throttled = s.throttled := rfl
@[simp] theorem State.updCluster_hot (s : State) (k : Nat) (f : Cluster → Cluster) : (s.updCluster k f).hot = s.hot := rfl
@[simp] theorem State.updCluster_held (s : State) (k : Nat) (f : Cluster → Cluster) : (s.updCluster k f).held = s.held := rfl
@[simp] theorem State.updCluster_inReset (s : State) (k : Nat) (f : Cluster → Cluster) : (s.updCluster k f).inReset = s.inReset := rfl
@[simp] theorem State.updCluster_resets (s : State) (k : Nat) (f : Cluster → Cluster) : (s.updCluster k f).resets = s.resets := rfl
@[simp] theorem State.updCluster_focus (s : State) (k : Nat) (f : Cluster → Cluster) : (s.updCluster k f).focus = s.focus := rfl
@[simp] theorem State.updCluster_active (s : State) (k : Nat) (f : Cluster → Cluster) : (s.updCluster k f).active = s.active := rfl
@[simp] theorem State.updCluster_turns (s : State) (k : Nat) (f : Cluster → Cluster) : (s.updCluster k f).turns = s.turns := rfl
@[simp] theorem State.updCluster_agenda (s : State) (k : Nat) (f : Cluster → Cluster) : (s.updCluster k f).agenda = s.agenda := rfl
@[simp] theorem State.updCluster_free (s : State) (k : Nat) (f : Cluster → Cluster) : (s.updCluster k f).free = s.free := rfl

@[simp] theorem State.setCtx_mem (s : State) (k c : Nat) (x : Ctx) : (s.setCtx k c x).mem = s.mem := rfl
@[simp] theorem State.setCtx_poison (s : State) (k c : Nat) (x : Ctx) : (s.setCtx k c x).poison = s.poison := rfl
@[simp] theorem State.setCtx_olds (s : State) (k c : Nat) (x : Ctx) : (s.setCtx k c x).olds = s.olds := rfl
@[simp] theorem State.setCtx_clusters (s : State) (k c : Nat) (x : Ctx) : (s.setCtx k c x).clusters = s.clusters := rfl
@[simp] theorem State.setCtx_pkg (s : State) (k c : Nat) (x : Ctx) : (s.setCtx k c x).pkg = s.pkg := rfl
@[simp] theorem State.setCtx_domain (s : State) (k c : Nat) (x : Ctx) : (s.setCtx k c x).domain = s.domain := rfl
@[simp] theorem State.setCtx_vdns (s : State) (k c : Nat) (x : Ctx) : (s.setCtx k c x).vdns = s.vdns := rfl
@[simp] theorem State.setCtx_ptc (s : State) (k c : Nat) (x : Ctx) : (s.setCtx k c x).ptc = s.ptc := rfl
@[simp] theorem State.setCtx_rate (s : State) (k c : Nat) (x : Ctx) : (s.setCtx k c x).rate = s.rate := rfl
@[simp] theorem State.setCtx_joined (s : State) (k c : Nat) (x : Ctx) : (s.setCtx k c x).joined = s.joined := rfl
@[simp] theorem State.setCtx_cycles (s : State) (k c : Nat) (x : Ctx) : (s.setCtx k c x).cycles = s.cycles := rfl
@[simp] theorem State.setCtx_launches (s : State) (k c : Nat) (x : Ctx) : (s.setCtx k c x).launches = s.launches := rfl
@[simp] theorem State.setCtx_classQ (s : State) (k c : Nat) (x : Ctx) : (s.setCtx k c x).classQ = s.classQ := rfl
@[simp] theorem State.setCtx_records (s : State) (k c : Nat) (x : Ctx) : (s.setCtx k c x).records = s.records := rfl
@[simp] theorem State.setCtx_posts (s : State) (k c : Nat) (x : Ctx) : (s.setCtx k c x).posts = s.posts := rfl
@[simp] theorem State.setCtx_endpoint (s : State) (k c : Nat) (x : Ctx) : (s.setCtx k c x).endpoint = s.endpoint := rfl
@[simp] theorem State.setCtx_controls (s : State) (k c : Nat) (x : Ctx) : (s.setCtx k c x).controls = s.controls := rfl
@[simp] theorem State.setCtx_windows (s : State) (k c : Nat) (x : Ctx) : (s.setCtx k c x).windows = s.windows := rfl
@[simp] theorem State.setCtx_hostHeld (s : State) (k c : Nat) (x : Ctx) : (s.setCtx k c x).hostHeld = s.hostHeld := rfl
@[simp] theorem State.setCtx_hostOut (s : State) (k c : Nat) (x : Ctx) : (s.setCtx k c x).hostOut = s.hostOut := rfl
@[simp] theorem State.setCtx_logs (s : State) (k c : Nat) (x : Ctx) : (s.setCtx k c x).logs = s.logs := rfl
@[simp] theorem State.setCtx_forward (s : State) (k c : Nat) (x : Ctx) : (s.setCtx k c x).forward = s.forward := rfl
@[simp] theorem State.setCtx_farVdns (s : State) (k c : Nat) (x : Ctx) : (s.setCtx k c x).farVdns = s.farVdns := rfl
@[simp] theorem State.setCtx_layerKinds (s : State) (k c : Nat) (x : Ctx) : (s.setCtx k c x).layerKinds = s.layerKinds := rfl
@[simp] theorem State.setCtx_reqSeq (s : State) (k c : Nat) (x : Ctx) : (s.setCtx k c x).reqSeq = s.reqSeq := rfl
@[simp] theorem State.setCtx_endSeq (s : State) (k c : Nat) (x : Ctx) : (s.setCtx k c x).endSeq = s.endSeq := rfl
@[simp] theorem State.setCtx_dropped (s : State) (k c : Nat) (x : Ctx) : (s.setCtx k c x).dropped = s.dropped := rfl
@[simp] theorem State.setCtx_registeredOnce (s : State) (k c : Nat) (x : Ctx) : (s.setCtx k c x).registeredOnce = s.registeredOnce := rfl
@[simp] theorem State.setCtx_tierWays (s : State) (k c : Nat) (x : Ctx) : (s.setCtx k c x).tierWays = s.tierWays := rfl
@[simp] theorem State.setCtx_tierCounts (s : State) (k c : Nat) (x : Ctx) : (s.setCtx k c x).tierCounts = s.tierCounts := rfl
@[simp] theorem State.setCtx_lost (s : State) (k c : Nat) (x : Ctx) : (s.setCtx k c x).lost = s.lost := rfl
@[simp] theorem State.setCtx_corrected (s : State) (k c : Nat) (x : Ctx) : (s.setCtx k c x).corrected = s.corrected := rfl
@[simp] theorem State.setCtx_net (s : State) (k c : Nat) (x : Ctx) : (s.setCtx k c x).net = s.net := rfl
@[simp] theorem State.setCtx_netOut (s : State) (k c : Nat) (x : Ctx) : (s.setCtx k c x).netOut = s.netOut := rfl
@[simp] theorem State.setCtx_applied (s : State) (k c : Nat) (x : Ctx) : (s.setCtx k c x).applied = s.applied := rfl
@[simp] theorem State.setCtx_flitsOut (s : State) (k c : Nat) (x : Ctx) : (s.setCtx k c x).flitsOut = s.flitsOut := rfl
@[simp] theorem State.setCtx_flitErrors (s : State) (k c : Nat) (x : Ctx) : (s.setCtx k c x).flitErrors = s.flitErrors := rfl
@[simp] theorem State.setCtx_gangReady (s : State) (k c : Nat) (x : Ctx) : (s.setCtx k c x).gangReady = s.gangReady := rfl
@[simp] theorem State.setCtx_gangOut (s : State) (k c : Nat) (x : Ctx) : (s.setCtx k c x).gangOut = s.gangOut := rfl
@[simp] theorem State.setCtx_gangStart (s : State) (k c : Nat) (x : Ctx) : (s.setCtx k c x).gangStart = s.gangStart := rfl
@[simp] theorem State.setCtx_slices (s : State) (k c : Nat) (x : Ctx) : (s.setCtx k c x).slices = s.slices := rfl
@[simp] theorem State.setCtx_freezes (s : State) (k c : Nat) (x : Ctx) : (s.setCtx k c x).freezes = s.freezes := rfl
@[simp] theorem State.setCtx_releases (s : State) (k c : Nat) (x : Ctx) : (s.setCtx k c x).releases = s.releases := rfl
@[simp] theorem State.setCtx_frozenLids (s : State) (k c : Nat) (x : Ctx) : (s.setCtx k c x).frozenLids = s.frozenLids := rfl
@[simp] theorem State.setCtx_lines (s : State) (k c : Nat) (x : Ctx) : (s.setCtx k c x).lines = s.lines := rfl
@[simp] theorem State.setCtx_tiles (s : State) (k c : Nat) (x : Ctx) : (s.setCtx k c x).tiles = s.tiles := rfl
@[simp] theorem State.setCtx_links (s : State) (k c : Nat) (x : Ctx) : (s.setCtx k c x).links = s.links := rfl
@[simp] theorem State.setCtx_budgets (s : State) (k c : Nat) (x : Ctx) : (s.setCtx k c x).budgets = s.budgets := rfl
@[simp] theorem State.setCtx_left (s : State) (k c : Nat) (x : Ctx) : (s.setCtx k c x).left = s.left := rfl
@[simp] theorem State.setCtx_throttled (s : State) (k c : Nat) (x : Ctx) : (s.setCtx k c x).throttled = s.throttled := rfl
@[simp] theorem State.setCtx_hot (s : State) (k c : Nat) (x : Ctx) : (s.setCtx k c x).hot = s.hot := rfl
@[simp] theorem State.setCtx_held (s : State) (k c : Nat) (x : Ctx) : (s.setCtx k c x).held = s.held := rfl
@[simp] theorem State.setCtx_inReset (s : State) (k c : Nat) (x : Ctx) : (s.setCtx k c x).inReset = s.inReset := rfl
@[simp] theorem State.setCtx_resets (s : State) (k c : Nat) (x : Ctx) : (s.setCtx k c x).resets = s.resets := rfl
@[simp] theorem State.setCtx_focus (s : State) (k c : Nat) (x : Ctx) : (s.setCtx k c x).focus = s.focus := rfl
@[simp] theorem State.setCtx_active (s : State) (k c : Nat) (x : Ctx) : (s.setCtx k c x).active = s.active := rfl
@[simp] theorem State.setCtx_turns (s : State) (k c : Nat) (x : Ctx) : (s.setCtx k c x).turns = s.turns := rfl
@[simp] theorem State.setCtx_agenda (s : State) (k c : Nat) (x : Ctx) : (s.setCtx k c x).agenda = s.agenda := rfl
@[simp] theorem State.setCtx_free (s : State) (k c : Nat) (x : Ctx) : (s.setCtx k c x).free = s.free := rfl

@[simp] theorem State.updCtx_mem (s : State) (k c : Nat) (f : Ctx → Ctx) : (s.updCtx k c f).mem = s.mem := rfl
@[simp] theorem State.updCtx_poison (s : State) (k c : Nat) (f : Ctx → Ctx) : (s.updCtx k c f).poison = s.poison := rfl
@[simp] theorem State.updCtx_olds (s : State) (k c : Nat) (f : Ctx → Ctx) : (s.updCtx k c f).olds = s.olds := rfl
@[simp] theorem State.updCtx_clusters (s : State) (k c : Nat) (f : Ctx → Ctx) : (s.updCtx k c f).clusters = s.clusters := rfl
@[simp] theorem State.updCtx_pkg (s : State) (k c : Nat) (f : Ctx → Ctx) : (s.updCtx k c f).pkg = s.pkg := rfl
@[simp] theorem State.updCtx_domain (s : State) (k c : Nat) (f : Ctx → Ctx) : (s.updCtx k c f).domain = s.domain := rfl
@[simp] theorem State.updCtx_vdns (s : State) (k c : Nat) (f : Ctx → Ctx) : (s.updCtx k c f).vdns = s.vdns := rfl
@[simp] theorem State.updCtx_ptc (s : State) (k c : Nat) (f : Ctx → Ctx) : (s.updCtx k c f).ptc = s.ptc := rfl
@[simp] theorem State.updCtx_rate (s : State) (k c : Nat) (f : Ctx → Ctx) : (s.updCtx k c f).rate = s.rate := rfl
@[simp] theorem State.updCtx_joined (s : State) (k c : Nat) (f : Ctx → Ctx) : (s.updCtx k c f).joined = s.joined := rfl
@[simp] theorem State.updCtx_cycles (s : State) (k c : Nat) (f : Ctx → Ctx) : (s.updCtx k c f).cycles = s.cycles := rfl
@[simp] theorem State.updCtx_launches (s : State) (k c : Nat) (f : Ctx → Ctx) : (s.updCtx k c f).launches = s.launches := rfl
@[simp] theorem State.updCtx_classQ (s : State) (k c : Nat) (f : Ctx → Ctx) : (s.updCtx k c f).classQ = s.classQ := rfl
@[simp] theorem State.updCtx_records (s : State) (k c : Nat) (f : Ctx → Ctx) : (s.updCtx k c f).records = s.records := rfl
@[simp] theorem State.updCtx_posts (s : State) (k c : Nat) (f : Ctx → Ctx) : (s.updCtx k c f).posts = s.posts := rfl
@[simp] theorem State.updCtx_endpoint (s : State) (k c : Nat) (f : Ctx → Ctx) : (s.updCtx k c f).endpoint = s.endpoint := rfl
@[simp] theorem State.updCtx_controls (s : State) (k c : Nat) (f : Ctx → Ctx) : (s.updCtx k c f).controls = s.controls := rfl
@[simp] theorem State.updCtx_windows (s : State) (k c : Nat) (f : Ctx → Ctx) : (s.updCtx k c f).windows = s.windows := rfl
@[simp] theorem State.updCtx_hostHeld (s : State) (k c : Nat) (f : Ctx → Ctx) : (s.updCtx k c f).hostHeld = s.hostHeld := rfl
@[simp] theorem State.updCtx_hostOut (s : State) (k c : Nat) (f : Ctx → Ctx) : (s.updCtx k c f).hostOut = s.hostOut := rfl
@[simp] theorem State.updCtx_logs (s : State) (k c : Nat) (f : Ctx → Ctx) : (s.updCtx k c f).logs = s.logs := rfl
@[simp] theorem State.updCtx_forward (s : State) (k c : Nat) (f : Ctx → Ctx) : (s.updCtx k c f).forward = s.forward := rfl
@[simp] theorem State.updCtx_farVdns (s : State) (k c : Nat) (f : Ctx → Ctx) : (s.updCtx k c f).farVdns = s.farVdns := rfl
@[simp] theorem State.updCtx_layerKinds (s : State) (k c : Nat) (f : Ctx → Ctx) : (s.updCtx k c f).layerKinds = s.layerKinds := rfl
@[simp] theorem State.updCtx_reqSeq (s : State) (k c : Nat) (f : Ctx → Ctx) : (s.updCtx k c f).reqSeq = s.reqSeq := rfl
@[simp] theorem State.updCtx_endSeq (s : State) (k c : Nat) (f : Ctx → Ctx) : (s.updCtx k c f).endSeq = s.endSeq := rfl
@[simp] theorem State.updCtx_dropped (s : State) (k c : Nat) (f : Ctx → Ctx) : (s.updCtx k c f).dropped = s.dropped := rfl
@[simp] theorem State.updCtx_registeredOnce (s : State) (k c : Nat) (f : Ctx → Ctx) : (s.updCtx k c f).registeredOnce = s.registeredOnce := rfl
@[simp] theorem State.updCtx_tierWays (s : State) (k c : Nat) (f : Ctx → Ctx) : (s.updCtx k c f).tierWays = s.tierWays := rfl
@[simp] theorem State.updCtx_tierCounts (s : State) (k c : Nat) (f : Ctx → Ctx) : (s.updCtx k c f).tierCounts = s.tierCounts := rfl
@[simp] theorem State.updCtx_lost (s : State) (k c : Nat) (f : Ctx → Ctx) : (s.updCtx k c f).lost = s.lost := rfl
@[simp] theorem State.updCtx_corrected (s : State) (k c : Nat) (f : Ctx → Ctx) : (s.updCtx k c f).corrected = s.corrected := rfl
@[simp] theorem State.updCtx_net (s : State) (k c : Nat) (f : Ctx → Ctx) : (s.updCtx k c f).net = s.net := rfl
@[simp] theorem State.updCtx_netOut (s : State) (k c : Nat) (f : Ctx → Ctx) : (s.updCtx k c f).netOut = s.netOut := rfl
@[simp] theorem State.updCtx_applied (s : State) (k c : Nat) (f : Ctx → Ctx) : (s.updCtx k c f).applied = s.applied := rfl
@[simp] theorem State.updCtx_flitsOut (s : State) (k c : Nat) (f : Ctx → Ctx) : (s.updCtx k c f).flitsOut = s.flitsOut := rfl
@[simp] theorem State.updCtx_flitErrors (s : State) (k c : Nat) (f : Ctx → Ctx) : (s.updCtx k c f).flitErrors = s.flitErrors := rfl
@[simp] theorem State.updCtx_gangReady (s : State) (k c : Nat) (f : Ctx → Ctx) : (s.updCtx k c f).gangReady = s.gangReady := rfl
@[simp] theorem State.updCtx_gangOut (s : State) (k c : Nat) (f : Ctx → Ctx) : (s.updCtx k c f).gangOut = s.gangOut := rfl
@[simp] theorem State.updCtx_gangStart (s : State) (k c : Nat) (f : Ctx → Ctx) : (s.updCtx k c f).gangStart = s.gangStart := rfl
@[simp] theorem State.updCtx_slices (s : State) (k c : Nat) (f : Ctx → Ctx) : (s.updCtx k c f).slices = s.slices := rfl
@[simp] theorem State.updCtx_freezes (s : State) (k c : Nat) (f : Ctx → Ctx) : (s.updCtx k c f).freezes = s.freezes := rfl
@[simp] theorem State.updCtx_releases (s : State) (k c : Nat) (f : Ctx → Ctx) : (s.updCtx k c f).releases = s.releases := rfl
@[simp] theorem State.updCtx_frozenLids (s : State) (k c : Nat) (f : Ctx → Ctx) : (s.updCtx k c f).frozenLids = s.frozenLids := rfl
@[simp] theorem State.updCtx_lines (s : State) (k c : Nat) (f : Ctx → Ctx) : (s.updCtx k c f).lines = s.lines := rfl
@[simp] theorem State.updCtx_tiles (s : State) (k c : Nat) (f : Ctx → Ctx) : (s.updCtx k c f).tiles = s.tiles := rfl
@[simp] theorem State.updCtx_links (s : State) (k c : Nat) (f : Ctx → Ctx) : (s.updCtx k c f).links = s.links := rfl
@[simp] theorem State.updCtx_budgets (s : State) (k c : Nat) (f : Ctx → Ctx) : (s.updCtx k c f).budgets = s.budgets := rfl
@[simp] theorem State.updCtx_left (s : State) (k c : Nat) (f : Ctx → Ctx) : (s.updCtx k c f).left = s.left := rfl
@[simp] theorem State.updCtx_throttled (s : State) (k c : Nat) (f : Ctx → Ctx) : (s.updCtx k c f).throttled = s.throttled := rfl
@[simp] theorem State.updCtx_hot (s : State) (k c : Nat) (f : Ctx → Ctx) : (s.updCtx k c f).hot = s.hot := rfl
@[simp] theorem State.updCtx_held (s : State) (k c : Nat) (f : Ctx → Ctx) : (s.updCtx k c f).held = s.held := rfl
@[simp] theorem State.updCtx_inReset (s : State) (k c : Nat) (f : Ctx → Ctx) : (s.updCtx k c f).inReset = s.inReset := rfl
@[simp] theorem State.updCtx_resets (s : State) (k c : Nat) (f : Ctx → Ctx) : (s.updCtx k c f).resets = s.resets := rfl
@[simp] theorem State.updCtx_focus (s : State) (k c : Nat) (f : Ctx → Ctx) : (s.updCtx k c f).focus = s.focus := rfl
@[simp] theorem State.updCtx_active (s : State) (k c : Nat) (f : Ctx → Ctx) : (s.updCtx k c f).active = s.active := rfl
@[simp] theorem State.updCtx_turns (s : State) (k c : Nat) (f : Ctx → Ctx) : (s.updCtx k c f).turns = s.turns := rfl
@[simp] theorem State.updCtx_agenda (s : State) (k c : Nat) (f : Ctx → Ctx) : (s.updCtx k c f).agenda = s.agenda := rfl
@[simp] theorem State.updCtx_free (s : State) (k c : Nat) (f : Ctx → Ctx) : (s.updCtx k c f).free = s.free := rfl

@[simp] theorem State.setMe_mem (s : State) (x : Ctx) : (s.setMe x).mem = s.mem := rfl
@[simp] theorem State.setMe_poison (s : State) (x : Ctx) : (s.setMe x).poison = s.poison := rfl
@[simp] theorem State.setMe_olds (s : State) (x : Ctx) : (s.setMe x).olds = s.olds := rfl
@[simp] theorem State.setMe_clusters (s : State) (x : Ctx) : (s.setMe x).clusters = s.clusters := rfl
@[simp] theorem State.setMe_pkg (s : State) (x : Ctx) : (s.setMe x).pkg = s.pkg := rfl
@[simp] theorem State.setMe_domain (s : State) (x : Ctx) : (s.setMe x).domain = s.domain := rfl
@[simp] theorem State.setMe_vdns (s : State) (x : Ctx) : (s.setMe x).vdns = s.vdns := rfl
@[simp] theorem State.setMe_ptc (s : State) (x : Ctx) : (s.setMe x).ptc = s.ptc := rfl
@[simp] theorem State.setMe_rate (s : State) (x : Ctx) : (s.setMe x).rate = s.rate := rfl
@[simp] theorem State.setMe_joined (s : State) (x : Ctx) : (s.setMe x).joined = s.joined := rfl
@[simp] theorem State.setMe_cycles (s : State) (x : Ctx) : (s.setMe x).cycles = s.cycles := rfl
@[simp] theorem State.setMe_launches (s : State) (x : Ctx) : (s.setMe x).launches = s.launches := rfl
@[simp] theorem State.setMe_classQ (s : State) (x : Ctx) : (s.setMe x).classQ = s.classQ := rfl
@[simp] theorem State.setMe_records (s : State) (x : Ctx) : (s.setMe x).records = s.records := rfl
@[simp] theorem State.setMe_posts (s : State) (x : Ctx) : (s.setMe x).posts = s.posts := rfl
@[simp] theorem State.setMe_endpoint (s : State) (x : Ctx) : (s.setMe x).endpoint = s.endpoint := rfl
@[simp] theorem State.setMe_controls (s : State) (x : Ctx) : (s.setMe x).controls = s.controls := rfl
@[simp] theorem State.setMe_windows (s : State) (x : Ctx) : (s.setMe x).windows = s.windows := rfl
@[simp] theorem State.setMe_hostHeld (s : State) (x : Ctx) : (s.setMe x).hostHeld = s.hostHeld := rfl
@[simp] theorem State.setMe_hostOut (s : State) (x : Ctx) : (s.setMe x).hostOut = s.hostOut := rfl
@[simp] theorem State.setMe_logs (s : State) (x : Ctx) : (s.setMe x).logs = s.logs := rfl
@[simp] theorem State.setMe_forward (s : State) (x : Ctx) : (s.setMe x).forward = s.forward := rfl
@[simp] theorem State.setMe_farVdns (s : State) (x : Ctx) : (s.setMe x).farVdns = s.farVdns := rfl
@[simp] theorem State.setMe_layerKinds (s : State) (x : Ctx) : (s.setMe x).layerKinds = s.layerKinds := rfl
@[simp] theorem State.setMe_reqSeq (s : State) (x : Ctx) : (s.setMe x).reqSeq = s.reqSeq := rfl
@[simp] theorem State.setMe_endSeq (s : State) (x : Ctx) : (s.setMe x).endSeq = s.endSeq := rfl
@[simp] theorem State.setMe_dropped (s : State) (x : Ctx) : (s.setMe x).dropped = s.dropped := rfl
@[simp] theorem State.setMe_registeredOnce (s : State) (x : Ctx) : (s.setMe x).registeredOnce = s.registeredOnce := rfl
@[simp] theorem State.setMe_tierWays (s : State) (x : Ctx) : (s.setMe x).tierWays = s.tierWays := rfl
@[simp] theorem State.setMe_tierCounts (s : State) (x : Ctx) : (s.setMe x).tierCounts = s.tierCounts := rfl
@[simp] theorem State.setMe_lost (s : State) (x : Ctx) : (s.setMe x).lost = s.lost := rfl
@[simp] theorem State.setMe_corrected (s : State) (x : Ctx) : (s.setMe x).corrected = s.corrected := rfl
@[simp] theorem State.setMe_net (s : State) (x : Ctx) : (s.setMe x).net = s.net := rfl
@[simp] theorem State.setMe_netOut (s : State) (x : Ctx) : (s.setMe x).netOut = s.netOut := rfl
@[simp] theorem State.setMe_applied (s : State) (x : Ctx) : (s.setMe x).applied = s.applied := rfl
@[simp] theorem State.setMe_flitsOut (s : State) (x : Ctx) : (s.setMe x).flitsOut = s.flitsOut := rfl
@[simp] theorem State.setMe_flitErrors (s : State) (x : Ctx) : (s.setMe x).flitErrors = s.flitErrors := rfl
@[simp] theorem State.setMe_gangReady (s : State) (x : Ctx) : (s.setMe x).gangReady = s.gangReady := rfl
@[simp] theorem State.setMe_gangOut (s : State) (x : Ctx) : (s.setMe x).gangOut = s.gangOut := rfl
@[simp] theorem State.setMe_gangStart (s : State) (x : Ctx) : (s.setMe x).gangStart = s.gangStart := rfl
@[simp] theorem State.setMe_slices (s : State) (x : Ctx) : (s.setMe x).slices = s.slices := rfl
@[simp] theorem State.setMe_freezes (s : State) (x : Ctx) : (s.setMe x).freezes = s.freezes := rfl
@[simp] theorem State.setMe_releases (s : State) (x : Ctx) : (s.setMe x).releases = s.releases := rfl
@[simp] theorem State.setMe_frozenLids (s : State) (x : Ctx) : (s.setMe x).frozenLids = s.frozenLids := rfl
@[simp] theorem State.setMe_lines (s : State) (x : Ctx) : (s.setMe x).lines = s.lines := rfl
@[simp] theorem State.setMe_tiles (s : State) (x : Ctx) : (s.setMe x).tiles = s.tiles := rfl
@[simp] theorem State.setMe_links (s : State) (x : Ctx) : (s.setMe x).links = s.links := rfl
@[simp] theorem State.setMe_budgets (s : State) (x : Ctx) : (s.setMe x).budgets = s.budgets := rfl
@[simp] theorem State.setMe_left (s : State) (x : Ctx) : (s.setMe x).left = s.left := rfl
@[simp] theorem State.setMe_throttled (s : State) (x : Ctx) : (s.setMe x).throttled = s.throttled := rfl
@[simp] theorem State.setMe_hot (s : State) (x : Ctx) : (s.setMe x).hot = s.hot := rfl
@[simp] theorem State.setMe_held (s : State) (x : Ctx) : (s.setMe x).held = s.held := rfl
@[simp] theorem State.setMe_inReset (s : State) (x : Ctx) : (s.setMe x).inReset = s.inReset := rfl
@[simp] theorem State.setMe_resets (s : State) (x : Ctx) : (s.setMe x).resets = s.resets := rfl
@[simp] theorem State.setMe_focus (s : State) (x : Ctx) : (s.setMe x).focus = s.focus := rfl
@[simp] theorem State.setMe_active (s : State) (x : Ctx) : (s.setMe x).active = s.active := rfl
@[simp] theorem State.setMe_turns (s : State) (x : Ctx) : (s.setMe x).turns = s.turns := rfl
@[simp] theorem State.setMe_agenda (s : State) (x : Ctx) : (s.setMe x).agenda = s.agenda := rfl
@[simp] theorem State.setMe_free (s : State) (x : Ctx) : (s.setMe x).free = s.free := rfl

@[simp] theorem State.done_mem (s : State) (stl : Stall) (f : Ctx → Ctx) : (s.done stl f).mem = s.mem := rfl
@[simp] theorem State.done_poison (s : State) (stl : Stall) (f : Ctx → Ctx) : (s.done stl f).poison = s.poison := rfl
@[simp] theorem State.done_olds (s : State) (stl : Stall) (f : Ctx → Ctx) : (s.done stl f).olds = s.olds := rfl
@[simp] theorem State.done_clusters (s : State) (stl : Stall) (f : Ctx → Ctx) : (s.done stl f).clusters = s.clusters := rfl
@[simp] theorem State.done_pkg (s : State) (stl : Stall) (f : Ctx → Ctx) : (s.done stl f).pkg = s.pkg := rfl
@[simp] theorem State.done_domain (s : State) (stl : Stall) (f : Ctx → Ctx) : (s.done stl f).domain = s.domain := rfl
@[simp] theorem State.done_vdns (s : State) (stl : Stall) (f : Ctx → Ctx) : (s.done stl f).vdns = s.vdns := rfl
@[simp] theorem State.done_ptc (s : State) (stl : Stall) (f : Ctx → Ctx) : (s.done stl f).ptc = s.ptc := rfl
@[simp] theorem State.done_rate (s : State) (stl : Stall) (f : Ctx → Ctx) : (s.done stl f).rate = s.rate := rfl
@[simp] theorem State.done_joined (s : State) (stl : Stall) (f : Ctx → Ctx) : (s.done stl f).joined = s.joined := rfl
@[simp] theorem State.done_cycles (s : State) (stl : Stall) (f : Ctx → Ctx) : (s.done stl f).cycles = s.cycles := rfl
@[simp] theorem State.done_launches (s : State) (stl : Stall) (f : Ctx → Ctx) : (s.done stl f).launches = s.launches := rfl
@[simp] theorem State.done_classQ (s : State) (stl : Stall) (f : Ctx → Ctx) : (s.done stl f).classQ = s.classQ := rfl
@[simp] theorem State.done_records (s : State) (stl : Stall) (f : Ctx → Ctx) : (s.done stl f).records = s.records := rfl
@[simp] theorem State.done_posts (s : State) (stl : Stall) (f : Ctx → Ctx) : (s.done stl f).posts = s.posts := rfl
@[simp] theorem State.done_endpoint (s : State) (stl : Stall) (f : Ctx → Ctx) : (s.done stl f).endpoint = s.endpoint := rfl
@[simp] theorem State.done_controls (s : State) (stl : Stall) (f : Ctx → Ctx) : (s.done stl f).controls = s.controls := rfl
@[simp] theorem State.done_windows (s : State) (stl : Stall) (f : Ctx → Ctx) : (s.done stl f).windows = s.windows := rfl
@[simp] theorem State.done_hostHeld (s : State) (stl : Stall) (f : Ctx → Ctx) : (s.done stl f).hostHeld = s.hostHeld := rfl
@[simp] theorem State.done_hostOut (s : State) (stl : Stall) (f : Ctx → Ctx) : (s.done stl f).hostOut = s.hostOut := rfl
@[simp] theorem State.done_logs (s : State) (stl : Stall) (f : Ctx → Ctx) : (s.done stl f).logs = s.logs := rfl
@[simp] theorem State.done_forward (s : State) (stl : Stall) (f : Ctx → Ctx) : (s.done stl f).forward = s.forward := rfl
@[simp] theorem State.done_farVdns (s : State) (stl : Stall) (f : Ctx → Ctx) : (s.done stl f).farVdns = s.farVdns := rfl
@[simp] theorem State.done_layerKinds (s : State) (stl : Stall) (f : Ctx → Ctx) : (s.done stl f).layerKinds = s.layerKinds := rfl
@[simp] theorem State.done_reqSeq (s : State) (stl : Stall) (f : Ctx → Ctx) : (s.done stl f).reqSeq = s.reqSeq := rfl
@[simp] theorem State.done_endSeq (s : State) (stl : Stall) (f : Ctx → Ctx) : (s.done stl f).endSeq = s.endSeq := rfl
@[simp] theorem State.done_dropped (s : State) (stl : Stall) (f : Ctx → Ctx) : (s.done stl f).dropped = s.dropped := rfl
@[simp] theorem State.done_registeredOnce (s : State) (stl : Stall) (f : Ctx → Ctx) : (s.done stl f).registeredOnce = s.registeredOnce := rfl
@[simp] theorem State.done_tierWays (s : State) (stl : Stall) (f : Ctx → Ctx) : (s.done stl f).tierWays = s.tierWays := rfl
@[simp] theorem State.done_tierCounts (s : State) (stl : Stall) (f : Ctx → Ctx) : (s.done stl f).tierCounts = s.tierCounts := rfl
@[simp] theorem State.done_lost (s : State) (stl : Stall) (f : Ctx → Ctx) : (s.done stl f).lost = s.lost := rfl
@[simp] theorem State.done_corrected (s : State) (stl : Stall) (f : Ctx → Ctx) : (s.done stl f).corrected = s.corrected := rfl
@[simp] theorem State.done_net (s : State) (stl : Stall) (f : Ctx → Ctx) : (s.done stl f).net = s.net := rfl
@[simp] theorem State.done_netOut (s : State) (stl : Stall) (f : Ctx → Ctx) : (s.done stl f).netOut = s.netOut := rfl
@[simp] theorem State.done_applied (s : State) (stl : Stall) (f : Ctx → Ctx) : (s.done stl f).applied = s.applied := rfl
@[simp] theorem State.done_flitsOut (s : State) (stl : Stall) (f : Ctx → Ctx) : (s.done stl f).flitsOut = s.flitsOut := rfl
@[simp] theorem State.done_flitErrors (s : State) (stl : Stall) (f : Ctx → Ctx) : (s.done stl f).flitErrors = s.flitErrors := rfl
@[simp] theorem State.done_gangReady (s : State) (stl : Stall) (f : Ctx → Ctx) : (s.done stl f).gangReady = s.gangReady := rfl
@[simp] theorem State.done_gangOut (s : State) (stl : Stall) (f : Ctx → Ctx) : (s.done stl f).gangOut = s.gangOut := rfl
@[simp] theorem State.done_gangStart (s : State) (stl : Stall) (f : Ctx → Ctx) : (s.done stl f).gangStart = s.gangStart := rfl
@[simp] theorem State.done_slices (s : State) (stl : Stall) (f : Ctx → Ctx) : (s.done stl f).slices = s.slices := rfl
@[simp] theorem State.done_freezes (s : State) (stl : Stall) (f : Ctx → Ctx) : (s.done stl f).freezes = s.freezes := rfl
@[simp] theorem State.done_releases (s : State) (stl : Stall) (f : Ctx → Ctx) : (s.done stl f).releases = s.releases := rfl
@[simp] theorem State.done_frozenLids (s : State) (stl : Stall) (f : Ctx → Ctx) : (s.done stl f).frozenLids = s.frozenLids := rfl
@[simp] theorem State.done_lines (s : State) (stl : Stall) (f : Ctx → Ctx) : (s.done stl f).lines = s.lines := rfl
@[simp] theorem State.done_tiles (s : State) (stl : Stall) (f : Ctx → Ctx) : (s.done stl f).tiles = s.tiles := rfl
@[simp] theorem State.done_links (s : State) (stl : Stall) (f : Ctx → Ctx) : (s.done stl f).links = s.links := rfl
@[simp] theorem State.done_budgets (s : State) (stl : Stall) (f : Ctx → Ctx) : (s.done stl f).budgets = s.budgets := rfl
@[simp] theorem State.done_left (s : State) (stl : Stall) (f : Ctx → Ctx) : (s.done stl f).left = s.left := rfl
@[simp] theorem State.done_throttled (s : State) (stl : Stall) (f : Ctx → Ctx) : (s.done stl f).throttled = s.throttled := rfl
@[simp] theorem State.done_hot (s : State) (stl : Stall) (f : Ctx → Ctx) : (s.done stl f).hot = s.hot := rfl
@[simp] theorem State.done_held (s : State) (stl : Stall) (f : Ctx → Ctx) : (s.done stl f).held = s.held := rfl
@[simp] theorem State.done_inReset (s : State) (stl : Stall) (f : Ctx → Ctx) : (s.done stl f).inReset = s.inReset := rfl
@[simp] theorem State.done_resets (s : State) (stl : Stall) (f : Ctx → Ctx) : (s.done stl f).resets = s.resets := rfl
@[simp] theorem State.done_focus (s : State) (stl : Stall) (f : Ctx → Ctx) : (s.done stl f).focus = s.focus := rfl
@[simp] theorem State.done_active (s : State) (stl : Stall) (f : Ctx → Ctx) : (s.done stl f).active = s.active := rfl
@[simp] theorem State.done_turns (s : State) (stl : Stall) (f : Ctx → Ctx) : (s.done stl f).turns = s.turns := rfl
@[simp] theorem State.done_agenda (s : State) (stl : Stall) (f : Ctx → Ctx) : (s.done stl f).agenda = s.agenda := rfl
@[simp] theorem State.done_free (s : State) (stl : Stall) (f : Ctx → Ctx) : (s.done stl f).free = s.free := rfl

@[simp] theorem State.wait_mem (s : State) (w : Wait) : (s.wait w).mem = s.mem := rfl
@[simp] theorem State.wait_poison (s : State) (w : Wait) : (s.wait w).poison = s.poison := rfl
@[simp] theorem State.wait_olds (s : State) (w : Wait) : (s.wait w).olds = s.olds := rfl
@[simp] theorem State.wait_clusters (s : State) (w : Wait) : (s.wait w).clusters = s.clusters := rfl
@[simp] theorem State.wait_pkg (s : State) (w : Wait) : (s.wait w).pkg = s.pkg := rfl
@[simp] theorem State.wait_domain (s : State) (w : Wait) : (s.wait w).domain = s.domain := rfl
@[simp] theorem State.wait_vdns (s : State) (w : Wait) : (s.wait w).vdns = s.vdns := rfl
@[simp] theorem State.wait_ptc (s : State) (w : Wait) : (s.wait w).ptc = s.ptc := rfl
@[simp] theorem State.wait_rate (s : State) (w : Wait) : (s.wait w).rate = s.rate := rfl
@[simp] theorem State.wait_joined (s : State) (w : Wait) : (s.wait w).joined = s.joined := rfl
@[simp] theorem State.wait_cycles (s : State) (w : Wait) : (s.wait w).cycles = s.cycles := rfl
@[simp] theorem State.wait_launches (s : State) (w : Wait) : (s.wait w).launches = s.launches := rfl
@[simp] theorem State.wait_classQ (s : State) (w : Wait) : (s.wait w).classQ = s.classQ := rfl
@[simp] theorem State.wait_records (s : State) (w : Wait) : (s.wait w).records = s.records := rfl
@[simp] theorem State.wait_posts (s : State) (w : Wait) : (s.wait w).posts = s.posts := rfl
@[simp] theorem State.wait_endpoint (s : State) (w : Wait) : (s.wait w).endpoint = s.endpoint := rfl
@[simp] theorem State.wait_controls (s : State) (w : Wait) : (s.wait w).controls = s.controls := rfl
@[simp] theorem State.wait_windows (s : State) (w : Wait) : (s.wait w).windows = s.windows := rfl
@[simp] theorem State.wait_hostHeld (s : State) (w : Wait) : (s.wait w).hostHeld = s.hostHeld := rfl
@[simp] theorem State.wait_hostOut (s : State) (w : Wait) : (s.wait w).hostOut = s.hostOut := rfl
@[simp] theorem State.wait_logs (s : State) (w : Wait) : (s.wait w).logs = s.logs := rfl
@[simp] theorem State.wait_forward (s : State) (w : Wait) : (s.wait w).forward = s.forward := rfl
@[simp] theorem State.wait_farVdns (s : State) (w : Wait) : (s.wait w).farVdns = s.farVdns := rfl
@[simp] theorem State.wait_layerKinds (s : State) (w : Wait) : (s.wait w).layerKinds = s.layerKinds := rfl
@[simp] theorem State.wait_reqSeq (s : State) (w : Wait) : (s.wait w).reqSeq = s.reqSeq := rfl
@[simp] theorem State.wait_endSeq (s : State) (w : Wait) : (s.wait w).endSeq = s.endSeq := rfl
@[simp] theorem State.wait_dropped (s : State) (w : Wait) : (s.wait w).dropped = s.dropped := rfl
@[simp] theorem State.wait_registeredOnce (s : State) (w : Wait) : (s.wait w).registeredOnce = s.registeredOnce := rfl
@[simp] theorem State.wait_tierWays (s : State) (w : Wait) : (s.wait w).tierWays = s.tierWays := rfl
@[simp] theorem State.wait_tierCounts (s : State) (w : Wait) : (s.wait w).tierCounts = s.tierCounts := rfl
@[simp] theorem State.wait_lost (s : State) (w : Wait) : (s.wait w).lost = s.lost := rfl
@[simp] theorem State.wait_corrected (s : State) (w : Wait) : (s.wait w).corrected = s.corrected := rfl
@[simp] theorem State.wait_net (s : State) (w : Wait) : (s.wait w).net = s.net := rfl
@[simp] theorem State.wait_netOut (s : State) (w : Wait) : (s.wait w).netOut = s.netOut := rfl
@[simp] theorem State.wait_applied (s : State) (w : Wait) : (s.wait w).applied = s.applied := rfl
@[simp] theorem State.wait_flitsOut (s : State) (w : Wait) : (s.wait w).flitsOut = s.flitsOut := rfl
@[simp] theorem State.wait_flitErrors (s : State) (w : Wait) : (s.wait w).flitErrors = s.flitErrors := rfl
@[simp] theorem State.wait_gangReady (s : State) (w : Wait) : (s.wait w).gangReady = s.gangReady := rfl
@[simp] theorem State.wait_gangOut (s : State) (w : Wait) : (s.wait w).gangOut = s.gangOut := rfl
@[simp] theorem State.wait_gangStart (s : State) (w : Wait) : (s.wait w).gangStart = s.gangStart := rfl
@[simp] theorem State.wait_slices (s : State) (w : Wait) : (s.wait w).slices = s.slices := rfl
@[simp] theorem State.wait_freezes (s : State) (w : Wait) : (s.wait w).freezes = s.freezes := rfl
@[simp] theorem State.wait_releases (s : State) (w : Wait) : (s.wait w).releases = s.releases := rfl
@[simp] theorem State.wait_frozenLids (s : State) (w : Wait) : (s.wait w).frozenLids = s.frozenLids := rfl
@[simp] theorem State.wait_lines (s : State) (w : Wait) : (s.wait w).lines = s.lines := rfl
@[simp] theorem State.wait_tiles (s : State) (w : Wait) : (s.wait w).tiles = s.tiles := rfl
@[simp] theorem State.wait_links (s : State) (w : Wait) : (s.wait w).links = s.links := rfl
@[simp] theorem State.wait_budgets (s : State) (w : Wait) : (s.wait w).budgets = s.budgets := rfl
@[simp] theorem State.wait_left (s : State) (w : Wait) : (s.wait w).left = s.left := rfl
@[simp] theorem State.wait_throttled (s : State) (w : Wait) : (s.wait w).throttled = s.throttled := rfl
@[simp] theorem State.wait_hot (s : State) (w : Wait) : (s.wait w).hot = s.hot := rfl
@[simp] theorem State.wait_held (s : State) (w : Wait) : (s.wait w).held = s.held := rfl
@[simp] theorem State.wait_inReset (s : State) (w : Wait) : (s.wait w).inReset = s.inReset := rfl
@[simp] theorem State.wait_resets (s : State) (w : Wait) : (s.wait w).resets = s.resets := rfl
@[simp] theorem State.wait_focus (s : State) (w : Wait) : (s.wait w).focus = s.focus := rfl
@[simp] theorem State.wait_active (s : State) (w : Wait) : (s.wait w).active = s.active := rfl
@[simp] theorem State.wait_turns (s : State) (w : Wait) : (s.wait w).turns = s.turns := rfl
@[simp] theorem State.wait_agenda (s : State) (w : Wait) : (s.wait w).agenda = s.agenda := rfl
@[simp] theorem State.wait_free (s : State) (w : Wait) : (s.wait w).free = s.free := rfl

@[simp] theorem State.tick_mem (s : State) : (s.tick).mem = s.mem := rfl
@[simp] theorem State.tick_poison (s : State) : (s.tick).poison = s.poison := rfl
@[simp] theorem State.tick_olds (s : State) : (s.tick).olds = s.olds := rfl
@[simp] theorem State.tick_cores (s : State) : (s.tick).cores = s.cores := rfl
@[simp] theorem State.tick_clusters (s : State) : (s.tick).clusters = s.clusters := rfl
@[simp] theorem State.tick_pkg (s : State) : (s.tick).pkg = s.pkg := rfl
@[simp] theorem State.tick_domain (s : State) : (s.tick).domain = s.domain := rfl
@[simp] theorem State.tick_vdns (s : State) : (s.tick).vdns = s.vdns := rfl
@[simp] theorem State.tick_ptc (s : State) : (s.tick).ptc = s.ptc := rfl
@[simp] theorem State.tick_rate (s : State) : (s.tick).rate = s.rate := rfl
@[simp] theorem State.tick_joined (s : State) : (s.tick).joined = s.joined := rfl
@[simp] theorem State.tick_cycles (s : State) : (s.tick).cycles = s.cycles := rfl
@[simp] theorem State.tick_launches (s : State) : (s.tick).launches = s.launches := rfl
@[simp] theorem State.tick_classQ (s : State) : (s.tick).classQ = s.classQ := rfl
@[simp] theorem State.tick_records (s : State) : (s.tick).records = s.records := rfl
@[simp] theorem State.tick_posts (s : State) : (s.tick).posts = s.posts := rfl
@[simp] theorem State.tick_endpoint (s : State) : (s.tick).endpoint = s.endpoint := rfl
@[simp] theorem State.tick_controls (s : State) : (s.tick).controls = s.controls := rfl
@[simp] theorem State.tick_windows (s : State) : (s.tick).windows = s.windows := rfl
@[simp] theorem State.tick_hostHeld (s : State) : (s.tick).hostHeld = s.hostHeld := rfl
@[simp] theorem State.tick_hostOut (s : State) : (s.tick).hostOut = s.hostOut := rfl
@[simp] theorem State.tick_logs (s : State) : (s.tick).logs = s.logs := rfl
@[simp] theorem State.tick_forward (s : State) : (s.tick).forward = s.forward := rfl
@[simp] theorem State.tick_farVdns (s : State) : (s.tick).farVdns = s.farVdns := rfl
@[simp] theorem State.tick_layerKinds (s : State) : (s.tick).layerKinds = s.layerKinds := rfl
@[simp] theorem State.tick_reqSeq (s : State) : (s.tick).reqSeq = s.reqSeq := rfl
@[simp] theorem State.tick_endSeq (s : State) : (s.tick).endSeq = s.endSeq := rfl
@[simp] theorem State.tick_dropped (s : State) : (s.tick).dropped = s.dropped := rfl
@[simp] theorem State.tick_registeredOnce (s : State) : (s.tick).registeredOnce = s.registeredOnce := rfl
@[simp] theorem State.tick_tierWays (s : State) : (s.tick).tierWays = s.tierWays := rfl
@[simp] theorem State.tick_tierCounts (s : State) : (s.tick).tierCounts = s.tierCounts := rfl
@[simp] theorem State.tick_lost (s : State) : (s.tick).lost = s.lost := rfl
@[simp] theorem State.tick_corrected (s : State) : (s.tick).corrected = s.corrected := rfl
@[simp] theorem State.tick_net (s : State) : (s.tick).net = s.net := rfl
@[simp] theorem State.tick_netOut (s : State) : (s.tick).netOut = s.netOut := rfl
@[simp] theorem State.tick_applied (s : State) : (s.tick).applied = s.applied := rfl
@[simp] theorem State.tick_flitsOut (s : State) : (s.tick).flitsOut = s.flitsOut := rfl
@[simp] theorem State.tick_flitErrors (s : State) : (s.tick).flitErrors = s.flitErrors := rfl
@[simp] theorem State.tick_gangReady (s : State) : (s.tick).gangReady = s.gangReady := rfl
@[simp] theorem State.tick_gangOut (s : State) : (s.tick).gangOut = s.gangOut := rfl
@[simp] theorem State.tick_gangStart (s : State) : (s.tick).gangStart = s.gangStart := rfl
@[simp] theorem State.tick_slices (s : State) : (s.tick).slices = s.slices := rfl
@[simp] theorem State.tick_freezes (s : State) : (s.tick).freezes = s.freezes := rfl
@[simp] theorem State.tick_releases (s : State) : (s.tick).releases = s.releases := rfl
@[simp] theorem State.tick_frozenLids (s : State) : (s.tick).frozenLids = s.frozenLids := rfl
@[simp] theorem State.tick_lines (s : State) : (s.tick).lines = s.lines := rfl
@[simp] theorem State.tick_tiles (s : State) : (s.tick).tiles = s.tiles := rfl
@[simp] theorem State.tick_links (s : State) : (s.tick).links = s.links := rfl
@[simp] theorem State.tick_budgets (s : State) : (s.tick).budgets = s.budgets := rfl
@[simp] theorem State.tick_left (s : State) : (s.tick).left = s.left := rfl
@[simp] theorem State.tick_throttled (s : State) : (s.tick).throttled = s.throttled := rfl
@[simp] theorem State.tick_hot (s : State) : (s.tick).hot = s.hot := rfl
@[simp] theorem State.tick_held (s : State) : (s.tick).held = s.held := rfl
@[simp] theorem State.tick_inReset (s : State) : (s.tick).inReset = s.inReset := rfl
@[simp] theorem State.tick_resets (s : State) : (s.tick).resets = s.resets := rfl
@[simp] theorem State.tick_focus (s : State) : (s.tick).focus = s.focus := rfl
@[simp] theorem State.tick_active (s : State) : (s.tick).active = s.active := rfl
@[simp] theorem State.tick_turns (s : State) : (s.tick).turns = s.turns := rfl
@[simp] theorem State.tick_agenda (s : State) : (s.tick).agenda = s.agenda := rfl

@[simp] theorem State.pop_mem (s : State) : (s.pop).mem = s.mem := rfl
@[simp] theorem State.pop_poison (s : State) : (s.pop).poison = s.poison := rfl
@[simp] theorem State.pop_olds (s : State) : (s.pop).olds = s.olds := rfl
@[simp] theorem State.pop_cores (s : State) : (s.pop).cores = s.cores := rfl
@[simp] theorem State.pop_clusters (s : State) : (s.pop).clusters = s.clusters := rfl
@[simp] theorem State.pop_pkg (s : State) : (s.pop).pkg = s.pkg := rfl
@[simp] theorem State.pop_domain (s : State) : (s.pop).domain = s.domain := rfl
@[simp] theorem State.pop_vdns (s : State) : (s.pop).vdns = s.vdns := rfl
@[simp] theorem State.pop_ptc (s : State) : (s.pop).ptc = s.ptc := rfl
@[simp] theorem State.pop_rate (s : State) : (s.pop).rate = s.rate := rfl
@[simp] theorem State.pop_joined (s : State) : (s.pop).joined = s.joined := rfl
@[simp] theorem State.pop_cycles (s : State) : (s.pop).cycles = s.cycles := rfl
@[simp] theorem State.pop_launches (s : State) : (s.pop).launches = s.launches := rfl
@[simp] theorem State.pop_classQ (s : State) : (s.pop).classQ = s.classQ := rfl
@[simp] theorem State.pop_records (s : State) : (s.pop).records = s.records := rfl
@[simp] theorem State.pop_posts (s : State) : (s.pop).posts = s.posts := rfl
@[simp] theorem State.pop_endpoint (s : State) : (s.pop).endpoint = s.endpoint := rfl
@[simp] theorem State.pop_controls (s : State) : (s.pop).controls = s.controls := rfl
@[simp] theorem State.pop_windows (s : State) : (s.pop).windows = s.windows := rfl
@[simp] theorem State.pop_hostHeld (s : State) : (s.pop).hostHeld = s.hostHeld := rfl
@[simp] theorem State.pop_hostOut (s : State) : (s.pop).hostOut = s.hostOut := rfl
@[simp] theorem State.pop_logs (s : State) : (s.pop).logs = s.logs := rfl
@[simp] theorem State.pop_forward (s : State) : (s.pop).forward = s.forward := rfl
@[simp] theorem State.pop_farVdns (s : State) : (s.pop).farVdns = s.farVdns := rfl
@[simp] theorem State.pop_layerKinds (s : State) : (s.pop).layerKinds = s.layerKinds := rfl
@[simp] theorem State.pop_reqSeq (s : State) : (s.pop).reqSeq = s.reqSeq := rfl
@[simp] theorem State.pop_endSeq (s : State) : (s.pop).endSeq = s.endSeq := rfl
@[simp] theorem State.pop_dropped (s : State) : (s.pop).dropped = s.dropped := rfl
@[simp] theorem State.pop_registeredOnce (s : State) : (s.pop).registeredOnce = s.registeredOnce := rfl
@[simp] theorem State.pop_tierWays (s : State) : (s.pop).tierWays = s.tierWays := rfl
@[simp] theorem State.pop_tierCounts (s : State) : (s.pop).tierCounts = s.tierCounts := rfl
@[simp] theorem State.pop_lost (s : State) : (s.pop).lost = s.lost := rfl
@[simp] theorem State.pop_corrected (s : State) : (s.pop).corrected = s.corrected := rfl
@[simp] theorem State.pop_net (s : State) : (s.pop).net = s.net := rfl
@[simp] theorem State.pop_netOut (s : State) : (s.pop).netOut = s.netOut := rfl
@[simp] theorem State.pop_applied (s : State) : (s.pop).applied = s.applied := rfl
@[simp] theorem State.pop_flitsOut (s : State) : (s.pop).flitsOut = s.flitsOut := rfl
@[simp] theorem State.pop_flitErrors (s : State) : (s.pop).flitErrors = s.flitErrors := rfl
@[simp] theorem State.pop_gangReady (s : State) : (s.pop).gangReady = s.gangReady := rfl
@[simp] theorem State.pop_gangOut (s : State) : (s.pop).gangOut = s.gangOut := rfl
@[simp] theorem State.pop_gangStart (s : State) : (s.pop).gangStart = s.gangStart := rfl
@[simp] theorem State.pop_slices (s : State) : (s.pop).slices = s.slices := rfl
@[simp] theorem State.pop_freezes (s : State) : (s.pop).freezes = s.freezes := rfl
@[simp] theorem State.pop_releases (s : State) : (s.pop).releases = s.releases := rfl
@[simp] theorem State.pop_frozenLids (s : State) : (s.pop).frozenLids = s.frozenLids := rfl
@[simp] theorem State.pop_lines (s : State) : (s.pop).lines = s.lines := rfl
@[simp] theorem State.pop_tiles (s : State) : (s.pop).tiles = s.tiles := rfl
@[simp] theorem State.pop_links (s : State) : (s.pop).links = s.links := rfl
@[simp] theorem State.pop_budgets (s : State) : (s.pop).budgets = s.budgets := rfl
@[simp] theorem State.pop_left (s : State) : (s.pop).left = s.left := rfl
@[simp] theorem State.pop_throttled (s : State) : (s.pop).throttled = s.throttled := rfl
@[simp] theorem State.pop_hot (s : State) : (s.pop).hot = s.hot := rfl
@[simp] theorem State.pop_held (s : State) : (s.pop).held = s.held := rfl
@[simp] theorem State.pop_inReset (s : State) : (s.pop).inReset = s.inReset := rfl
@[simp] theorem State.pop_resets (s : State) : (s.pop).resets = s.resets := rfl
@[simp] theorem State.pop_focus (s : State) : (s.pop).focus = s.focus := rfl
@[simp] theorem State.pop_active (s : State) : (s.pop).active = s.active := rfl
@[simp] theorem State.pop_turns (s : State) : (s.pop).turns = s.turns := rfl
@[simp] theorem State.pop_free (s : State) : (s.pop).free = s.free := rfl

@[simp] theorem State.logOn_mem (s : State) (cls unit kind lid target : Nat) (w2 w3 tval : Word) : (s.logOn cls unit kind lid target w2 w3 tval).mem = s.mem := rfl
@[simp] theorem State.logOn_poison (s : State) (cls unit kind lid target : Nat) (w2 w3 tval : Word) : (s.logOn cls unit kind lid target w2 w3 tval).poison = s.poison := rfl
@[simp] theorem State.logOn_olds (s : State) (cls unit kind lid target : Nat) (w2 w3 tval : Word) : (s.logOn cls unit kind lid target w2 w3 tval).olds = s.olds := rfl
@[simp] theorem State.logOn_cores (s : State) (cls unit kind lid target : Nat) (w2 w3 tval : Word) : (s.logOn cls unit kind lid target w2 w3 tval).cores = s.cores := rfl
@[simp] theorem State.logOn_clusters (s : State) (cls unit kind lid target : Nat) (w2 w3 tval : Word) : (s.logOn cls unit kind lid target w2 w3 tval).clusters = s.clusters := rfl
@[simp] theorem State.logOn_pkg (s : State) (cls unit kind lid target : Nat) (w2 w3 tval : Word) : (s.logOn cls unit kind lid target w2 w3 tval).pkg = s.pkg := rfl
@[simp] theorem State.logOn_domain (s : State) (cls unit kind lid target : Nat) (w2 w3 tval : Word) : (s.logOn cls unit kind lid target w2 w3 tval).domain = s.domain := rfl
@[simp] theorem State.logOn_vdns (s : State) (cls unit kind lid target : Nat) (w2 w3 tval : Word) : (s.logOn cls unit kind lid target w2 w3 tval).vdns = s.vdns := rfl
@[simp] theorem State.logOn_ptc (s : State) (cls unit kind lid target : Nat) (w2 w3 tval : Word) : (s.logOn cls unit kind lid target w2 w3 tval).ptc = s.ptc := rfl
@[simp] theorem State.logOn_rate (s : State) (cls unit kind lid target : Nat) (w2 w3 tval : Word) : (s.logOn cls unit kind lid target w2 w3 tval).rate = s.rate := rfl
@[simp] theorem State.logOn_joined (s : State) (cls unit kind lid target : Nat) (w2 w3 tval : Word) : (s.logOn cls unit kind lid target w2 w3 tval).joined = s.joined := rfl
@[simp] theorem State.logOn_cycles (s : State) (cls unit kind lid target : Nat) (w2 w3 tval : Word) : (s.logOn cls unit kind lid target w2 w3 tval).cycles = s.cycles := rfl
@[simp] theorem State.logOn_launches (s : State) (cls unit kind lid target : Nat) (w2 w3 tval : Word) : (s.logOn cls unit kind lid target w2 w3 tval).launches = s.launches := rfl
@[simp] theorem State.logOn_classQ (s : State) (cls unit kind lid target : Nat) (w2 w3 tval : Word) : (s.logOn cls unit kind lid target w2 w3 tval).classQ = s.classQ := rfl
@[simp] theorem State.logOn_records (s : State) (cls unit kind lid target : Nat) (w2 w3 tval : Word) : (s.logOn cls unit kind lid target w2 w3 tval).records = s.records := rfl
@[simp] theorem State.logOn_posts (s : State) (cls unit kind lid target : Nat) (w2 w3 tval : Word) : (s.logOn cls unit kind lid target w2 w3 tval).posts = s.posts := rfl
@[simp] theorem State.logOn_endpoint (s : State) (cls unit kind lid target : Nat) (w2 w3 tval : Word) : (s.logOn cls unit kind lid target w2 w3 tval).endpoint = s.endpoint := rfl
@[simp] theorem State.logOn_controls (s : State) (cls unit kind lid target : Nat) (w2 w3 tval : Word) : (s.logOn cls unit kind lid target w2 w3 tval).controls = s.controls := rfl
@[simp] theorem State.logOn_windows (s : State) (cls unit kind lid target : Nat) (w2 w3 tval : Word) : (s.logOn cls unit kind lid target w2 w3 tval).windows = s.windows := rfl
@[simp] theorem State.logOn_hostHeld (s : State) (cls unit kind lid target : Nat) (w2 w3 tval : Word) : (s.logOn cls unit kind lid target w2 w3 tval).hostHeld = s.hostHeld := rfl
@[simp] theorem State.logOn_hostOut (s : State) (cls unit kind lid target : Nat) (w2 w3 tval : Word) : (s.logOn cls unit kind lid target w2 w3 tval).hostOut = s.hostOut := rfl
@[simp] theorem State.logOn_net (s : State) (cls unit kind lid target : Nat) (w2 w3 tval : Word) : (s.logOn cls unit kind lid target w2 w3 tval).net = s.net := rfl
@[simp] theorem State.logOn_netOut (s : State) (cls unit kind lid target : Nat) (w2 w3 tval : Word) : (s.logOn cls unit kind lid target w2 w3 tval).netOut = s.netOut := rfl
@[simp] theorem State.logOn_applied (s : State) (cls unit kind lid target : Nat) (w2 w3 tval : Word) : (s.logOn cls unit kind lid target w2 w3 tval).applied = s.applied := rfl
@[simp] theorem State.logOn_flitsOut (s : State) (cls unit kind lid target : Nat) (w2 w3 tval : Word) : (s.logOn cls unit kind lid target w2 w3 tval).flitsOut = s.flitsOut := rfl
@[simp] theorem State.logOn_farVdns (s : State) (cls unit kind lid target : Nat) (w2 w3 tval : Word) : (s.logOn cls unit kind lid target w2 w3 tval).farVdns = s.farVdns := rfl
@[simp] theorem State.logOn_layerKinds (s : State) (cls unit kind lid target : Nat) (w2 w3 tval : Word) : (s.logOn cls unit kind lid target w2 w3 tval).layerKinds = s.layerKinds := rfl
@[simp] theorem State.logOn_reqSeq (s : State) (cls unit kind lid target : Nat) (w2 w3 tval : Word) : (s.logOn cls unit kind lid target w2 w3 tval).reqSeq = s.reqSeq := rfl
@[simp] theorem State.logOn_endSeq (s : State) (cls unit kind lid target : Nat) (w2 w3 tval : Word) : (s.logOn cls unit kind lid target w2 w3 tval).endSeq = s.endSeq := rfl
@[simp] theorem State.logOn_dropped (s : State) (cls unit kind lid target : Nat) (w2 w3 tval : Word) : (s.logOn cls unit kind lid target w2 w3 tval).dropped = s.dropped := rfl
@[simp] theorem State.logOn_registeredOnce (s : State) (cls unit kind lid target : Nat) (w2 w3 tval : Word) : (s.logOn cls unit kind lid target w2 w3 tval).registeredOnce = s.registeredOnce := rfl
@[simp] theorem State.logOn_tierWays (s : State) (cls unit kind lid target : Nat) (w2 w3 tval : Word) : (s.logOn cls unit kind lid target w2 w3 tval).tierWays = s.tierWays := rfl
@[simp] theorem State.logOn_tierCounts (s : State) (cls unit kind lid target : Nat) (w2 w3 tval : Word) : (s.logOn cls unit kind lid target w2 w3 tval).tierCounts = s.tierCounts := rfl
@[simp] theorem State.logOn_lost (s : State) (cls unit kind lid target : Nat) (w2 w3 tval : Word) : (s.logOn cls unit kind lid target w2 w3 tval).lost = s.lost := rfl
@[simp] theorem State.logOn_corrected (s : State) (cls unit kind lid target : Nat) (w2 w3 tval : Word) : (s.logOn cls unit kind lid target w2 w3 tval).corrected = s.corrected := rfl
@[simp] theorem State.logOn_flitErrors (s : State) (cls unit kind lid target : Nat) (w2 w3 tval : Word) : (s.logOn cls unit kind lid target w2 w3 tval).flitErrors = s.flitErrors := rfl
@[simp] theorem State.logOn_gangReady (s : State) (cls unit kind lid target : Nat) (w2 w3 tval : Word) : (s.logOn cls unit kind lid target w2 w3 tval).gangReady = s.gangReady := rfl
@[simp] theorem State.logOn_gangOut (s : State) (cls unit kind lid target : Nat) (w2 w3 tval : Word) : (s.logOn cls unit kind lid target w2 w3 tval).gangOut = s.gangOut := rfl
@[simp] theorem State.logOn_gangStart (s : State) (cls unit kind lid target : Nat) (w2 w3 tval : Word) : (s.logOn cls unit kind lid target w2 w3 tval).gangStart = s.gangStart := rfl
@[simp] theorem State.logOn_slices (s : State) (cls unit kind lid target : Nat) (w2 w3 tval : Word) : (s.logOn cls unit kind lid target w2 w3 tval).slices = s.slices := rfl
@[simp] theorem State.logOn_freezes (s : State) (cls unit kind lid target : Nat) (w2 w3 tval : Word) : (s.logOn cls unit kind lid target w2 w3 tval).freezes = s.freezes := rfl
@[simp] theorem State.logOn_releases (s : State) (cls unit kind lid target : Nat) (w2 w3 tval : Word) : (s.logOn cls unit kind lid target w2 w3 tval).releases = s.releases := rfl
@[simp] theorem State.logOn_frozenLids (s : State) (cls unit kind lid target : Nat) (w2 w3 tval : Word) : (s.logOn cls unit kind lid target w2 w3 tval).frozenLids = s.frozenLids := rfl
@[simp] theorem State.logOn_lines (s : State) (cls unit kind lid target : Nat) (w2 w3 tval : Word) : (s.logOn cls unit kind lid target w2 w3 tval).lines = s.lines := rfl
@[simp] theorem State.logOn_tiles (s : State) (cls unit kind lid target : Nat) (w2 w3 tval : Word) : (s.logOn cls unit kind lid target w2 w3 tval).tiles = s.tiles := rfl
@[simp] theorem State.logOn_links (s : State) (cls unit kind lid target : Nat) (w2 w3 tval : Word) : (s.logOn cls unit kind lid target w2 w3 tval).links = s.links := rfl
@[simp] theorem State.logOn_budgets (s : State) (cls unit kind lid target : Nat) (w2 w3 tval : Word) : (s.logOn cls unit kind lid target w2 w3 tval).budgets = s.budgets := rfl
@[simp] theorem State.logOn_left (s : State) (cls unit kind lid target : Nat) (w2 w3 tval : Word) : (s.logOn cls unit kind lid target w2 w3 tval).left = s.left := rfl
@[simp] theorem State.logOn_throttled (s : State) (cls unit kind lid target : Nat) (w2 w3 tval : Word) : (s.logOn cls unit kind lid target w2 w3 tval).throttled = s.throttled := rfl
@[simp] theorem State.logOn_hot (s : State) (cls unit kind lid target : Nat) (w2 w3 tval : Word) : (s.logOn cls unit kind lid target w2 w3 tval).hot = s.hot := rfl
@[simp] theorem State.logOn_held (s : State) (cls unit kind lid target : Nat) (w2 w3 tval : Word) : (s.logOn cls unit kind lid target w2 w3 tval).held = s.held := rfl
@[simp] theorem State.logOn_inReset (s : State) (cls unit kind lid target : Nat) (w2 w3 tval : Word) : (s.logOn cls unit kind lid target w2 w3 tval).inReset = s.inReset := rfl
@[simp] theorem State.logOn_resets (s : State) (cls unit kind lid target : Nat) (w2 w3 tval : Word) : (s.logOn cls unit kind lid target w2 w3 tval).resets = s.resets := rfl
@[simp] theorem State.logOn_focus (s : State) (cls unit kind lid target : Nat) (w2 w3 tval : Word) : (s.logOn cls unit kind lid target w2 w3 tval).focus = s.focus := rfl
@[simp] theorem State.logOn_active (s : State) (cls unit kind lid target : Nat) (w2 w3 tval : Word) : (s.logOn cls unit kind lid target w2 w3 tval).active = s.active := rfl
@[simp] theorem State.logOn_turns (s : State) (cls unit kind lid target : Nat) (w2 w3 tval : Word) : (s.logOn cls unit kind lid target w2 w3 tval).turns = s.turns := rfl
@[simp] theorem State.logOn_agenda (s : State) (cls unit kind lid target : Nat) (w2 w3 tval : Word) : (s.logOn cls unit kind lid target w2 w3 tval).agenda = s.agenda := rfl
@[simp] theorem State.logOn_free (s : State) (cls unit kind lid target : Nat) (w2 w3 tval : Word) : (s.logOn cls unit kind lid target w2 w3 tval).free = s.free := rfl

@[simp] theorem State.pop_cons_agenda (s : State) (e : Event) (r : List Event) (h : s.agenda = e :: r) :
    s.pop.agenda = r := by simp [State.pop, h]

/-! ### Cores, clusters and contexts -/

theorem State.core_setCore (s : State) (k j : Nat) (x : Core) :
    (s.setCore k x).core j = if j = k then x else s.core j := SMap.get_set _ _ _ _ _

@[simp] theorem State.core_setCore_self (s : State) (k : Nat) (x : Core) : (s.setCore k x).core k = x := by
  simp [State.core_setCore]

theorem State.core_updCore (s : State) (k j : Nat) (f : Core → Core) :
    (s.updCore k f).core j = if j = k then f (s.core k) else s.core j := State.core_setCore _ _ _ _

@[simp] theorem State.core_updCore_self (s : State) (k : Nat) (f : Core → Core) :
    (s.updCore k f).core k = f (s.core k) := by simp [State.core_updCore]

@[simp] theorem State.core_setCluster (s : State) (k j : Nat) (x : Cluster) :
    (s.setCluster k x).core j = s.core j := rfl

@[simp] theorem State.core_updCluster (s : State) (k j : Nat) (f : Cluster → Cluster) :
    (s.updCluster k f).core j = s.core j := rfl

theorem State.cluster_setCluster (s : State) (k j : Nat) (x : Cluster) :
    (s.setCluster k x).cluster j = if j = k then x else s.cluster j := SMap.get_set _ _ _ _ _

@[simp] theorem State.cluster_setCluster_self (s : State) (k : Nat) (x : Cluster) :
    (s.setCluster k x).cluster k = x := by simp [State.cluster_setCluster]

theorem State.cluster_updCluster (s : State) (k j : Nat) (f : Cluster → Cluster) :
    (s.updCluster k f).cluster j = if j = k then f (s.cluster k) else s.cluster j := State.cluster_setCluster _ _ _ _

@[simp] theorem State.cluster_updCluster_self (s : State) (k : Nat) (f : Cluster → Cluster) :
    (s.updCluster k f).cluster k = f (s.cluster k) := by simp [State.cluster_updCluster]

@[simp] theorem State.cluster_setCore (s : State) (k j : Nat) (x : Core) :
    (s.setCore k x).cluster j = s.cluster j := rfl

@[simp] theorem State.cluster_updCore (s : State) (k j : Nat) (f : Core → Core) :
    (s.updCore k f).cluster j = s.cluster j := rfl

@[simp] theorem State.cluster_setCtx (s : State) (k c j : Nat) (x : Ctx) :
    (s.setCtx k c x).cluster j = s.cluster j := rfl

@[simp] theorem State.cluster_updCtx (s : State) (k c j : Nat) (f : Ctx → Ctx) :
    (s.updCtx k c f).cluster j = s.cluster j := rfl

@[simp] theorem State.cluster_setMe (s : State) (j : Nat) (x : Ctx) : (s.setMe x).cluster j = s.cluster j := rfl

@[simp] theorem State.cluster_done (s : State) (stl : Stall) (f : Ctx → Ctx) (j : Nat) :
    (s.done stl f).cluster j = s.cluster j := rfl

@[simp] theorem State.ctx_setCluster (s : State) (j k c : Nat) (x : Cluster) :
    (s.setCluster j x).ctx k c = s.ctx k c := rfl

@[simp] theorem State.ctx_updCluster (s : State) (j k c : Nat) (f : Cluster → Cluster) :
    (s.updCluster j f).ctx k c = s.ctx k c := rfl

@[simp] theorem State.me_updCluster (s : State) (j : Nat) (f : Cluster → Cluster) : (s.updCluster j f).me = s.me := rfl

@[simp] theorem State.me_logOn (s : State) (cls unit kind lid target : Nat) (w2 w3 tval : Word) :
    (s.logOn cls unit kind lid target w2 w3 tval).me = s.me := rfl

theorem State.ctx_setCtx (s : State) (k c j d : Nat) (x : Ctx) :
    (s.setCtx k c x).ctx j d = if j = k ∧ d = c then x else s.ctx j d := by
  unfold State.setCtx State.ctx
  rw [State.core_updCore]
  by_cases hj : j = k
  · subst j; simp [SMap.get_set]
  · simp [hj]

@[simp] theorem State.ctx_setCtx_self (s : State) (k c : Nat) (x : Ctx) : (s.setCtx k c x).ctx k c = x := by
  simp [State.ctx_setCtx]

theorem State.ctx_updCtx (s : State) (k c j d : Nat) (f : Ctx → Ctx) :
    (s.updCtx k c f).ctx j d = if j = k ∧ d = c then f (s.ctx k c) else s.ctx j d := State.ctx_setCtx _ _ _ _ _ _

@[simp] theorem State.ctx_updCtx_self (s : State) (k c : Nat) (f : Ctx → Ctx) :
    (s.updCtx k c f).ctx k c = f (s.ctx k c) := by simp [State.ctx_updCtx]

@[simp] theorem State.me_setMe (s : State) (x : Ctx) : (s.setMe x).me = x := State.ctx_setCtx_self s _ _ x

theorem State.ctx_setMe (s : State) (x : Ctx) (j d : Nat) :
    (s.setMe x).ctx j d = if j = s.focus ∧ d = s.active then x else s.ctx j d := State.ctx_setCtx _ _ _ _ _ _

@[simp] theorem State.me_done (s : State) (stl : Stall) (f : Ctx → Ctx) : (s.done stl f).me = (f s.me).next stl :=
  State.me_setMe s _

/-- A context's update leaves every other part of every core. -/
theorem State.core_setCtx (s : State) (k c j : Nat) (x : Ctx) :
    (s.setCtx k c x).core j = if j = k then { s.core k with ctxs := (s.core k).ctxs.set c x } else s.core j :=
  State.core_updCore _ _ _ _

@[simp] theorem State.pad_setCtx (s : State) (k c j : Nat) (x : Ctx) :
    ((s.setCtx k c x).core j).pad = (s.core j).pad := by
  rw [State.core_setCtx]; split <;> simp [*]

@[simp] theorem State.pad_updCtx (s : State) (k c j : Nat) (f : Ctx → Ctx) :
    ((s.updCtx k c f).core j).pad = (s.core j).pad := State.pad_setCtx _ _ _ _ _

@[simp] theorem State.pad_setMe (s : State) (j : Nat) (x : Ctx) : ((s.setMe x).core j).pad = (s.core j).pad :=
  State.pad_setCtx _ _ _ _ _

@[simp] theorem State.pad_done (s : State) (stl : Stall) (f : Ctx → Ctx) (j : Nat) :
    ((s.done stl f).core j).pad = (s.core j).pad := State.pad_setMe _ _ _

/-! ### Registers -/

@[simp] theorem Ctx.rx_zero (c : Ctx) : c.rx 0 = 0 := rfl
@[simp] theorem Ctx.rm_zero (c : Ctx) : c.rm 0 = 0xFFFF := rfl

theorem Ctx.rx_setX (c : Ctx) (n j : Nat) (v : Word) :
    (c.setX n v).rx j = if j = n ∧ n ≠ 0 then v else c.rx j := by
  unfold Ctx.setX Ctx.rx
  by_cases hn : n = 0
  · simp [hn]
  · by_cases hj : j = n
    · subst j; simp [hn]
    · by_cases h0 : j = 0
      · simp [h0, Ne.symm hn]
      · simp [hn, hj, h0, SMap.get_put_ne]

theorem Ctx.rv_setV (c : Ctx) (n j : Nat) (w : VWord) : (c.setV n w).rv j = if j = n then w else c.rv j :=
  SMap.get_put _ _ _ _ _

theorem Ctx.rm_setM (c : Ctx) (n j : Nat) (w : MWord) :
    (c.setM n w).rm j = if j = n ∧ n ≠ 0 then w else c.rm j := by
  unfold Ctx.setM Ctx.rm
  by_cases hn : n = 0
  · simp [hn]
  · by_cases hj : j = n
    · subst j; simp [hn]
    · by_cases h0 : j = 0
      · simp [h0, Ne.symm hn]
      · simp [hn, hj, h0, SMap.get_put_ne]

@[simp] theorem Ctx.rv_setX (c : Ctx) (n j : Nat) (v : Word) : (c.setX n v).rv j = c.rv j := by
  unfold Ctx.setX; split <;> rfl
@[simp] theorem Ctx.rm_setX (c : Ctx) (n j : Nat) (v : Word) : (c.setX n v).rm j = c.rm j := by
  unfold Ctx.setX; split <;> rfl
@[simp] theorem Ctx.rx_setV (c : Ctx) (n j : Nat) (w : VWord) : (c.setV n w).rx j = c.rx j := rfl
@[simp] theorem Ctx.rm_setV (c : Ctx) (n j : Nat) (w : VWord) : (c.setV n w).rm j = c.rm j := rfl
@[simp] theorem Ctx.rx_setM (c : Ctx) (n j : Nat) (w : MWord) : (c.setM n w).rx j = c.rx j := by
  unfold Ctx.setM; split <;> rfl
@[simp] theorem Ctx.rv_setM (c : Ctx) (n j : Nat) (w : MWord) : (c.setM n w).rv j = c.rv j := by
  unfold Ctx.setM; split <;> rfl

end Sys2Proof.Machine
end

