-- ==== Sys2Proof/Laws/Memory.lean ====
section
/-!
SUPPORT. The memories: reading after a write, what a write leaves alone, and that every memory operation keeps the canonical
form.
-/

namespace Sys2Proof.Machine

/-! ### Cells -/

theorem cell_put (m : List Host.Cell) (a b : Nat) (v : Byte) :
    cell (SMap.put blankByte m a v) b = if b = a then v else cell m b := SMap.get_put m a b v blankByte

/-- A byte after a write: the byte written, or what it was. -/
theorem cell_writeCells (m : List Host.Cell) (a n v b : Nat) :
    cell (writeCells m a n v) b = if a ≤ b ∧ b < a + n then BitVec.ofNat 8 (v / 256 ^ (b - a)) else cell m b := by
  induction n generalizing m a v with
  | zero => rw [if_neg (by omega)]; rfl
  | succ n ih =>
    rw [writeCells, ih, cell_put]
    by_cases h : b = a
    · subst b; rw [if_neg (by omega), if_pos rfl, if_pos (by omega)]; simp
    · rw [if_neg h]
      by_cases h' : a + 1 ≤ b ∧ b < a + 1 + n
      · rw [if_pos h', if_pos (by omega), Nat.div_div_eq_div_mul, ← Nat.pow_succ']
        congr 3; omega
      · rw [if_neg h', if_neg (by omega)]

/-- A read of bytes depends only on them. -/
theorem readCells_congr (m m' : List Host.Cell) (a n : Nat) (h : ∀ i < n, cell m (a + i) = cell m' (a + i)) :
    readCells m a n = readCells m' a n := by
  induction n generalizing a with
  | zero => rfl
  | succ n ih =>
    rw [readCells, readCells, ih (a + 1) fun i hi => by rw [Nat.add_assoc, Nat.add_comm 1 i]; exact h (i + 1) (by omega),
      show cell m a = cell m' a from h 0 (by omega)]

theorem readCells_lt (m : List Host.Cell) (a n : Nat) : readCells m a n < 256 ^ n := by
  induction n generalizing a with
  | zero => simp [readCells]
  | succ n ih => have := ih (a + 1); have := (cell m a).isLt; rw [readCells, Nat.pow_succ]; omega

/-- A read of what was written gives the low bytes of the number written. -/
theorem readCells_writeCells (m : List Host.Cell) (a n v : Nat) : readCells (writeCells m a n v) a n = v % 256 ^ n := by
  induction n generalizing m a v with
  | zero => simp [readCells, Nat.mod_one]
  | succ n ih =>
    rw [writeCells, readCells, ih, cell_writeCells, if_neg (by omega), cell_put, if_pos rfl, BitVec.toNat_ofNat,
      Nat.pow_succ' (n := n) (m := 256)]
    exact (Nat.mod_mul (x := v) (a := 256) (b := 256 ^ n)).symm

/-- A read outside what was written gives what it gave before. -/
theorem readCells_writeCells_apart (m : List Host.Cell) (a n v b k : Nat) (h : b + k ≤ a ∨ a + n ≤ b) :
    readCells (writeCells m a n v) b k = readCells m b k :=
  readCells_congr _ _ _ _ fun i hi => by rw [cell_writeCells, if_neg (by omega)]

/-- A write keeps the canonical form. -/
theorem cellsWf_writeCells (m : List Host.Cell) (a n v : Nat) (h : cellsWf m = true) : cellsWf (writeCells m a n v) = true := by
  induction n generalizing m a v with
  | zero => exact h
  | succ n ih => exact ih _ _ _ (SMap.wf_put blankByte m a _ h)

/-! ### Package memory and scratchpads -/

/-- A change of a core that leaves its scratchpad alone leaves every scratchpad alone. -/
theorem State.pad_updCore (s : State) (k j : Nat) (f : Core → Core) (h : (f (s.core k)).pad = (s.core k).pad) :
    ((s.updCore k f).core j).pad = (s.core j).pad := by
  rw [State.core_updCore]; split
  · subst j; exact h
  · rfl

theorem State.core_mapVal (s : State) (f : Nat → Core → Core) (k : Nat)
    (hf : ∀ j co, (f j co).pad = co.pad) : (({ s with cores := s.cores.mapVal f } : State).core k).pad = (s.core k).pad := by
  unfold State.core SMap.get
  rw [show ({ s with cores := s.cores.mapVal f } : State).cores = s.cores.mapVal f from rfl, SMap.find?_mapVal]
  cases s.cores.find? k <;> simp [hf]

@[simp] theorem State.breakLine_mem (s : State) (l : Nat) (b : Option (Nat × Nat)) : (s.breakLine l b).mem = s.mem := rfl
@[simp] theorem State.breakLine_clusters (s : State) (l : Nat) (b : Option (Nat × Nat)) :
    (s.breakLine l b).clusters = s.clusters := rfl
@[simp] theorem State.breakLine_lines (s : State) (l : Nat) (b : Option (Nat × Nat)) : (s.breakLine l b).lines = s.lines := rfl
@[simp] theorem State.breakLine_pad (s : State) (l : Nat) (b : Option (Nat × Nat)) (k : Nat) :
    ((s.breakLine l b).core k).pad = (s.core k).pad := s.core_mapVal _ k fun _ _ => rfl

@[simp] theorem State.memWrite_mem (s : State) (h : Nat) (who : Option (Nat × Nat)) (a n v : Nat) :
    (s.memWrite h who a n v).mem = writeCells s.mem a n v := rfl
@[simp] theorem State.memWrite_clusters (s : State) (h : Nat) (who : Option (Nat × Nat)) (a n v : Nat) :
    (s.memWrite h who a n v).clusters = s.clusters := rfl
@[simp] theorem State.memWrite_agenda (s : State) (h : Nat) (who : Option (Nat × Nat)) (a n v : Nat) :
    (s.memWrite h who a n v).agenda = s.agenda := rfl
@[simp] theorem State.memWrite_tiles (s : State) (h : Nat) (who : Option (Nat × Nat)) (a n v : Nat) :
    (s.memWrite h who a n v).tiles = s.tiles := rfl
@[simp] theorem State.memWrite_pad (s : State) (h : Nat) (who : Option (Nat × Nat)) (a n v k : Nat) :
    ((s.memWrite h who a n v).core k).pad = (s.core k).pad :=
  State.breakLine_pad { s with mem := writeCells s.mem a n v, poison := unpoison s.poison a n, olds := oldsApart s.olds a n } _ _ _

/-- All that a write to package memory does to memory. -/
theorem State.memWrite_spec (s : State) (h : Nat) (who : Option (Nat × Nat)) (a n v : Nat) :
    (s.memWrite h who a n v).memRead a n = v % 256 ^ n ∧ s.SameMemBut (s.memWrite h who a n v) a n ∧
      s.SamePads (s.memWrite h who a n v) :=
  ⟨readCells_writeCells _ _ _ _,
    fun b hb => by rw [State.memWrite_mem, cell_writeCells, if_neg (by omega)],
    fun k b => by rw [State.memWrite_pad]⟩

@[simp] theorem State.padWrite_mem (s : State) (k off n v : Nat) : (s.padWrite k off n v).mem = s.mem := rfl
@[simp] theorem State.padWrite_clusters (s : State) (k off n v : Nat) : (s.padWrite k off n v).clusters = s.clusters := rfl
@[simp] theorem State.padWrite_lines (s : State) (k off n v : Nat) : (s.padWrite k off n v).lines = s.lines := rfl
theorem State.padWrite_pad (s : State) (k off n v j : Nat) :
    ((s.padWrite k off n v).core j).pad = if j = k then writeCells (s.core k).pad off n v else (s.core j).pad := by
  have e : (s.padWrite k off n v).core j =
      (s.updCore k fun co => { co with pad := writeCells co.pad off n v, padPoison := unpoison co.padPoison off n }).core j := rfl
  rw [e, State.core_updCore]; split <;> rfl

/-- All that a write to a scratchpad does to memory. -/
theorem State.padWrite_spec (s : State) (k off n v : Nat) :
    (s.padWrite k off n v).padRead k off n = v % 256 ^ n ∧ s.SameMem (s.padWrite k off n v) ∧
      s.SamePadsBut (s.padWrite k off n v) k off n := by
  refine ⟨?_, fun _ => rfl, fun j b hb => ?_⟩
  · unfold State.padRead; rw [State.padWrite_pad, if_pos rfl]; exact readCells_writeCells _ _ _ _
  · rw [State.padWrite_pad]; split
    · subst j; rw [cell_writeCells, if_neg (by omega)]
    · rfl

/-! ### A write that leaves what it replaced to be found (R263, R282, R283) -/

@[simp] theorem State.aged_mem (s : State) (o : OldWrite) (bad : Bool) : (s.aged o bad).mem = s.mem := rfl
@[simp] theorem State.aged_cores (s : State) (o : OldWrite) (bad : Bool) : (s.aged o bad).cores = s.cores := rfl
@[simp] theorem State.aged_clusters (s : State) (o : OldWrite) (bad : Bool) : (s.aged o bad).clusters = s.clusters := rfl
@[simp] theorem State.aged_lines (s : State) (o : OldWrite) (bad : Bool) : (s.aged o bad).lines = s.lines := rfl
@[simp] theorem State.aged_agenda (s : State) (o : OldWrite) (bad : Bool) : (s.aged o bad).agenda = s.agenda := rfl
@[simp] theorem State.aged_me (s : State) (o : OldWrite) (bad : Bool) : (s.aged o bad).me = s.me := rfl
@[simp] theorem State.ordered_mem (s : State) (src dst : BitVec 6) : (s.ordered src dst).mem = s.mem := rfl
@[simp] theorem State.ordered_cores (s : State) (src dst : BitVec 6) : (s.ordered src dst).cores = s.cores := rfl
@[simp] theorem State.ordered_clusters (s : State) (src dst : BitVec 6) : (s.ordered src dst).clusters = s.clusters := rfl
@[simp] theorem State.ordered_lines (s : State) (src dst : BitVec 6) : (s.ordered src dst).lines = s.lines := rfl
@[simp] theorem State.ordered_me (s : State) (src dst : BitVec 6) : (s.ordered src dst).me = s.me := rfl

/-- All that a store of the issuing context does to package memory and to the scratchpads. -/
theorem State.lsWrite_spec (s : State) (h a n v : Nat) (thru : Option Nat) :
    (s.lsWrite h a n v thru).memRead a n = v % 256 ^ n ∧ s.SameMemBut (s.lsWrite h a n v thru) a n ∧
      s.SamePads (s.lsWrite h a n v thru) :=
  ⟨readCells_writeCells _ _ _ _,
    fun b hb => (cell_writeCells s.mem a n v b).trans (if_neg (by omega)),
    fun k b => by
      have e : ((s.lsWrite h a n v thru).core k).pad = (s.core k).pad :=
        State.breakLine_pad { s with mem := writeCells s.mem a n v, poison := unpoison s.poison a n, olds := oldsApart s.olds a n } _ _ _
      rw [e]⟩

/-- All that a store of the issuing context to a scratchpad does to package memory and to the scratchpads. -/
theorem State.lsPad_spec (s : State) (k off n v : Nat) :
    (s.lsPad k off n v).padRead k off n = v % 256 ^ n ∧ s.SameMem (s.lsPad k off n v) ∧ s.SamePadsBut (s.lsPad k off n v) k off n :=
  s.padWrite_spec k off n v

/-! ### What keeps the canonical form -/

/-- A change that leaves memory, the scratchpads and the saved scratchpads alone. -/
def State.KeepsStores (s t : State) : Prop :=
  t.mem = s.mem ∧ (∀ k, (t.core k).pad = (s.core k).pad) ∧
    ∀ cl, ∀ c ∈ (t.cluster cl).coaches, ∀ p ∈ c.saved.pads, ∃ cl', ∃ c' ∈ (s.cluster cl').coaches, p ∈ c'.saved.pads

theorem State.KeepsStores.refl (s : State) : s.KeepsStores s :=
  ⟨rfl, fun _ => rfl, fun cl c hc _ hp => ⟨cl, c, hc, hp⟩⟩

theorem State.KeepsStores.trans {s t u : State} (h : s.KeepsStores t) (g : t.KeepsStores u) : s.KeepsStores u := by
  refine ⟨g.1.trans h.1, fun k => (g.2.1 k).trans (h.2.1 k), fun cl c hc p hp => ?_⟩
  obtain ⟨cl', c', hc', hp'⟩ := g.2.2 cl c hc p hp
  exact h.2.2 cl' c' hc' p hp'

/-- A change of the fields besides memory, cores and clusters. -/
theorem State.KeepsStores.of_fields {s t : State} (hm : t.mem = s.mem) (hc : t.cores = s.cores) (hk : t.clusters = s.clusters) :
    s.KeepsStores t := by
  refine ⟨hm, fun k => by unfold State.core; rw [hc], fun cl c h _ hp => ⟨cl, c, ?_, hp⟩⟩
  unfold State.cluster at *; rw [← hk]; exact h

theorem State.KeepsStores.wf {s t : State} (h : s.KeepsStores t) (hs : s.StoresWf) : t.StoresWf := by
  refine ⟨by rw [h.1]; exact hs.1, fun k => by rw [h.2.1]; exact hs.2.1 k, fun cl c hc p hp => ?_⟩
  obtain ⟨cl', c', hc', hp'⟩ := h.2.2 cl c hc p hp
  exact hs.2.2 cl' c' hc' p hp'

theorem State.keepsStores_updCore (s : State) (k : Nat) (f : Core → Core) (h : (f (s.core k)).pad = (s.core k).pad) :
    s.KeepsStores (s.updCore k f) :=
  ⟨rfl, fun j => s.pad_updCore k j f h, fun cl c hc _ hp => ⟨cl, c, hc, hp⟩⟩

theorem State.keepsStores_setMe (s : State) (x : Ctx) : s.KeepsStores (s.setMe x) := s.keepsStores_updCore _ _ rfl

theorem State.keepsStores_setCtx (s : State) (k c : Nat) (x : Ctx) : s.KeepsStores (s.setCtx k c x) :=
  s.keepsStores_updCore _ _ rfl

/-- A change of a cluster whose coaches save no scratchpad that was not saved before. -/
theorem State.keepsStores_updCluster (s : State) (k : Nat) (f : Cluster → Cluster)
    (h : ∀ c ∈ (f (s.cluster k)).coaches, ∀ p ∈ c.saved.pads, ∃ c' ∈ (s.cluster k).coaches, p ∈ c'.saved.pads) :
    s.KeepsStores (s.updCluster k f) := by
  refine ⟨rfl, fun _ => rfl, fun cl c hc p hp => ?_⟩
  rw [State.cluster_updCluster] at hc
  split at hc
  · obtain ⟨c', hc', hp'⟩ := h c hc p hp; exact ⟨k, c', hc', hp'⟩
  · exact ⟨cl, c, hc, hp⟩

theorem State.storesWf_memWrite (s : State) (h : Nat) (who : Option (Nat × Nat)) (a n v : Nat) (hs : s.StoresWf) :
    (s.memWrite h who a n v).StoresWf :=
  ⟨cellsWf_writeCells _ _ _ _ hs.1, fun k => by rw [State.memWrite_pad]; exact hs.2.1 k, hs.2.2⟩

theorem State.storesWf_padWrite (s : State) (k off n v : Nat) (hs : s.StoresWf) : (s.padWrite k off n v).StoresWf := by
  refine ⟨hs.1, fun j => ?_, hs.2.2⟩
  rw [State.padWrite_pad]; split
  · exact cellsWf_writeCells _ _ _ _ (hs.2.1 k)
  · exact hs.2.1 j

/-- A fold of changes that each keep a property keeps it. -/
theorem foldl_keeps {α β : Type} (P : β → Prop) (f : β → α → β) (h : ∀ b a, P b → P (f b a)) (l : List α) (b : β) (hb : P b) :
    P (l.foldl f b) := by
  induction l generalizing b with
  | nil => exact hb
  | cons a l ih => exact ih _ (h b a hb)

end Sys2Proof.Machine
end

