-- ==== Sys2Proof/Laws/Reads.lean ====
section
/-!
SUPPORT. What the reads that a stream has issued can change (R172; log 6): no byte of memory or of a scratchpad, no other context, and
of the issuing context only what has been fetched. And what an access of an engine's class finds where no write is unordered.
-/

namespace Sys2Proof.Machine

/-! ### A near read changes lines, TLBs and the free counter only -/

/-- A change that no context, memory, scratchpad or cluster sees. -/
def State.Quiet (s t : State) : Prop :=
  t.mem = s.mem ∧ t.clusters = s.clusters ∧ t.agenda = s.agenda ∧ t.focus = s.focus ∧ t.active = s.active ∧
    (∀ k, (t.core k).pad = (s.core k).pad) ∧ ∀ k c, t.ctx k c = s.ctx k c

theorem State.Quiet.refl (s : State) : s.Quiet s := ⟨rfl, rfl, rfl, rfl, rfl, fun _ => rfl, fun _ _ => rfl⟩

theorem State.Quiet.trans {s t u : State} (h : s.Quiet t) (g : t.Quiet u) : s.Quiet u :=
  ⟨g.1.trans h.1, g.2.1.trans h.2.1, g.2.2.1.trans h.2.2.1, g.2.2.2.1.trans h.2.2.2.1, g.2.2.2.2.1.trans h.2.2.2.2.1,
    fun k => (g.2.2.2.2.2.1 k).trans (h.2.2.2.2.2.1 k), fun k c => (g.2.2.2.2.2.2 k c).trans (h.2.2.2.2.2.2 k c)⟩

theorem State.Quiet.me {s t : State} (h : s.Quiet t) : t.me = s.me := by
  unfold State.me; rw [h.2.2.2.1, h.2.2.2.2.1]; exact h.2.2.2.2.2.2 _ _

theorem State.quiet_of_cores {s t : State} (hm : t.mem = s.mem) (hk : t.clusters = s.clusters) (ha : t.agenda = s.agenda)
    (hf : t.focus = s.focus) (hc : t.active = s.active) (hco : t.cores = s.cores) : s.Quiet t := by
  refine ⟨hm, hk, ha, hf, hc, fun k => ?_, fun k c => ?_⟩
  · unfold State.core; rw [hco]
  · unfold State.ctx State.core; rw [hco]

theorem State.quiet_takeLine (s : State) (h n : Nat) (f : Line → Line) (but : List Nat) : s.Quiet (s.takeLine h n f but) :=
  State.quiet_of_cores rfl rfl rfl rfl rfl rfl

theorem State.quiet_tokenRead (s : State) (k a : Nat) : s.Quiet (s.tokenRead k a) := s.quiet_takeLine _ _ _ _

theorem State.quiet_setCore (s : State) (k : Nat) (x : Core) (hp : x.pad = (s.core k).pad) (hc : x.ctxs = (s.core k).ctxs) :
    s.Quiet (s.setCore k x) := by
  refine ⟨rfl, rfl, rfl, rfl, rfl, fun j => ?_, fun j c => ?_⟩
  · rw [State.core_setCore]; split
    · subst j; exact hp
    · rfl
  · unfold State.ctx; rw [State.core_setCore]; split
    · subst j; rw [hc]
    · rfl

theorem State.quiet_tlbCopy (s : State) (k : Nat) (asid : BitVec 13) (a : Word) : s.Quiet (s.tlbCopy k asid a) := by
  unfold State.tlbCopy
  simp only
  split
  · exact .refl s
  · split
    · exact .refl s
    · generalize hx : ({ s.core k with tlb := _ } : Core) = x
      exact (s.quiet_setCore k x (by rw [← hx]) (by rw [← hx])).trans (State.quiet_of_cores rfl rfl rfl rfl rfl rfl)

theorem State.quiet_noteRead (s : State) (a : Word) (p : Place) : s.Quiet (s.noteRead a p) := by
  cases p <;> first
    | exact (s.quiet_tlbCopy _ _ _).trans (State.quiet_tokenRead _ _ _)
    | exact s.quiet_tlbCopy _ _ _
    | exact .refl s

/-- A read that gives a value changes nothing that a context or a memory holds (R111). -/
theorem State.readPlace_quiet {s t : State} {a : Word} {n j v : Nat} {p : Place} (h : s.readPlace a n j p = .val v t) : s.Quiet t := by
  unfold State.readPlace at h
  cases p <;> simp only at h <;> repeat' split at h
  all_goals first
    | (cases h; first | exact .refl s | exact s.quiet_noteRead _ _)
    | contradiction

theorem State.readElems_quiet {n : Nat} (l : List (Nat × Word × Place)) {s t : State} {j : Nat} {v : List (Nat × Nat)}
    (h : s.readElems n j l = .vals v t) : s.Quiet t := by
  induction l generalizing s t j v with
  | nil => cases h; exact .refl s
  | cons e l ih =>
    obtain ⟨e, a, p⟩ := e
    unfold State.readElems at h
    split at h
    · contradiction
    · rename_i hp
      split at h
      · contradiction
      · rename_i hr
        cases h
        exact (State.readPlace_quiet hp).trans (ih hr)

theorem State.fetchVec_quiet {s t : State} {x : Stream} {i : Nat} {w : VWord} {g : Bool} (h : s.fetchVec x i = some (w, g, t)) :
    s.Quiet t := by
  unfold State.fetchVec at h
  simp only at h
  repeat' split at h
  all_goals first
    | contradiction
    | (rename_i hv; cases h; exact State.readElems_quiet _ hv)

/-! ### The reads that an access follows -/

/-- Memory, scratchpads, clusters and every context but the issuing one are as before, and of that one only what has been fetched. -/
def State.OnlyFetches (s t : State) : Prop :=
  t.mem = s.mem ∧ t.clusters = s.clusters ∧ t.agenda = s.agenda ∧ t.focus = s.focus ∧ t.active = s.active ∧
    (∀ k, (t.core k).pad = (s.core k).pad) ∧ s.SameCtxsBut t s.focus s.active ∧ s.me.SameButFetched t.me

theorem Ctx.SameButFetched.refl (x : Ctx) : x.SameButFetched x := ⟨rfl, fun _ => rfl⟩

theorem Ctx.SameButFetched.trans {x y z : Ctx} (h : x.SameButFetched y) (g : y.SameButFetched z) : x.SameButFetched z := by
  refine ⟨?_, fun n => (g.2 n).trans (h.2 n)⟩
  have := h.1
  rw [← g.1] at this
  exact this

theorem State.OnlyFetches.refl (s : State) : s.OnlyFetches s :=
  ⟨rfl, rfl, rfl, rfl, rfl, fun _ => rfl, fun _ _ _ => rfl, .refl _⟩

theorem State.OnlyFetches.trans {s t u : State} (h : s.OnlyFetches t) (g : t.OnlyFetches u) : s.OnlyFetches u := by
  obtain ⟨h1, h2, h3, h4, h5, h6, h7, h8⟩ := h
  obtain ⟨g1, g2, g3, g4, g5, g6, g7, g8⟩ := g
  refine ⟨g1.trans h1, g2.trans h2, g3.trans h3, g4.trans h4, g5.trans h5, fun k => (g6 k).trans (h6 k), ?_, h8.trans g8⟩
  intro k c hkc
  exact (g7 k c (by rw [h4, h5]; exact hkc)).trans (h7 k c hkc)

theorem State.Quiet.onlyFetches {s t : State} (h : s.Quiet t) : s.OnlyFetches t :=
  ⟨h.1, h.2.1, h.2.2.1, h.2.2.2.1, h.2.2.2.2.1, h.2.2.2.2.2.1, fun k c _ => h.2.2.2.2.2.2 k c, by rw [h.me]; exact .refl _⟩

theorem State.onlyFetches_setMe (s : State) (x : Ctx) (h : s.me.SameButFetched x) : s.OnlyFetches (s.setMe x) := by
  refine ⟨rfl, rfl, rfl, rfl, rfl, fun k => s.pad_updCore _ _ _ rfl, fun k c hkc => ?_, ?_⟩
  · rw [State.ctx_setMe, if_neg (by rintro ⟨rfl, rfl⟩; simp at hkc)]
  · rw [State.me_setMe]; exact h

theorem Ctx.sameButFetched_streams (x : Ctx) (n : Nat) (t u : Stream) (h : x.streams.find? n = some t) (hb : u.bare = t.bare) :
    x.SameButFetched { x with streams := x.streams.set n u } := by
  refine ⟨rfl, fun m => ?_⟩
  rw [SMap.find?_set]
  split
  · subst m; simp [h, hb]
  · rfl

theorem State.fetchAhead_only (s : State) (n i : Nat) : s.OnlyFetches (s.fetchAhead n i) := by
  unfold State.fetchAhead
  split
  · exact .refl s
  · rename_i t ht
    split
    · exact .refl s
    · split
      · exact .refl s
      · rename_i hv
        have q := State.fetchVec_quiet hv
        refine q.onlyFetches.trans (State.onlyFetches_setMe _ _ ?_)
        exact Ctx.sameButFetched_streams _ n t _ (by rw [q.me]; exact ht) rfl

/-- Reading what the streams of the issuing context have issued changes nothing else (R172). -/
theorem State.fetchWindows_only (s : State) : s.OnlyFetches s.fetchWindows := by
  unfold State.fetchWindows
  refine foldl_keeps (fun t => s.OnlyFetches t) _ (fun t p ht => ?_) _ s (.refl s)
  exact foldl_keeps (fun t => s.OnlyFetches t) _ (fun t j ht => ht.trans (t.fetchAhead_only _ _)) _ t ht

/-- An access that follows the reads of its own locations runs at once, in the state after them (R113, R172). -/
@[simp] theorem State.after_false (s : State) (f : State → State) : s.after false f = f s.fetchWindows := rfl

/-- What follows every issued read runs after them, or the context waits for one (R172). -/
theorem State.after_cases (s : State) (all : Bool) (f : State → State) :
    (∃ t, s.readsBefore all = .on t ∧ s.after all f = f t) ∨ ∃ t, s.readsBefore all = .stop t ∧ s.after all f = t := by
  unfold State.after
  cases h : s.readsBefore all with
  | on t => exact .inl ⟨t, rfl, rfl⟩
  | stop t => exact .inr ⟨t, rfl, rfl⟩

/-! ### What an engine's access finds (R263, R282, R283) -/

theorem State.seenCells_fresh (s : State) (cls : BitVec 6) (base : Nat) (m : List Host.Cell) (a n : Nat)
    (h : ∀ i < n, s.oldByte cls (base + a + i) = none) : s.seenCells cls base m a n = readCells m a n := by
  induction n generalizing a with
  | zero => rfl
  | succ n ih =>
    unfold State.seenCells readCells
    rw [ih (a + 1) fun i hi => by rw [show base + (a + 1) + i = base + a + (i + 1) by omega]; exact h _ (by omega)]
    have := h 0 (by omega)
    rw [Nat.add_zero] at this
    rw [this]; rfl

/-- Where no access of a class finds old bytes, it finds what memory holds. -/
theorem State.memSeen_fresh (s : State) (cls : BitVec 6) (a n : Nat) (h : ∀ i < n, s.oldByte cls (a + i) = none) :
    s.memSeen cls a n = s.memRead a n :=
  s.seenCells_fresh cls 0 s.mem a n fun i hi => by rw [Nat.zero_add]; exact h i hi

theorem State.padSeen_fresh (s : State) (cls : BitVec 6) (k off n : Nat) (h : ∀ i < n, s.oldByte cls (padLoc k + off + i) = none) :
    s.padSeen cls k off n = s.padRead k off n :=
  s.seenCells_fresh cls (padLoc k) (s.core k).pad off n h

/-- After an XFENCE no access of a destination class finds what a write of a source class replaced (R140): it finds old bytes only where
it found those of another class's write. -/
theorem State.ordered_none (s : State) (src dst cls : BitVec 6) (loc : Nat) (hc : cls &&& dst = cls)
    (ho : ∀ o ∈ s.olds, (o.cls &&& src) = 0 → o.shows s.free cls = false) : (s.ordered src dst).oldByte cls loc = none := by
  have none_shows : ∀ o ∈ (s.ordered src dst).olds, o.shows s.free cls = false := by
    intro o hm
    obtain ⟨p, hp, rfl⟩ := List.mem_map.1 (List.mem_filter.1 hm).1
    have z : (p.unto &&& ~~~dst) &&& cls = 0 := by rw [← hc]; ext i; simp; tauto
    split
    · exact ho p hp ‹_›
    · simp [OldWrite.shows, z]
  unfold State.oldByte
  rw [List.find?_eq_none.2]
  · rfl
  · intro o hm
    simp [show o.shows (s.ordered src dst).free cls = false from none_shows o hm]

end Sys2Proof.Machine
end

