-- ==== Sys2Proof/Laws/Regs.lean ====
section
/-!
SUPPORT. Pending fixed-latency writes (R84): the order in which they are applied, and what a register reads after some of
them: the value of the latest write to it.
-/

namespace Sys2Proof

variable {α : Type}

/-! ### The stable sort -/

/-- A list in rising order of key. -/
abbrev Rising (key : α → Nat) (l : List α) : Prop := l.Pairwise fun a b => key a ≤ key b

theorem mem_insertBy (key : α → Nat) (a b : α) (l : List α) : b ∈ insertBy key a l ↔ b = a ∨ b ∈ l := by
  induction l with
  | nil => simp [insertBy]
  | cons c r ih => unfold insertBy; split <;> simp [ih, or_left_comm]

theorem insertBy_rising (key : α → Nat) (a : α) (l : List α) (h : Rising key l) : Rising key (insertBy key a l) := by
  induction l with
  | nil => simp [insertBy]
  | cons c r ih =>
    obtain ⟨h1, h2⟩ := List.pairwise_cons.1 h
    unfold insertBy
    split
    · rename_i hk
      refine List.pairwise_cons.2 ⟨fun b hb => ?_, h⟩
      rcases List.mem_cons.1 hb with rfl | hb
      · exact hk.le
      · exact hk.le.trans (h1 b hb)
    · rename_i hk
      refine List.pairwise_cons.2 ⟨fun b hb => ?_, ih h2⟩
      rcases (mem_insertBy key a b r).1 hb with rfl | hb
      · omega
      · exact h1 b hb

theorem sortBy_snoc (key : α → Nat) (l : List α) (a : α) : sortBy key (l ++ [a]) = insertBy key a (sortBy key l) := by
  simp [sortBy]

theorem sortBy_rising (key : α → Nat) (l : List α) : Rising key (sortBy key l) := by
  induction l using List.reverseRecOn with
  | nil => exact List.Pairwise.nil
  | append_singleton l a ih => rw [sortBy_snoc]; exact insertBy_rising key a _ ih

theorem mem_sortBy (key : α → Nat) (b : α) (l : List α) : b ∈ sortBy key l ↔ b ∈ l := by
  induction l using List.reverseRecOn with
  | nil => simp [sortBy]
  | append_singleton l a ih => rw [sortBy_snoc, mem_insertBy, ih]; simp [or_comm]

/-- Inserting where no key is greater appends. -/
theorem insertBy_last (key : α → Nat) (a : α) (l : List α) (h : ∀ b ∈ l, key b ≤ key a) :
    insertBy key a l = l ++ [a] := by
  induction l with
  | nil => rfl
  | cons c r ih =>
    have := h c List.mem_cons_self
    unfold insertBy
    rw [if_neg (by omega), ih fun b hb => h b (List.mem_cons_of_mem _ hb)]; rfl

/-- Inserting before every key that is greater leaves the last element where one is greater. -/
theorem insertBy_getLast? (key : α → Nat) (a : α) (l : List α) (hs : Rising key l) (h : ∃ b ∈ l, key a < key b) :
    (insertBy key a l).getLast? = l.getLast? := by
  induction l with
  | nil => simp at h
  | cons c r ih =>
    obtain ⟨h1, h2⟩ := List.pairwise_cons.1 hs
    unfold insertBy
    split
    · simp [List.getLast?_cons]
    · rename_i hk
      have hr : ∃ b ∈ r, key a < key b := by
        obtain ⟨b, hb, hkb⟩ := h
        rcases List.mem_cons.1 hb with rfl | hb
        · omega
        · exact ⟨b, hb, hkb⟩
      have hne : r ≠ [] := by rintro rfl; simp at hr
      have hne' : insertBy key a r ≠ [] := by
        intro e; have := (mem_insertBy key a a r).2 (.inl rfl); simp [e] at this
      rw [List.getLast?_cons_of_ne_nil hne', List.getLast?_cons_of_ne_nil hne, ih h2 hr]
  where
  List.getLast?_cons_of_ne_nil {x : α} {l : List α} (h : l ≠ []) : (x :: l).getLast? = l.getLast? := by
    cases l with
    | nil => exact absurd rfl h
    | cons y l => rfl

theorem insertBy_cons_lt (key : α → Nat) (a c : α) (r : List α) (h : key a < key c) :
    insertBy key a (c :: r) = a :: c :: r := if_pos h

theorem insertBy_cons_ge (key : α → Nat) (a c : α) (r : List α) (h : ¬ key a < key c) :
    insertBy key a (c :: r) = c :: insertBy key a r := if_neg h

theorem insertBy_filter (key : α → Nat) (f : α → Bool) (a : α) (l : List α) (h : Rising key l) :
    (insertBy key a l).filter f = if f a then insertBy key a (l.filter f) else l.filter f := by
  induction l with
  | nil => by_cases hf : f a <;> simp [insertBy, hf]
  | cons c r ih =>
    obtain ⟨h1, h2⟩ := List.pairwise_cons.1 h
    by_cases hk : key a < key c
    · rw [insertBy_cons_lt _ _ _ _ hk]
      by_cases hf : f a
      · rw [if_pos hf, List.filter_cons_of_pos hf]
        have : ∀ l' : List α, (∀ b ∈ l', key a < key b) → insertBy key a l' = a :: l' := by
          intro l' hl
          cases l' with
          | nil => rfl
          | cons d l'' => exact insertBy_cons_lt _ _ _ _ (hl d List.mem_cons_self)
        rw [this]
        intro b hb
        rcases List.mem_cons.1 (List.mem_filter.1 hb).1 with rfl | hb
        · exact hk
        · exact lt_of_lt_of_le hk (h1 b hb)
      · rw [if_neg hf, List.filter_cons_of_neg hf]
    · rw [insertBy_cons_ge _ _ _ _ hk]
      by_cases hc : f c
      · rw [List.filter_cons_of_pos hc, List.filter_cons_of_pos hc, ih h2]
        by_cases hf : f a
        · rw [if_pos hf, if_pos hf, insertBy_cons_ge _ _ _ _ hk]
        · simp [hf]
      · rw [List.filter_cons_of_neg hc, List.filter_cons_of_neg hc, ih h2]

/-- Sorting and dropping elements commute. -/
theorem sortBy_filter (key : α → Nat) (f : α → Bool) (l : List α) :
    sortBy key (l.filter f) = (sortBy key l).filter f := by
  induction l using List.reverseRecOn with
  | nil => rfl
  | append_singleton l a ih =>
    rw [sortBy_snoc, insertBy_filter _ _ _ _ (sortBy_rising key l), List.filter_append]
    by_cases hf : f a
    · simp [hf, sortBy_snoc, ih]
    · simp [hf, ih]

/-- A rising list is its elements up to a bound and then the others. -/
theorem rising_split (key : α → Nat) (t : Nat) (l : List α) (h : Rising key l) :
    l = l.filter (fun a => decide (key a ≤ t)) ++ l.filter (fun a => decide (t < key a)) := by
  induction l with
  | nil => rfl
  | cons c r ih =>
    obtain ⟨h1, h2⟩ := List.pairwise_cons.1 h
    by_cases hc : key c ≤ t
    · rw [List.filter_cons_of_pos (by simpa using hc), List.filter_cons_of_neg (by simp; omega), List.cons_append,
        ← ih h2]
    · rw [List.filter_cons_of_neg (by simpa using hc), List.filter_cons_of_pos (by simp; omega)]
      have e1 : r.filter (fun a => decide (key a ≤ t)) = [] := by
        rw [List.filter_eq_nil_iff]; intro b hb; have := h1 b hb; simp; omega
      have e2 : r.filter (fun a => decide (t < key a)) = r := by
        rw [List.filter_eq_self]; intro b hb; have := h1 b hb; simp; omega
      rw [e1, e2]; rfl

namespace Machine

/-! ### Applying writes -/

/-- Whether a pending write is one of a register. -/
def Pending.isTo (p : Pending) (f : RegFile) (n : Nat) : Bool := p.file == f && p.reg == n

/-- A register of a file, in 512 bits. -/
def Ctx.readReg (c : Ctx) (f : RegFile) (n : Nat) : VWord :=
  match f with
  | .x => (c.rx n).setWidth 512
  | .v => c.rv n
  | .m => (c.rm n).setWidth 512

/-- What a register of a file keeps of 512 bits. -/
def RegFile.cut (f : RegFile) (w : VWord) : VWord :=
  match f with
  | .x => (w.setWidth 64).setWidth 512
  | .v => w
  | .m => (w.setWidth 16).setWidth 512

theorem Ctx.readReg_setReg (c : Ctx) (f g : RegFile) (n j : Nat) (w : VWord) :
    (c.setReg f n w).readReg g j = if g = f ∧ j = n ∧ discards f n = false then f.cut w else c.readReg g j := by
  cases f <;> cases g <;> simp only [Ctx.setReg, Ctx.readReg, RegFile.cut, discards, Ctx.rx_setX, Ctx.rv_setV,
    Ctx.rm_setM, Ctx.rv_setX, Ctx.rm_setX, Ctx.rx_setV, Ctx.rm_setV, Ctx.rx_setM, Ctx.rv_setM, reduceCtorEq, false_and,
    true_and, if_false] <;> (by_cases hj : j = n <;> by_cases hn : n = 0 <;> simp [hj, hn])

/-- A register after some writes reads the last of those to it. -/
theorem Ctx.readReg_foldl (l : List Pending) (c : Ctx) (f : RegFile) (n : Nat) (h : discards f n = false) :
    (l.foldl Ctx.applyPending c).readReg f n =
      ((l.filter fun p => p.isTo f n).getLast?.map fun p => f.cut p.val).getD (c.readReg f n) := by
  induction l using List.reverseRecOn with
  | nil => rfl
  | append_singleton l p ih =>
    rw [List.foldl_append, List.foldl_cons, List.foldl_nil, List.filter_append]
    unfold Ctx.applyPending at *
    rw [Ctx.readReg_setReg, ih]
    by_cases hp : p.isTo f n
    · obtain ⟨h1, h2⟩ : p.file = f ∧ p.reg = n := by simpa [Pending.isTo] using hp
      rw [if_pos ⟨h1.symm, h2.symm, by rw [h1, h2]; exact h⟩]
      simp [hp, h1]
    · rw [if_neg]
      · simp [hp]
      · rintro ⟨h1, h2, -⟩; exact hp (by simp [Pending.isTo, h1, h2])

/-- The writes of a context to a register that have taken effect by time t, in the order they are applied. -/
def Ctx.dueTo (c : Ctx) (f : RegFile) (n t : Nat) : List Pending :=
  (sortBy Pending.eff c.pend).filter fun p => decide (p.eff ≤ t) && p.isTo f n

theorem Ctx.readReg_retire (c : Ctx) (t : Nat) (f : RegFile) (n : Nat) (h : discards f n = false) :
    (c.retire t).readReg f n =
      ((c.dueTo f n t).getLast?.map fun p => f.cut p.val).getD (c.readReg f n) := by
  unfold Ctx.retire Ctx.dueTo
  rw [Ctx.readReg_foldl _ _ _ _ h, sortBy_filter, List.filter_filter]
  have e : (fun p : Pending => decide (p.eff ≤ t) && p.isTo f n) = fun p => p.isTo f n && decide (p.eff ≤ t) := by
    funext p; exact Bool.and_comm _ _
  rw [e]; cases f <;> rfl

theorem Ctx.foldl_pend (l : List Pending) (c : Ctx) : (l.foldl Ctx.applyPending c).pend = c.pend := by
  induction l generalizing c with
  | nil => rfl
  | cons p l ih =>
    rw [List.foldl_cons, ih]
    unfold Ctx.applyPending Ctx.setReg Ctx.setX Ctx.setV Ctx.setM
    split
    · split <;> rfl
    · rfl
    · split <;> rfl

@[simp] theorem Ctx.retire_pend (c : Ctx) (t : Nat) :
    (c.retire t).pend = c.pend.filter fun p => decide (t < p.eff) := Ctx.foldl_pend _ _

/-- Retiring in two stages is retiring at once. -/
theorem Ctx.readReg_retire_retire (c : Ctx) (t u : Nat) (htu : t ≤ u) (f : RegFile) (n : Nat) (h : discards f n = false) :
    ((c.retire t).retire u).readReg f n = (c.retire u).readReg f n := by
  rw [Ctx.readReg_retire _ _ _ _ h, Ctx.readReg_retire _ _ _ _ h, Ctx.readReg_retire _ _ _ _ h]
  have hs := rising_split Pending.eff t _ (List.Pairwise.filter (fun p => decide (p.eff ≤ u) && p.isTo f n)
    (sortBy_rising Pending.eff c.pend))
  have e1 : (c.retire t).dueTo f n u = ((sortBy Pending.eff c.pend).filter fun p => decide (p.eff ≤ u) && p.isTo f n).filter
      fun p => decide (t < p.eff) := by
    unfold Ctx.dueTo
    rw [Ctx.retire_pend, sortBy_filter, List.filter_filter, List.filter_filter]
    congr 1; funext p; exact Bool.and_comm _ _
  have e2 : c.dueTo f n t = ((sortBy Pending.eff c.pend).filter fun p => decide (p.eff ≤ u) && p.isTo f n).filter
      fun p => decide (p.eff ≤ t) := by
    unfold Ctx.dueTo
    rw [List.filter_filter]
    congr 1; funext p
    by_cases h1 : p.eff ≤ t
    · have : p.eff ≤ u := le_trans h1 htu
      simp [h1, this]
    · simp [h1]
  rw [e1, e2]
  conv => rhs; rw [show c.dueTo f n u = (sortBy Pending.eff c.pend).filter (fun p => decide (p.eff ≤ u) && p.isTo f n) from rfl, hs]
  rw [List.getLast?_append]
  generalize (List.filter (fun p : Pending => decide (t < p.eff)) _).getLast? = A
  generalize (List.filter (fun p : Pending => decide (p.eff ≤ t)) _).getLast? = B
  cases A <;> simp

end Machine

end Sys2Proof
end

