-- ==== Sys2Proof/Laws/Tokens.lean ====
section
/-!
SUPPORT. What the operations on a line's tokens keep (R268, R270): 64 tokens, one owner token, and its data with it.
-/

namespace Sys2Proof

/-! ### The sum of a canonical map of numbers -/

theorem SMap.sum_erase (m : SMap Nat) (k : Nat) (h : SMap.wf 0 m = true) :
    ((m.erase k).map Prod.snd).sum + m.get k 0 = (m.map Prod.snd).sum := by
  induction m with
  | nil => rfl
  | cons p r ih =>
    obtain ⟨-, h2, h3⟩ := (SMap.wf_cons 0 p r).1 h
    have ih := ih h3
    unfold SMap.erase SMap.get at *
    by_cases hk : p.1 = k
    · rw [List.filter_cons_of_neg (by simp [hk]), SMap.find?_cons, if_pos hk.symm]
      have e : List.filter (fun p => p.1 != k) r = r := List.filter_eq_self.2 fun q hq => by
        have := h2 q hq; simp; omega
      simp only [e, List.map_cons, List.sum_cons, Option.getD_some]; omega
    · rw [List.filter_cons_of_pos (by simp [hk]), SMap.find?_cons, if_neg (Ne.symm hk)]
      simp only [List.map_cons, List.sum_cons]; omega

theorem SMap.sum_set (m : SMap Nat) (k v : Nat) (h : SMap.wf 0 m = true) :
    ((m.set k v).map Prod.snd).sum + m.get k 0 = (m.map Prod.snd).sum + v := by
  induction m with
  | nil => simp [SMap.set]
  | cons p r ih =>
    obtain ⟨k', v'⟩ := p
    obtain ⟨-, h2, h3⟩ := (SMap.wf_cons 0 _ r).1 h
    have ih := ih h3
    have later (q : SMap Nat) (hq : ∀ x ∈ q, k < x.1) : q.find? k = none := by
      induction q with
      | nil => rfl
      | cons x q ih =>
        have := hq x List.mem_cons_self
        rw [SMap.find?_cons, if_neg (by omega), ih fun y hy => hq y (List.mem_cons_of_mem _ hy)]
    unfold SMap.get at *
    rw [SMap.set]
    split
    · rename_i hk
      have e : SMap.find? ((k', v') :: r) k = none := later _ fun x hx => by
        rcases List.mem_cons.1 hx with rfl | hx
        · exact hk
        · exact lt_trans hk (h2 x hx)
      rw [e]; simp; omega
    · split
      · rename_i hk; rw [SMap.find?_cons, if_pos hk]; simp; omega
      · rename_i hk; rw [SMap.find?_cons, if_neg hk]; simp only [List.map_cons, List.sum_cons]; omega

/-- A write changes the sum by the difference of the two values. -/
theorem SMap.sum_put (m : SMap Nat) (k v : Nat) (h : SMap.wf 0 m = true) :
    ((SMap.put 0 m k v).map Prod.snd).sum + m.get k 0 = (m.map Prod.snd).sum + v := by
  unfold SMap.put
  split
  · subst v; simpa using SMap.sum_erase m k h
  · exact SMap.sum_set m k v h

end Sys2Proof

namespace Sys2Proof.Machine

/-! ### Holders -/

theorem Line.count_put (l : Line) (h g n : Nat) :
    ({ l with tokens := l.tokens.put 0 h n } : Line).count g = if g = h then n else l.count g := SMap.get_put _ _ _ _ _

/-- The tokens at holders and in flight. -/
def Line.total (l : Line) : Nat := (l.tokens.map Prod.snd).sum + (l.flying.map TokMsg.count).sum

/-- What holds of the owner token: it is with a holder of valid data, or on its way with data. -/
def Line.OwnerOk (l : Line) : Prop :=
  (∀ m ∈ l.flying, m.owner = true → m.data = true ∧ 0 < m.count) ∧
  match l.owner with
  | some h => 0 < l.count h ∧ h ∈ l.valid ∧ ∀ m ∈ l.flying, m.owner = false
  | none => (l.flying.filter TokMsg.owner).length = 1

theorem Line.wf_iff (l : Line) : l.Wf ↔ SMap.wf 0 l.tokens = true ∧ l.total = 64 ∧ l.OwnerOk := Iff.rfl

/-- A line is as it was in what Wf speaks of. -/
theorem Line.wf_congr {l m : Line} (h : l.Wf) (ht : m.tokens = l.tokens) (ho : m.owner = l.owner) (hv : m.valid = l.valid)
    (hf : m.flying = l.flying) : m.Wf := by
  unfold Line.Wf Line.count at *; rw [ht, ho, hv, hf]; exact h

theorem Line.own_wf (l : Line) (h : Nat) (thru : Option Nat) : (l.own h thru).Wf := by
  simp [Line.Wf, Line.own, SMap.wf, Line.count, SMap.get, SMap.find?]

theorem Line.sendAll_wf (l : Line) (h dst : Nat) (hw : l.Wf) : (l.sendAll h dst).Wf := by
  unfold Line.sendAll
  split
  · exact hw
  rename_i hc
  obtain ⟨h1, h2, h3, h4⟩ := hw
  have e := SMap.sum_put l.tokens h 0 h1
  have hc0 : l.count h ≠ 0 := fun x => hc (.inl x)
  refine ⟨SMap.wf_put 0 l.tokens h 0 h1, ?_, ?_, ?_⟩
  · simp only [Line.drop, List.map_append, List.sum_append, List.map_cons, List.map_nil, List.sum_cons, List.sum_nil, Line.count] at *
    omega
  · intro m hm ho
    rcases List.mem_append.1 hm with hm | hm
    · exact h3 m hm ho
    · rw [List.mem_singleton.1 hm] at ho ⊢; exact ⟨ho, Nat.pos_of_ne_zero hc0⟩
  · by_cases o : l.owner = some h
    · rw [o] at h4
      simp only [o, beq_self_eq_true, if_true, List.filter_append, List.length_append]
      rw [List.filter_eq_nil_iff.2 fun m hm => by simp [h4.2.2 m hm]]; simp
    · simp only [beq_eq_false_iff_ne.2 o, Bool.false_eq_true, if_false, Line.drop]
      cases ho : l.owner with
      | none => rw [ho] at h4; simpa [List.filter_append] using h4
      | some g =>
        rw [ho] at h4 o
        have hg : g ≠ h := fun x => o (by rw [x])
        refine ⟨?_, by simp [h4.2.1, hg], ?_⟩
        · unfold Line.count; rw [SMap.get_put_ne _ _ _ hg]; exact h4.1
        · intro m hm
          rcases List.mem_append.1 hm with hm | hm
          · exact h4.2.2 m hm
          · rw [List.mem_singleton.1 hm]

theorem Line.answerRead_wf (l : Line) (h dst : Nat) (hw : l.Wf) : (l.answerRead h dst).Wf := by
  unfold Line.answerRead
  split
  · exact hw
  rename_i ho
  split
  · exact l.sendAll_wf h dst hw
  rename_i hc
  have ho : l.owner = some h := by by_contra x; exact ho (.inl x)
  obtain ⟨h1, h2, h3, h4⟩ := hw
  rw [ho] at h4
  have e := SMap.sum_put l.tokens h (l.count h - 1) h1
  refine ⟨SMap.wf_put _ _ _ _ h1, ?_, ?_, ?_⟩
  · simp only [List.map_append, List.sum_append, List.map_cons, List.map_nil, List.sum_cons, List.sum_nil, Line.count] at *
    omega
  · intro m hm hd
    rcases List.mem_append.1 hm with hm | hm
    · exact h3 m hm hd
    · rw [List.mem_singleton.1 hm] at hd; simp at hd
  · simp only [ho]
    refine ⟨?_, h4.2.1, ?_⟩
    · unfold Line.count at *; rw [SMap.get_put_self]; omega
    · intro m hm
      rcases List.mem_append.1 hm with hm | hm
      · exact h4.2.2 m hm
      · rw [List.mem_singleton.1 hm]

theorem Line.answer_wf (l : Line) (h dst : Nat) (w : Bool) (hw : l.Wf) : (l.answer h dst w).Wf := by
  unfold Line.answer
  split
  · exact hw
  · split
    · exact l.sendAll_wf h dst hw
    · exact l.answerRead_wf h dst hw

theorem Line.take_wf (l : Line) (h r : Nat) (w : Bool) (num : Nat) (hw : l.Wf) : (l.take h r w num).Wf := by
  unfold Line.take
  split
  · exact hw
  · exact Line.answer_wf _ h r w (Line.wf_congr hw rfl rfl rfl rfl)

theorem Line.settle_wf (l : Line) (hw : l.Wf) : l.settle.Wf := Line.wf_congr hw rfl rfl rfl rfl

theorem Line.finish_wf (l : Line) (r : Nat) (hw : l.Wf) : (l.finish r).Wf := by
  unfold Line.finish
  split
  · exact Line.wf_congr hw rfl rfl rfl rfl
  · exact hw

theorem Line.accessed_wf (l : Line) (h : Nat) (w : Bool) (hw : l.Wf) : (l.accessed h w).Wf :=
  Line.finish_wf _ h (Line.settle_wf _ (Line.wf_congr hw rfl rfl rfl rfl))

/-- A message in flight reaches its holder. -/
theorem Line.receive_wf (l : Line) (m : TokMsg) (a b : List TokMsg) (hf : l.flying = a ++ m :: b) (hw : l.Wf) :
    ({ l with flying := a ++ b }.receive m).Wf := by
  obtain ⟨h1, h2, h3, h4⟩ := hw
  rw [hf] at h2 h3 h4
  have e := SMap.sum_put l.tokens m.dst (l.count m.dst + m.count) h1
  have sub : ∀ x ∈ a ++ b, x ∈ a ++ m :: b := fun x hx => by
    rcases List.mem_append.1 hx with h | h
    · exact List.mem_append_left _ h
    · exact List.mem_append_right _ (List.mem_cons_of_mem _ h)
  have keep (x : Nat) (hx : x ∈ l.valid) : x ∈ (if m.data && !l.valid.contains m.dst then m.dst :: l.valid else l.valid) := by
    split
    · exact List.mem_cons_of_mem _ hx
    · exact hx
  have more (x : Nat) (hx : 0 < l.count x) : 0 < (SMap.put 0 l.tokens m.dst (l.count m.dst + m.count)).get x 0 := by
    rw [SMap.get_put]; split
    · subst x; omega
    · exact hx
  refine ⟨SMap.wf_put _ _ _ _ h1, ?_, ?_, ?_⟩
  · simp only [Line.receive, List.map_append, List.sum_append, List.map_cons, List.sum_cons, Line.count] at *
    omega
  · intro x hx; exact h3 x (sub x hx)
  · unfold Line.receive Line.count
    by_cases ho : m.owner = true
    · simp only [ho, if_true]
      have hm := h3 m (List.mem_append_right _ List.mem_cons_self) ho
      have alone : ∀ x ∈ a ++ b, x.owner = false := by
        cases hl : l.owner with
        | some g =>
          rw [hl] at h4
          exact absurd ho (by simp [h4.2.2 m (List.mem_append_right _ List.mem_cons_self)])
        | none =>
          rw [hl] at h4
          rw [List.filter_append, List.length_append, List.filter_cons_of_pos ho, List.length_cons] at h4
          have z : (List.filter TokMsg.owner (a ++ b)).length = 0 := by rw [List.filter_append, List.length_append]; omega
          intro x hx
          have := List.filter_eq_nil_iff.1 (List.length_eq_zero_iff.1 z) x hx
          simpa using this
      refine ⟨?_, ?_, alone⟩
      · rw [SMap.get_put_self]; omega
      · by_cases hv : l.valid.contains m.dst
        · simp only [hm.1, hv]; simpa using hv
        · simp only [hm.1, hv]; simp
    · have ho : m.owner = false := by simpa using ho
      simp only [ho, Bool.false_eq_true, if_false]
      cases hl : l.owner with
      | some g => rw [hl] at h4; exact ⟨more g h4.1, keep g h4.2.1, fun x hx => h4.2.2 x (sub x hx)⟩
      | none =>
        rw [hl] at h4
        rw [List.filter_append, List.filter_cons_of_neg (by simp [ho]), ← List.filter_append] at h4
        exact h4

theorem Line.receive_eraseIdx_wf (l : Line) (i : Nat) (m : TokMsg) (hi : l.flying[i]? = some m) (hw : l.Wf) :
    ({ l with flying := l.flying.eraseIdx i }.receive m).Wf := by
  obtain ⟨h, rfl⟩ := List.getElem?_eq_some_iff.1 hi
  have e : l.flying = l.flying.take i ++ l.flying[i] :: l.flying.drop (i + 1) := by
    rw [← List.drop_eq_getElem_cons h, List.take_append_drop]
  rw [List.eraseIdx_eq_take_drop_succ]
  exact l.receive_wf _ _ _ e hw

/-- A message in flight goes to another holder than its own. -/
theorem Line.divert_wf (l : Line) (i h : Nat) (m : TokMsg) (hi : l.flying[i]? = some m) (hw : l.Wf) :
    ({ l with flying := l.flying.eraseIdx i }.receive { m with dst := h }).Wf := by
  obtain ⟨hlt, rfl⟩ := List.getElem?_eq_some_iff.1 hi
  have e : l.flying = l.flying.take i ++ l.flying[i] :: l.flying.drop (i + 1) := by
    rw [← List.drop_eq_getElem_cons hlt, List.take_append_drop]
  rw [List.eraseIdx_eq_take_drop_succ]
  generalize l.flying[i] = m at e
  generalize l.flying.take i = a at e ⊢
  generalize l.flying.drop (i + 1) = b at e ⊢
  have w : ({ l with flying := a ++ { m with dst := h } :: b } : Line).Wf := by
    obtain ⟨h1, h2, h3, h4⟩ := hw
    rw [e] at h2 h3 h4
    refine ⟨h1, ?_, fun x hx ho => ?_, ?_⟩
    · simpa using h2
    · rcases List.mem_append.1 hx with hx | hx
      · exact h3 x (List.mem_append_left _ hx) ho
      · rcases List.mem_cons.1 hx with rfl | hx
        · exact h3 m (List.mem_append_right _ List.mem_cons_self) ho
        · exact h3 x (List.mem_append_right _ (List.mem_cons_of_mem _ hx)) ho
    · cases ho : l.owner with
      | none =>
        rw [ho] at h4
        simp only [List.filter_append, List.filter_cons, List.length_append] at h4 ⊢
        split <;> simp_all
      | some g =>
        rw [ho] at h4
        refine ⟨h4.1, h4.2.1, fun x hx => ?_⟩
        rcases List.mem_append.1 hx with hx | hx
        · exact h4.2.2 x (List.mem_append_left _ hx)
        · rcases List.mem_cons.1 hx with rfl | hx
          · exact h4.2.2 m (List.mem_append_right _ List.mem_cons_self)
          · exact h4.2.2 x (List.mem_append_right _ (List.mem_cons_of_mem _ hx))
  exact Line.receive_wf { l with flying := a ++ { m with dst := h } :: b } { m with dst := h } a b rfl w

theorem Line.shareAt_wf (l : Line) (h : Nat) (hw : l.Wf) : (l.shareAt h).Wf := by
  unfold Line.shareAt
  split
  · exact hw
  cases ho : l.owner with
  | none =>
    simp only
    split
    · exact hw
    · split
      · exact hw
      · rw [← ho]; exact l.divert_wf _ h _ ‹_› hw
  | some o =>
    obtain ⟨h1, h2, h3, h4⟩ := hw
    rw [ho] at h4
    simp only
    by_cases hoh : o = h
    · rw [if_pos hoh]
      refine ⟨h1, h2, h3, ?_⟩
      simp only
      exact ⟨h4.1, List.mem_cons_of_mem _ h4.2.1, h4.2.2⟩
    rw [if_neg hoh]
    have e1 := SMap.sum_put l.tokens o (l.count o - 1) h1
    have e2 := SMap.sum_put _ h (l.count h + 1) (SMap.wf_put 0 l.tokens o (l.count o - 1) h1)
    rw [SMap.get_put_ne _ _ _ (Ne.symm hoh)] at e2
    have e1' := SMap.sum_put l.tokens o 0 h1
    have e2' := SMap.sum_put _ h (l.count h + 1) (SMap.wf_put 0 l.tokens o 0 h1)
    rw [SMap.get_put_ne _ _ _ (Ne.symm hoh)] at e2'
    have hp := h4.1
    unfold Line.count at *
    split
    · refine ⟨SMap.wf_put 0 _ h (l.tokens.get h 0 + 1) (SMap.wf_put 0 l.tokens o (l.tokens.get o 0 - 1) h1), ?_, h3, ?_⟩
      · simp only; omega
      · simp only
        refine ⟨?_, List.mem_cons_of_mem _ h4.2.1, h4.2.2⟩
        unfold Line.count; rw [SMap.get_put_ne _ _ _ hoh, SMap.get_put_self]; omega
    · refine ⟨SMap.wf_put 0 _ h (l.tokens.get h 0 + 1) (SMap.wf_put 0 l.tokens o 0 h1), ?_, h3, ?_⟩
      · simp only; omega
      · refine ⟨?_, List.mem_cons_self, h4.2.2⟩
        unfold Line.count; rw [SMap.get_put_self]; omega

theorem Line.share_wf (l : Line) (h : Nat) (portion : Option Nat) (hw : l.Wf) : (l.share h portion).Wf := by
  unfold Line.share
  cases portion with
  | none => exact l.shareAt_wf h hw
  | some k =>
    simp only
    split
    · exact l.shareAt_wf h hw
    · exact Line.wf_congr (l.shareAt_wf h hw) rfl rfl rfl rfl

theorem Line.drop_receive_wf (l : Line) (h dst : Nat) (hw : l.Wf) (hc : l.count h ≠ 0) :
    ((l.drop h).receive { dst := dst, count := l.count h, owner := l.owner == some h, data := l.owner == some h }).Wf := by
  obtain ⟨h1, h2, h3, h4⟩ := hw
  have e1 := SMap.sum_put l.tokens h 0 h1
  have w1 := SMap.wf_put 0 l.tokens h 0 h1
  have e2 := SMap.sum_put _ dst ((SMap.put 0 l.tokens h 0).get dst 0 + l.count h) w1
  refine ⟨SMap.wf_put _ _ _ _ w1, ?_, h3, ?_⟩
  · simp only [Line.receive, Line.drop, Line.count] at *; omega
  · unfold Line.receive Line.drop Line.count
    by_cases o : l.owner = some h
    · rw [o] at h4
      simp only [o, beq_self_eq_true, if_true]
      refine ⟨?_, ?_, h4.2.2⟩
      · rw [SMap.get_put_self]; unfold Line.count at hc; omega
      · by_cases hv : (l.valid.filter (· != h)).contains dst
        · simp only [hv]; simpa using hv
        · simp only [hv]; simp
    · simp only [beq_eq_false_iff_ne.2 o, Bool.false_eq_true, if_false, Bool.false_and]
      cases ho : l.owner with
      | none => rw [ho] at h4; exact h4
      | some g =>
        rw [ho] at h4 o
        have hg : g ≠ h := fun x => o (by rw [x])
        refine ⟨?_, by simp [h4.2.1, hg], h4.2.2⟩
        rw [SMap.get_put]; split
        · have := h4.1; subst g; rw [SMap.get_put_ne _ _ _ hg]; unfold Line.count at this; omega
        · rw [SMap.get_put_ne _ _ _ hg]; exact h4.1

theorem Line.goHome_wf (l : Line) (h : Nat) (hw : l.Wf) : (l.goHome h).Wf := by
  unfold Line.goHome
  simp only
  split
  · exact hw
  · split
    · exact l.sendAll_wf h _ hw
    · exact l.drop_receive_wf h homeHolder hw ‹_›

theorem Line.withoutDie_wf (l : Line) (vdn : Nat) (hw : l.Wf) : (l.withoutDie vdn).Wf := by
  unfold Line.withoutDie
  refine Line.goHome_wf _ vdn ?_
  obtain ⟨h1, h2, h3, h4⟩ := hw
  let f : TokMsg → TokMsg := fun m => if m.dst = vdn then { m with dst := homeHolder } else m
  have fo (m : TokMsg) : (f m).owner = m.owner := by simp only [f]; split <;> rfl
  have fc (m : TokMsg) : (f m).count = m.count := by simp only [f]; split <;> rfl
  have fd (m : TokMsg) : (f m).data = m.data := by simp only [f]; split <;> rfl
  have ef : (TokMsg.owner ∘ f) = TokMsg.owner := funext fo
  have ec : (TokMsg.count ∘ f) = TokMsg.count := funext fc
  refine ⟨h1, ?_, ?_, ?_⟩
  · simp only [List.map_map]; rw [show (TokMsg.count ∘ fun m : TokMsg => if m.dst = vdn then { m with dst := homeHolder } else m) = TokMsg.count from ec]; exact h2
  · intro m hm ho
    obtain ⟨x, hx, rfl⟩ := List.mem_map.1 hm
    have := h3 x hx ((fo x).symm.trans ho)
    exact ⟨(fd x).trans this.1, by rw [fc x]; exact this.2⟩
  · simp only
    cases ho : l.owner with
    | none =>
      rw [ho] at h4
      rw [List.filter_map, List.length_map, show (TokMsg.owner ∘ fun m : TokMsg => if m.dst = vdn then { m with dst := homeHolder } else m) = TokMsg.owner from ef]
      exact h4
    | some g =>
      rw [ho] at h4
      refine ⟨h4.1, h4.2.1, fun m hm => ?_⟩
      obtain ⟨x, hx, rfl⟩ := List.mem_map.1 hm
      exact (fo x).trans (h4.2.2 x hx)

/-! ### States -/

/-- A change of one line that keeps it. -/
theorem State.linesWf_updLine (s : State) (n : Nat) (f : Line → Line) (h : s.LinesWf) (hf : (s.line n).Wf → (f (s.line n)).Wf) :
    (s.updLine n f).LinesWf := by
  intro m
  have e : (s.updLine n f).line m = if m = n then f (s.line n) else s.line m := SMap.get_set _ _ _ _ _
  rw [e]; split
  · exact hf (h n)
  · exact h m

theorem State.linesWf_of_lines {s t : State} (h : s.LinesWf) (e : t.lines = s.lines) : t.LinesWf := by
  intro n; unfold State.line; rw [e]; exact h n

/-- A slice that makes room sends a line's tokens home. -/
theorem State.linesWf_roomLines (s : State) (h n : Nat) (but : List Nat) (hs : s.LinesWf) :
    ({ s with lines := s.roomLines h n but } : State).LinesWf := by
  unfold State.roomLines
  split
  · simp only
    split
    · exact s.linesWf_updLine _ (fun l => l.goHome h) hs fun hw => Line.goHome_wf _ h hw
    · exact hs
  · exact hs

/-- A holder takes tokens of a line by a change that keeps it. -/
theorem State.linesWf_takeLine (s : State) (h n : Nat) (f : Line → Line) (but : List Nat) (hs : s.LinesWf)
    (hf : (s.line n).Wf → (f (s.line n)).Wf) : (s.takeLine h n f but).LinesWf :=
  State.linesWf_updLine { s with lines := s.roomLines h n but } n (fun _ => f (s.line n)) (s.linesWf_roomLines h n but hs)
    fun _ => hf (hs n)

theorem State.linesWf_tokenRead (s : State) (k a : Nat) (h : s.LinesWf) : (s.tokenRead k a).LinesWf :=
  s.linesWf_takeLine _ _ _ _ h fun hw => Line.accessed_wf _ _ _ (Line.share_wf _ _ _ hw)

theorem State.linesWf_holderReads (s : State) (h : Nat) (pas : List Nat) (hs : s.LinesWf) : (s.holderReads h pas).LinesWf := by
  unfold State.holderReads
  induction pas generalizing s with
  | nil => exact hs
  | cons a r ih =>
    exact ih _ (s.linesWf_takeLine _ _ _ _ hs fun hw => Line.accessed_wf _ _ _ (Line.shareAt_wf _ _ hw))

/-- Reading changes nothing but tokens. -/
theorem State.holderReads_eq (s : State) (h : Nat) (pas : List Nat) : ∃ m, s.holderReads h pas = { s with lines := m } := by
  unfold State.holderReads
  induction pas generalizing s with
  | nil => exact ⟨s.lines, rfl⟩
  | cons a r ih =>
    obtain ⟨m, e⟩ := ih (s.takeLine h (lineOf a) fun l => (l.shareAt h).accessed h false)
    exact ⟨m, e⟩

theorem State.linesWf_tokenWrite (s : State) (h a : Nat) (thru : Option Nat) (hs : s.LinesWf) : (s.tokenWrite h a thru).LinesWf :=
  s.linesWf_takeLine _ _ _ _ hs fun _ => Line.accessed_wf _ _ _ (Line.own_wf _ _ _)

/-- An access that waits changes no token. -/
theorem State.linesWf_want (s : State) (h n : Nat) (w : Bool) (who : Waiter) (hs : s.LinesWf) : (s.want h n w who).LinesWf := by
  unfold State.want
  simp only
  split
  · exact hs
  · exact s.linesWf_updLine n (fun l => { l with wants := l.wants ++ [(h, w, who)] }) hs fun hw => Line.wf_congr hw rfl rfl rfl rfl

theorem State.linesWf_memWrite (s : State) (h : Nat) (who : Option (Nat × Nat)) (a n v : Nat) (thru : Option Nat)
    (hs : s.LinesWf) : (s.memWrite h who a n v thru).LinesWf :=
  State.linesWf_tokenWrite _ h a thru (State.linesWf_of_lines hs rfl)

theorem State.linesWf_returnTokens (s : State) (vdn : Nat) (h : s.LinesWf) : (s.returnTokens vdn).LinesWf := by
  intro n
  have : (s.returnTokens vdn).line n = ((s.lines.find? n).map fun l => l.withoutDie vdn).getD {} := by
    unfold State.returnTokens State.line SMap.get; rw [SMap.find?_mapVal]
  rw [this]
  have g := h n
  unfold State.line SMap.get at g
  cases e : s.lines.find? n with
  | none => rw [e] at g; exact g
  | some l => rw [e] at g; exact Line.withoutDie_wf l vdn g

end Sys2Proof.Machine
end

