-- ==== Sys2Proof/Laws/Vector.lean ====
section
/-!
SUPPORT. Vector operands that are at hand (`State.Delivers`): the checks of R170 find nothing, reading gives their values, and
an instruction runs once with the sources consumed.
-/

namespace Sys2Proof.Machine

theorem State.srcCheck_fine (s : State) (n : Nat) (w : VWord) (h : s.Delivers n w) : s.srcCheck n = .fine := by
  unfold State.Delivers at h
  unfold State.srcCheck
  cases e : s.me.stream n with
  | none => rfl
  | some t =>
    simp only [e] at h
    obtain ⟨h1, h2⟩ := h
    simp only [h1]
    rcases h2 with ⟨h2, h3, h4⟩ | ⟨h2, h3⟩ <;> simp [h2, h3]

theorem State.checks_fine (s : State) (srcs : List Nat) (rv : Nat → VWord) (dest : Option Nat)
    (h : ∀ n ∈ srcs, s.Delivers n (rv n)) (hd : ∀ d ∈ dest, s.destCheck d = .fine) :
    s.vecFault { srcs := srcs, dest := dest } = .fine ∧ s.vecAbsent { srcs := srcs, dest := dest } = none := by
  have all : ∀ c ∈ srcs.map s.srcCheck ++ dest.toList.map s.destCheck, c = .fine := by
    intro c hc
    rcases List.mem_append.1 hc with hc | hc
    · obtain ⟨n, hn, rfl⟩ := List.mem_map.1 hc
      exact s.srcCheck_fine n _ (h n hn)
    · obtain ⟨n, hn, rfl⟩ := List.mem_map.1 hc
      exact hd n (by simpa using hn)
  constructor
  · unfold State.vecFault
    simp only
    rw [List.find?_eq_none.2]
    · rfl
    · intro c hc
      rw [all c hc]
      simp
  · unfold State.vecAbsent
    rw [List.findSome?_eq_none_iff]
    intro c hc
    rw [all c hc]

theorem State.readVecs_delivers (s : State) (l : List Nat) (rv : Nat → VWord)
    (h : ∀ n ∈ l, s.Delivers n (rv n)) : s.readVecs l = .vals (l.map fun n => (n, (rv n).toNat)) s := by
  induction l with
  | nil => rfl
  | cons n l ih =>
    have h0 := h n List.mem_cons_self
    unfold State.readVecs
    unfold State.Delivers at h0
    split at h0
    · rename_i he
      simp only [he]
      rw [ih fun m hm => h m (List.mem_cons_of_mem _ hm)]
      simp [h0]
    · rename_i t ht
      simp only [ht]
      have e : s.streamRead (n - 24) t = .vals [(0, (rv n).toNat)] s := by
        unfold State.streamRead
        rcases h0 with ⟨h1, ⟨h2, h3, h4⟩ | ⟨h2, h3⟩⟩
        · simp [h2, h4]
        · simp [h2, h3]
      rw [e]
      simp only
      rw [ih fun m hm => h m (List.mem_cons_of_mem _ hm)]
      simp

theorem vecOf_map (l : List Nat) (rv : Nat → VWord) (n : Nat) (h : n ∈ l) :
    vecOf (l.map fun n => (n, (rv n).toNat)) n = rv n := by
  unfold vecOf
  have e : List.find? (fun p => p.1 == n) (l.map fun n => (n, (rv n).toNat)) = some (n, (rv n).toNat) := by
    induction l with
    | nil => simp at h
    | cons a l ih =>
      by_cases ha : a = n
      · subst ha; simp
      · rw [List.map_cons, List.find?_cons_of_neg (by simpa using ha)]
        exact ih (by simpa [Ne.symm ha] using h)
  rw [e]
  simp

/-- An instruction with no trap of its own, whose vector operands are at hand, runs on the consumed sources. -/
theorem State.vec_run (s : State) (srcs : List Nat) (rv : Nat → VWord) (dest : Option Nat) (early : State → Option State)
    (run : State → (Nat → VWord) → State) (h : ∀ n ∈ srcs, s.Delivers n (rv n))
    (hd : ∀ d ∈ dest, s.destCheck d = .fine) (hfar : s.farDest { srcs := srcs, dest := dest } = true → s.finishReads = .on s)
    (hrun : ∀ t rv', (∀ n ∈ srcs, rv' n = rv n) → run t rv' = run t rv) :
    s.vec { srcs := srcs, dest := dest } early noOwn run = run (s.setMe (s.consumed srcs rv)) rv := by
  obtain ⟨h1, h2⟩ := s.checks_fine srcs rv dest h hd
  have e : ∀ n ∈ srcs, vecOf (srcs.dedup.map fun n => (n, (rv n).toNat)) n = rv n := fun n hn =>
    vecOf_map _ rv n (List.mem_dedup.2 hn)
  unfold State.vec
  rw [h1]
  simp only [h2]
  rw [s.readVecs_delivers srcs.dedup rv fun n hn => h n (List.mem_dedup.1 hn)]
  have f : (if s.farDest { srcs := srcs, dest := dest } = true then s.finishReads else .on s) = .on s := by
    split
    · exact hfar ‹_›
    · rfl
  dsimp only
  rw [f]
  have g : s.destLost { srcs := srcs, dest := dest } = none := by
    unfold State.destLost
    cases dest with
    | none => rfl
    | some d => simp [hd d rfl]
  simp only [noOwn, g, Option.getD_none]
  rw [hrun _ _ e]
  congr 2
  unfold State.consumed
  refine List.foldl_ext _ _ _ fun c n hn => ?_
  rw [e n (List.mem_dedup.1 hn)]

/-! ### Elements of a packed vector -/

theorem elem_pack (w : Nat) (l : List Nat) (e : Nat) (h : e < l.length) :
    packElems w l / 2 ^ (w * e) % 2 ^ w = l.getD e 0 % 2 ^ w := by
  induction l generalizing e with
  | nil => simp at h
  | cons a l ih =>
    cases e with
    | zero => simp [packElems]
    | succ e =>
      have := ih e (by simpa using h)
      simp only [packElems, List.getD_cons_succ]
      rw [← this, Nat.mul_succ, Nat.add_comm (w * e) w, pow_add, ← Nat.div_div_eq_div_mul]
      congr 2
      rw [Nat.add_mul_div_left _ _ (by positivity), Nat.div_eq_of_lt (Nat.mod_lt _ (by positivity))]; simp

/-- Element e of a vector that is packed from a list. -/
theorem elem_ofPack (w : Nat) (l : List Nat) (e : Nat) (h : e < l.length) (hl : w * (e + 1) ≤ 512) :
    elem w (BitVec.ofNat 512 (packElems w l)) e = l.getD e 0 % 2 ^ w := by
  unfold elem
  rw [← elem_pack w l e h, BitVec.toNat_ofNat, Nat.shiftRight_eq_div_pow]
  generalize packElems w l = x
  have : 2 ^ 512 = 2 ^ (w * e) * 2 ^ (512 - w * e) := by
    rw [← pow_add]; congr 1; rw [Nat.mul_succ] at hl; omega
  rw [this, Nat.mod_mul_right_div_self]
  exact Nat.mod_mod_of_dvd _ (pow_dvd_pow _ (by rw [Nat.mul_succ] at hl; omega))

end Sys2Proof.Machine
end

