-- ==== Sys2Proof/Tests/Slice0.lean ====
section
/-!
SUPPORT. The model's own tests. Expected values come from the spec's encodings, tables and worked examples. The theorems
named test_meets_… show, for each statement with hypotheses, states and operands that meet them, clause by clause.
-/

namespace Sys2Proof.Tests

open Sys2Proof.Machine

/-! ### Ill-formed terms (R68, R137, R151, R198) -/

theorem test_wellFormed :
    (Instr.lb 0 0 0 .flat 0).wellFormed = false ∧ (Instr.lb 0 0 0 .flat 1).wellFormed = true ∧
    (Instr.xfence 0 1 .die 0).wellFormed = false ∧ (Instr.xfence 1 0 .die 0).wellFormed = false ∧
    (Instr.xfence 1 1 .die 0).wellFormed = true ∧ (Instr.evpop 0 3 0).wellFormed = false ∧
    (Instr.evpop 1 3 0).wellFormed = true ∧ (Instr.vcmpeq 1 2 3 .w16 0 0).wellFormed = false ∧
    (Instr.vcmpne 1 2 3 .w8 0 0).wellFormed = false ∧ (Instr.vcmplt 1 2 3 .w16 0 0).wellFormed = false ∧
    (Instr.vcmple 1 2 3 .w8 0 0).wellFormed = false ∧ (Instr.vcmpltu 1 2 3 .w16 0 0).wellFormed = false ∧
    (Instr.vcmpleu 1 2 3 .w8 0 0).wellFormed = false ∧ (Instr.vcmpleu 1 2 3 .w64 0 0).wellFormed = true ∧
    (Instr.addi 31 31 4095 3).wellFormed = true := by decide

/-- Words that are refused: the two of R68, a reserved major, a code that a major does not assign, a reserved rounding mode, a
reserved field that is not 0, an odd pair, a compare of 16-bit elements (R76, R151). -/
theorem test_words_refused :
    decode 0x00000000 = none ∧ decode 0xFFFFFFFF = none ∧ decode 0x0000007C = none ∧ decode 0x0000700C = none ∧
    decode 0x10D00048 = none ∧ decode 0x0010002C = none ∧ decode 0x00108064 = none ∧ decode 0xC2000040 = none := by decide

/-! ### Worked words of the spec -/

theorem test_words_spec :
    decode 0x0C696530 = some (.amoadd 10 18 6 .rel true .die 0) ∧ decode 0x00018034 = some (.fence .die 0) ∧
    decode 0x1021A034 = some (.xfence 4 2 .die 0) ∧ decode 0x4000252C = some (.csrrs 10 0 0x400 0) ∧
    decode 0x0000002C = some (.ecall 0) ∧ decode 0xFFB0050A = some (.addi 10 0 0xFFB 2) ∧
    decode 0xFFFFD0A4 = some (.jal 1 0xFFFFD 0) ∧ decode 0x04192280 = some (.lw 5 18 16 .own 0) ∧
    decode 0x00000C50 = some (.sbind 0 0) ∧ decode 0x2802044C = some (.vfredsum 8 4 .f32 0 0) ∧
    decode 0x408102CC = some (.vscan 5 2 8 false 0 0) ∧ decode 0x124081C8 = some (.vcvtBf16F32 3 1 1 RoundMode.sr 0 0) ∧
    decode 0x00000008 = some (.addi 0 0 0 0) ∧ decode 0x10A02304 = some (.sw 6 0 66 .clust 0) := by decide

/-! ### Words of every instruction, from the fields of R69 -/

theorem test_words_load :
    decode 0xADB50A82 = some (.lb 21 10 694 .coresel 2) ∧ decode 0xADB51A82 = some (.lh 21 10 694 .coresel 2) ∧
    decode 0xADB52A82 = some (.lw 21 10 694 .coresel 2) ∧ decode 0xADB53A82 = some (.ld 21 10 694 .coresel 2) ∧
    decode 0xADB54A82 = some (.lbu 21 10 694 .coresel 2) ∧ decode 0xADB55A82 = some (.lhu 21 10 694 .coresel 2) ∧
    decode 0xADB56A82 = some (.lwu 21 10 694 .coresel 2) := by decide

theorem test_words_store :
    decode 0xADB50A86 = some (.sb 21 10 694 .coresel 2) ∧ decode 0xADB51A86 = some (.sh 21 10 694 .coresel 2) ∧
    decode 0xADB52A86 = some (.sw 21 10 694 .coresel 2) ∧ decode 0xADB53A86 = some (.sd 21 10 694 .coresel 2) := by decide

theorem test_words_opimm :
    decode 0x9C550A8A = some (.addi 21 10 2501 2) ∧ decode 0x9C551A8A = some (.andi 21 10 2501 2) ∧
    decode 0x9C552A8A = some (.ori 21 10 2501 2) ∧ decode 0x9C553A8A = some (.xori 21 10 2501 2) ∧
    decode 0x9C554A8A = some (.slti 21 10 2501 2) ∧ decode 0x9C555A8A = some (.sltiu 21 10 2501 2) ∧
    decode 0x02B56A8A = some (.slli 21 10 43 2) ∧ decode 0x06B56A8A = some (.srli 21 10 43 2) ∧
    decode 0x0AB56A8A = some (.srai 21 10 43 2) ∧ decode 0x0EB56A8A = some (.rori 21 10 43 2) ∧
    decode 0x00057A8A = some (.clz 21 10 2) ∧ decode 0x00157A8A = some (.ctz 21 10 2) ∧ decode 0x00257A8A = some (.popc 21 10 2) := by decide

theorem test_words_op :
    decode 0x01B50A8E = some (.add 21 10 27 2) ∧ decode 0x01B51A8E = some (.sub 21 10 27 2) ∧
    decode 0x01B52A8E = some (.and 21 10 27 2) ∧ decode 0x01B53A8E = some (.or 21 10 27 2) ∧
    decode 0x01B54A8E = some (.xor 21 10 27 2) ∧ decode 0x01B55A8E = some (.slt 21 10 27 2) ∧
    decode 0x01B56A8E = some (.sltu 21 10 27 2) ∧ decode 0x03B50A8E = some (.sll 21 10 27 2) ∧
    decode 0x03B51A8E = some (.srl 21 10 27 2) ∧ decode 0x03B52A8E = some (.sra 21 10 27 2) ∧
    decode 0x03B53A8E = some (.ror 21 10 27 2) ∧ decode 0x05B50A8E = some (.min 21 10 27 2) ∧
    decode 0x05B51A8E = some (.max 21 10 27 2) ∧ decode 0x05B52A8E = some (.minu 21 10 27 2) ∧
    decode 0x05B53A8E = some (.maxu 21 10 27 2) ∧ decode 0x07B50A8E = some (.addS 21 10 27 2) ∧
    decode 0x07B51A8E = some (.subS 21 10 27 2) ∧ decode 0x07B52A8E = some (.adduS 21 10 27 2) ∧
    decode 0x07B53A8E = some (.subuS 21 10 27 2) ∧ decode 0x09B50A8E = some (.mul 21 10 27 2) ∧
    decode 0x09B51A8E = some (.mulh 21 10 27 2) ∧ decode 0x09B52A8E = some (.mulhu 21 10 27 2) ∧
    decode 0x09B53A8E = some (.mulhsu 21 10 27 2) ∧ decode 0x0BB50A8E = some (.div 21 10 27 2) ∧
    decode 0x0BB51A8E = some (.divu 21 10 27 2) ∧ decode 0x0BB52A8E = some (.rem 21 10 27 2) ∧
    decode 0x0BB53A8E = some (.remu 21 10 27 2) := by decide

theorem test_words_opimm32 :
    decode 0x9C550A92 = some (.addiw 21 10 2501 2) ∧ decode 0x01656A92 = some (.slliw 21 10 22 2) ∧
    decode 0x03656A92 = some (.srliw 21 10 22 2) ∧ decode 0x05656A92 = some (.sraiw 21 10 22 2) ∧
    decode 0x00057A92 = some (.clzw 21 10 2) ∧ decode 0x00157A92 = some (.ctzw 21 10 2) ∧
    decode 0x00257A92 = some (.popcw 21 10 2) := by decide

theorem test_words_op32 :
    decode 0x01B50A96 = some (.addw 21 10 27 2) ∧ decode 0x01B51A96 = some (.subw 21 10 27 2) ∧
    decode 0x03B50A96 = some (.sllw 21 10 27 2) ∧ decode 0x03B51A96 = some (.srlw 21 10 27 2) ∧
    decode 0x03B52A96 = some (.sraw 21 10 27 2) ∧ decode 0x07B50A96 = some (.addwS 21 10 27 2) ∧
    decode 0x07B51A96 = some (.subwS 21 10 27 2) ∧ decode 0x09B50A96 = some (.mulw 21 10 27 2) ∧
    decode 0x0BB50A96 = some (.divw 21 10 27 2) ∧ decode 0x0BB51A96 = some (.divuw 21 10 27 2) ∧
    decode 0x0BB52A96 = some (.remw 21 10 27 2) ∧ decode 0x0BB53A96 = some (.remuw 21 10 27 2) := by decide

theorem test_words_lui :
    decode 0xB1234A9A = some (.lui 21 725556 2) := by decide

theorem test_words_auipc :
    decode 0xB1234A9E = some (.auipc 21 725556 2) := by decide

theorem test_words_branch :
    decode 0xA5B50DA2 = some (.beq 10 27 2651 2) ∧ decode 0xA5B51DA2 = some (.bne 10 27 2651 2) ∧
    decode 0xA5B52DA2 = some (.blt 10 27 2651 2) ∧ decode 0xA5B53DA2 = some (.bge 10 27 2651 2) ∧
    decode 0xA5B54DA2 = some (.bltu 10 27 2651 2) ∧ decode 0xA5B55DA2 = some (.bgeu 10 27 2651 2) := by decide

theorem test_words_jal :
    decode 0xB1234AA6 = some (.jal 21 725556 2) := by decide

theorem test_words_jalr :
    decode 0x9C550AAA = some (.jalr 21 10 2501 2) := by decide

theorem test_words_system :
    decode 0x82151AAE = some (.csrrw 21 10 2081 2) ∧ decode 0x82152AAE = some (.csrrs 21 10 2081 2) ∧
    decode 0x82153AAE = some (.csrrc 21 10 2081 2) ∧ decode 0x82155AAE = some (.csrrwi 21 2081 10 2) ∧
    decode 0x82156AAE = some (.csrrsi 21 2081 10 2) ∧ decode 0x82157AAE = some (.csrrci 21 2081 10 2) ∧
    decode 0x0000002E = some (.ecall 2) ∧ decode 0x0200002E = some (.ebreak 2) ∧ decode 0x04050AAE = some (.wfe 21 10 2) ∧
    decode 0x0600002E = some (.fenceI 2) ∧ decode 0x11B5002E = some (.tlbw 10 27 2) ∧ decode 0x13B5002E = some (.tlbinv 10 27 2) ∧
    decode 0x20050AAE = some (.resume 21 10 2) ∧ decode 0x22050AAE = some (.kill 21 10 2) ∧ decode 0x3005002E = some (.prio 10 2) := by decide

theorem test_words_amo :
    decode 0x05B55AB2 = some (.amoswap 21 10 27 .rel true .clu 2) ∧ decode 0x0DB55AB2 = some (.amoadd 21 10 27 .rel true .clu 2) ∧
    decode 0x15B55AB2 = some (.amoand 21 10 27 .rel true .clu 2) ∧ decode 0x1DB55AB2 = some (.amoor 21 10 27 .rel true .clu 2) ∧
    decode 0x25B55AB2 = some (.amoxor 21 10 27 .rel true .clu 2) ∧ decode 0x2DB55AB2 = some (.amomin 21 10 27 .rel true .clu 2) ∧
    decode 0x35B55AB2 = some (.amomax 21 10 27 .rel true .clu 2) ∧ decode 0x3DB55AB2 = some (.amominu 21 10 27 .rel true .clu 2) ∧
    decode 0x45B55AB2 = some (.amomaxu 21 10 27 .rel true .clu 2) ∧ decode 0x84055AB2 = some (.lr 21 10 .rel true .clu 2) ∧
    decode 0x8DB55AB2 = some (.sc 21 10 27 .rel true .clu 2) := by decide

theorem test_words_fence :
    decode 0x00020036 = some (.fence .pkg 2) ∧ decode 0x00021036 = some (.fenceSc 2) ∧
    decode 0xA5622036 = some (.xfence 41 22 .pkg 2) := by decide

theorem test_words_vload :
    decode 0x1C054ABA = some (.vld 21 10 .coresel .w8 4 2) ∧ decode 0x3DB54ABA = some (.vlds 21 10 27 .coresel .w8 4 2) ∧
    decode 0x5DB54ABA = some (.vldx 21 10 27 .coresel .w8 4 2) := by decide

theorem test_words_vstore :
    decode 0x1C054ABE = some (.vst 21 10 .coresel .w8 4 2) ∧ decode 0x3DB54ABE = some (.vsts 21 10 27 .coresel .w8 4 2) ∧
    decode 0x5DB54ABE = some (.vstx 21 10 27 .coresel .w8 4 2) := by decide

theorem test_words_vint :
    decode 0x05B54AC2 = some (.vadd 21 10 27 .w8 4 2) ∧ decode 0x0DB54AC2 = some (.vsub 21 10 27 .w8 4 2) ∧
    decode 0x15B54AC2 = some (.vmul 21 10 27 .w8 4 2) ∧ decode 0x1DB54AC2 = some (.vmulh 21 10 27 .w8 4 2) ∧
    decode 0x25B54AC2 = some (.vmulhu 21 10 27 .w8 4 2) ∧ decode 0x2DB54AC2 = some (.vmin 21 10 27 .w8 4 2) ∧
    decode 0x35B54AC2 = some (.vmax 21 10 27 .w8 4 2) ∧ decode 0x3DB54AC2 = some (.vminu 21 10 27 .w8 4 2) ∧
    decode 0x45B54AC2 = some (.vmaxu 21 10 27 .w8 4 2) ∧ decode 0x4DB54AC2 = some (.vand 21 10 27 .w8 4 2) ∧
    decode 0x55B54AC2 = some (.vor 21 10 27 .w8 4 2) ∧ decode 0x5DB54AC2 = some (.vxor 21 10 27 .w8 4 2) ∧
    decode 0x65B54AC2 = some (.vsll 21 10 27 .w8 4 2) ∧ decode 0x6DB54AC2 = some (.vsrl 21 10 27 .w8 4 2) ∧
    decode 0x75B54AC2 = some (.vsra 21 10 27 .w8 4 2) ∧ decode 0x7DB54AC2 = some (.vaddS 21 10 27 .w8 4 2) ∧
    decode 0x85B54AC2 = some (.vsubS 21 10 27 .w8 4 2) ∧ decode 0x8DB54AC2 = some (.vadduS 21 10 27 .w8 4 2) ∧
    decode 0x95B54AC2 = some (.vsubuS 21 10 27 .w8 4 2) ∧ decode 0x9DB54AC2 = some (.vmacc 21 10 27 .w8 4 2) ∧
    decode 0xA5B54AC2 = some (.vsel 21 10 27 .w8 4 2) ∧ decode 0xAC054AC2 = some (.vbcast 21 10 .w8 4 2) ∧
    decode 0xC7B54342 = some (.vcmpeq 6 10 27 .w64 4 2) ∧ decode 0xCFB54342 = some (.vcmpne 6 10 27 .w64 4 2) ∧
    decode 0xD7B54342 = some (.vcmplt 6 10 27 .w64 4 2) ∧ decode 0xDFB54342 = some (.vcmple 6 10 27 .w64 4 2) ∧
    decode 0xE7B54342 = some (.vcmpltu 6 10 27 .w64 4 2) ∧ decode 0xEFB54342 = some (.vcmpleu 6 10 27 .w64 4 2) := by decide

theorem test_words_vfp :
    decode 0x03B54AC6 = some (.vfadd 21 10 27 .bf16 4 2) ∧ decode 0x0BB54AC6 = some (.vfsub 21 10 27 .bf16 4 2) ∧
    decode 0x13B54AC6 = some (.vfmul 21 10 27 .bf16 4 2) ∧ decode 0x1BB54AC6 = some (.vfdiv 21 10 27 .bf16 4 2) ∧
    decode 0x23B54AC6 = some (.vfmin 21 10 27 .bf16 4 2) ∧ decode 0x2BB54AC6 = some (.vfmax 21 10 27 .bf16 4 2) ∧
    decode 0x33B54AC6 = some (.vfma 21 10 27 .bf16 4 2) ∧ decode 0x3A054AC6 = some (.vfsqrt 21 10 .bf16 4 2) ∧
    decode 0x42054AC6 = some (.vfexp2 21 10 .bf16 4 2) ∧ decode 0x4A054AC6 = some (.vfabs 21 10 .bf16 4 2) ∧
    decode 0x52054AC6 = some (.vfneg 21 10 .bf16 4 2) ∧ decode 0x5BB54AC6 = some (.vfsgnj 21 10 27 .bf16 4 2) ∧
    decode 0xC1B54346 = some (.vfcmpeq 6 10 27 4 2) ∧ decode 0xC9B54346 = some (.vfcmplt 6 10 27 4 2) ∧
    decode 0xD1B54346 = some (.vfcmple 6 10 27 4 2) ∧ decode 0xD9B54346 = some (.vfcmpun 6 10 27 4 2) := by decide

theorem test_words_vcvt :
    decode 0x02054ACA = some (.vcvtF32Bf16 21 10 1 4 2) ∧ decode 0x0A054ACA = some (.vcvtF32F16 21 10 1 4 2) ∧
    decode 0x12354ACA = some (.vcvtBf16F32 21 10 1 .rup 4 2) ∧ decode 0x1A354ACA = some (.vcvtF16F32 21 10 1 .rup 4 2) ∧
    decode 0x24054ACA = some (.vcvtF32E4m3 21 10 2 4 2) ∧ decode 0x2C054ACA = some (.vcvtF32E5m2 21 10 2 4 2) ∧
    decode 0x34354ACA = some (.vcvtE4m3F32 21 10 2 .rup 4 2) ∧ decode 0x3C354ACA = some (.vcvtE5m2F32 21 10 2 .rup 4 2) ∧
    decode 0x40354ACA = some (.vcvtBf16F16 21 10 .rup 4 2) ∧ decode 0x48354ACA = some (.vcvtF16Bf16 21 10 .rup 4 2) ∧
    decode 0x80354ACA = some (.vcvtF32I32 21 10 .rup 4 2) ∧ decode 0x88354ACA = some (.vcvtF32U32 21 10 .rup 4 2) ∧
    decode 0x90354ACA = some (.vcvtI32F32 21 10 .rup 4 2) ∧ decode 0x98354ACA = some (.vcvtU32F32 21 10 .rup 4 2) ∧
    decode 0xA2054ACA = some (.vcvtF32I16 21 10 1 4 2) ∧ decode 0xAC054ACA = some (.vcvtF32I8 21 10 2 4 2) ∧
    decode 0xB2354ACA = some (.vcvtI16F32 21 10 1 .rup 4 2) ∧ decode 0xBC354ACA = some (.vcvtI8F32 21 10 2 .rup 4 2) ∧
    decode 0xC2054ACA = some (.vcvtI32I16 21 10 1 4 2) ∧ decode 0xCC054ACA = some (.vcvtI32I8 21 10 2 4 2) ∧
    decode 0xD2054ACA = some (.vcvtI16I32 21 10 1 4 2) ∧ decode 0xDC054ACA = some (.vcvtI8I32 21 10 2 4 2) := by decide

theorem test_words_vperm :
    decode 0x04054ACE = some (.vredsum 21 10 .w8 4 2) ∧ decode 0x0C054ACE = some (.vredmin 21 10 .w8 4 2) ∧
    decode 0x14054ACE = some (.vredmax 21 10 .w8 4 2) ∧ decode 0x1C054ACE = some (.vredminu 21 10 .w8 4 2) ∧
    decode 0x24054ACE = some (.vredmaxu 21 10 .w8 4 2) ∧ decode 0x2A054ACE = some (.vfredsum 21 10 .bf16 4 2) ∧
    decode 0x32054ACE = some (.vfredmin 21 10 .bf16 4 2) ∧ decode 0x3A054ACE = some (.vfredmax 21 10 .bf16 4 2) ∧
    decode 0x43B54ACE = some (.vscan 21 10 27 true 4 2) ∧ decode 0x4BB54ACE = some (.vfscan 21 10 27 .bf16 4 2) ∧
    decode 0x55B54ACE = some (.vcompress 21 10 27 .w8 4 2) ∧ decode 0x5DB54ACE = some (.vpermx 21 10 27 .w8 4 2) ∧
    decode 0x65B54ACE = some (.vslide 21 10 27 .w8 4 2) ∧ decode 0x8051834E = some (.vmand 6 3 5 2) ∧
    decode 0x8851834E = some (.vmor 6 3 5 2) ∧ decode 0x9051834E = some (.vmxor 6 3 5 2) ∧
    decode 0x9851834E = some (.vmandn 6 3 5 2) ∧ decode 0xA001834E = some (.vmnot 6 3 2) ∧
    decode 0xA8018ACE = some (.vmpopc 21 3 2) ∧ decode 0xB0018ACE = some (.vmfirst 21 3 2) ∧
    decode 0xB8018ACE = some (.vmtox 21 3 2) ∧ decode 0xC005034E = some (.vxtom 6 10 2) ∧
    decode 0xCDB50ACE = some (.vextr 21 10 27 .w8 2) ∧ decode 0xD5B50ACE = some (.vins 21 10 27 .w8 2) := by decide

theorem test_words_stream :
    decode 0x00000ED2 = some (.sbind 5 2) ∧ decode 0x08000ED2 = some (.sclose 5 2) := by decide

theorem test_words_event :
    decode 0x01B50056 = some (.evsend 10 27 2) ∧ decode 0x03B50AD6 = some (.evsendnb 21 10 27 2) ∧
    decode 0x04050B56 = some (.evpop 11 10 2) ∧ decode 0x07B50056 = some (.evmc 10 27 2) ∧
    decode 0x09B54AD6 = some (.sdq 21 27 10 4 2) := by decide

theorem test_words_task :
    decode 0x0000005A = some (.exit 2) ∧ decode 0x03B5005A = some (.spawn 10 27 2) ∧ decode 0x05B5005A = some (.migr 10 27 2) ∧
    decode 0x0600005A = some (.yield 2) ∧ decode 0x09A50ADA = some (.jobcard 21 5 13 2) := by decide

theorem test_words_sync :
    decode 0x01B50ADE = some (.barinit 21 10 27 2) ∧ decode 0x02050ADE = some (.bararv 21 10 2) ∧
    decode 0x05B5005E = some (.barwait 10 27 2) ∧ decode 0x0605005E = some (.barsync 10 2) ∧
    decode 0x0005105E = some (.tarm 10 2) ∧ decode 0x0205105E = some (.tclr 10 2) ∧ decode 0x04051ADE = some (.twany 21 10 2) ∧
    decode 0x0605105E = some (.twall 10 2) ∧ decode 0x08051ADE = some (.tffr 21 10 2) ∧
    decode 0x01B5205E = some (.cntwaitge 10 27 2) := by decide

theorem test_words_matrix :
    decode 0x00055062 = some (.mset .mdrh 10 2) ∧ decode 0x02005AE2 = some (.mget 21 .mdrh 2) ∧
    decode 0x05B50AE2 = some (.mloadw 21 10 27 2) ∧ decode 0x07B50AE2 = some (.mmul 21 10 27 2) ∧
    decode 0x08050AE2 = some (.evmac 21 10 2) ∧ decode 0x0A050AE2 = some (.mdrain 21 10 2) ∧
    decode 0x0C050AE2 = some (.mzero 21 10 2) ∧ decode 0x0E050AE2 = some (.mchk 21 10 2) := by decide

theorem test_words_copy :
    decode 0x01A50066 = some (.cpush 5 13 2) ∧ decode 0x03A50AE6 = some (.cpushnb 21 5 13 2) := by decide

theorem test_words_slice :
    decode 0x01A50AEA = some (.gather 21 5 13 2) ∧ decode 0x03A50AEA = some (.scatadd 21 5 13 2) ∧
    decode 0x05A50AEA = some (.bin 21 5 13 2) := by decide

theorem test_words_net :
    decode 0x01A50AEE = some (.get 21 5 13 2) ∧ decode 0x03A50AEE = some (.put 21 5 13 2) ∧
    decode 0x05A50AEE = some (.redcopy 21 5 13 2) ∧ decode 0x07A50AEE = some (.ramo 21 5 13 2) := by decide

/-! ### States for the tests -/

/-- A context that issues: x5 = 9, x6 = 4096, x7 = 2^63 + 3. -/
def ctxA : Ctx := { run := .ready, x := [(5, 9), (6, 4096), (7, 0x8000000000000003)] }

/-- A machine whose context 0 of compute core 0 issues. -/
def mk (x : Ctx) : State := { State.reset with cores := [(0, { ctxs := [(0, x)] })] }

/-- The same with an entry of the core's TLB that maps the page of address 0 to itself. -/
def mkMem (x : Ctx) (pte : Word) : State := { State.reset with cores := [(0, { ctxs := [(0, x)], tlb := [⟨0, 0, false, pte⟩] })] }

/-- The first machine on a cluster whose scratchpads hold 128 KiB. -/
def mkPad (x : Ctx) : State := { mk x with clusters := [(0, { split := 8 })] }

/-- A machine whose context 0 of the service core of cluster 0 issues. -/
def mkSvc (x : Ctx) : State := { State.reset with cores := [(8192, { ctxs := [(0, x)] })], focus := 8192 }

/-- A context of a service core with every privilege. -/
def ctxS : Ctx := { ctxA with status := 7 }

/-- A pending write of x5 that takes effect at time 4. -/
def late5 : Pending := { file := .x, reg := 5, eff := 4, val := 1 }

/-! ### Witnesses of the hypotheses: scalar instructions -/

theorem test_meets_OpImmResults : (mk ctxA).me.hazard { reads := [useX 5], writes := [useX 6], lat := 1 } = none ∧
    (0x100 : BitVec 12) > 0x0FF ∧ (3 : BitVec 12) > 0x002 := by decide

theorem test_meets_OpResults : (mk ctxA).me.hazard { reads := [useX 5, useX 6], writes := [useX 7], lat := 3 } = none ∧
    (mk ctxA).me.hazard { reads := [useX 5, useX 6], writes := [useX 7] } = none ∧ (5 : BitVec 7) < 6 ∧
    (0 : BitVec 7) < 1 ∧ (3 : BitVec 3) < 4 := by decide

theorem test_meets_WordOpResults : (mk ctxA).me.hazard { reads := [useX 5, useX 6], writes := [useX 7], lat := 1 } = none ∧
    (0x05F : BitVec 12) < 0x060 ∧ (5 : BitVec 7) < 6 := by decide

theorem test_meets_BranchAndJumpResults :
    (mk ctxA).me.hazard { reads := [useX 5, useX 6] } = none ∧ (mk ctxA).me.rx 5 ≠ (mk ctxA).me.rx 6 ∧
    (mk ctxA).me.rx 5 = (mk ctxA).me.rx 5 ∧ ((mk ctxA).me.rx 7).toInt < ((mk ctxA).me.rx 5).toInt ∧
    ((mk ctxA).me.rx 5).toNat < ((mk ctxA).me.rx 7).toNat ∧
    (mk ctxA).me.hazard { reads := [useX 5], writes := [useX 1], lat := 1 } = none := by decide

theorem test_meets_RegisterWrites : (1 : Nat) ≠ 0 ∧
    ¬ ({ ctxA with pend := [late5] } : Ctx).PendsBetween .x 5 4 9 ∧ ({ ctxA with pend := [late5] } : Ctx).PendsBetween .x 5 3 4 := by
  refine ⟨by decide, ?_, late5, List.mem_cons_self, rfl, rfl, by decide, by decide⟩
  rintro ⟨p, hp, -, -, h, -⟩
  rw [List.mem_singleton.1 hp] at h
  exact absurd h (by decide)

/-- Some meanings answer a next state whatever the state. -/
theorem execAddi_next (s : State) : ∃ t, exec (.addi 3 5 1 0) s = .next t := ⟨_, rfl⟩
theorem execBne_next (s : State) : ∃ t, exec (.bne 5 6 2 0) s = .next t := ⟨_, rfl⟩

theorem test_meets_ScalarFrames :
    resultReg (.addi 3 5 1 0) = some 3 ∧ isBranch (.bne 5 6 2 0) = true ∧
    (∃ t, exec (.addi 3 5 1 0) (mk ctxA) = .next t) ∧ ∃ t, exec (.bne 5 6 2 0) (mk ctxA) = .next t :=
  ⟨rfl, rfl, execAddi_next _, execBne_next _⟩

/-- x5 is late for a read of it, and for a one-cycle write of it by an instruction that reads x6 alone; a use of x6 alone meets no stall. -/
theorem test_meets_StallTrap :
    let c : Ctx := { ctxA with stlchk := true, pend := [late5] }
    c.StallsOn { reads := [useX 5, useX 6], writes := [useX 7], lat := 1 } 5 ∧
    c.StallsOn { reads := [useX 6], writes := [useX 5], lat := 1 } 133 ∧
    ∀ w, ¬ c.StallsOn { reads := [useX 6], writes := [useX 7] } w := by
  have late : ∀ t r, Ctx.Late { ctxA with stlchk := true, pend := [late5] } t r ↔ r = useX 5 ∧ t < 4 := by
    intro t r
    constructor
    · rintro ⟨-, p, hp, hf, hr, ht⟩
      obtain rfl := List.mem_singleton.1 hp
      exact ⟨Prod.ext hf.symm hr.symm, ht⟩
    · rintro ⟨rfl, ht⟩
      exact ⟨.inr (by decide), late5, List.mem_cons_self, rfl, rfl, ht⟩
  refine ⟨⟨rfl, .inl ⟨useX 5, ⟨List.mem_cons_self, (late _ _).2 ⟨rfl, by decide⟩, ?_⟩, rfl⟩⟩,
    ⟨rfl, .inr ⟨?_, by decide, useX 5, ⟨List.mem_cons_self, (late _ _).2 ⟨rfl, by decide⟩, ?_⟩, rfl⟩⟩, ?_⟩
  · rintro q - hq
    rw [((late _ _).1 hq).1]
  · rintro q hq hl
    rw [List.mem_singleton.1 hq] at hl
    exact absurd ((late _ _).1 hl).1 (by decide)
  · rintro q - hq
    rw [((late _ _).1 hq).1]
  · rintro w ⟨-, ⟨r, ⟨hr, hl, -⟩, -⟩ | ⟨-, h0, -⟩⟩
    · rw [List.mem_singleton.1 hr] at hl
      exact absurd ((late _ _).1 hl).1 (by decide)
    · exact absurd rfl h0

theorem test_meets_TrapEntry : isSvc (mk ctxA).focus = false ∧ isSvc (mkSvc ctxS).focus = true ∧ (31 : Nat) < 32 ∧
    isSvc 8191 = false ∧ isSvc 8192 = true := by decide

theorem test_meets_TrapsOfInstructions :
    (mk ctxA).me.run = .ready ∧ decode 0 = none ∧ svcLacks 0x04192280 = false ∧ svcLacks 0x00000040 = true ∧
    (mk { ctxA with pc := 0x1000000000000 }).fetch = .denied ∧ (mkMem ctxA (openPte 0 false ||| 16)).fetch = .absent ∧
    (mk ctxA).fetch = .miss := by decide

/-! ### Loads, stores and atomics -/

theorem test_meets_AddressesAndTranslation :
    (9 : Word).toNat % 4 ≠ 0 ∧ isSvc (mk ctxA).focus = false ∧ 16384 * (mkPad ctxA).myCluster.split = 131072 ∧
    (131064 : Word).toNat % 2 ^ 17 < 131072 ∧
    16384 * (mk ctxA).myCluster.split ≤ (0 : Word).toNat % 2 ^ 17 ∧ (mkPad ctxA).reach .clust .read 0x108 4 = .ok (.pad 2 0x40) ∧
    (mkMem ctxA (openPte 0 false)).tlbHit 0 0 0x1000 = some (openPte 0 false) ∧
    (mkMem ctxA (openPte 0 false ||| 1)).tlbHit 0 0 0x1FFFFF = some (openPte 0 false ||| 1) ∧
    (mkMem ctxA (3 <<< 62 : Word)).tlbHit 0 0 0 = some (3 <<< 62 : Word) ∧ (mkMem ctxA 16).tlbHit 0 0 0 = some 16 ∧
    (mkMem ctxA (openPte 0 false ||| 16)).tlbHit 0 0 0 = some (openPte 0 false ||| 16) := by decide

/-- A TLB entry for a generator window of descriptor 0, and one for the memory of package 1. -/
def genPte : Word := 1 <<< 62 ||| 8
def farPte : Word := 2 <<< 62 ||| 1 <<< 55 ||| 14

/-- Descriptor 0 is a RAMP of rows of one element. -/
def ctxG : Ctx := { ctxA with gens := [(1, 4)] }

/-- A machine in a domain of two packages that reaches package 1 at address 0. -/
def mkFar (x : Ctx) : State := { mkMem x farPte with domain := [0, 1] }

/-- A read stream of flat addresses. -/
def strF : Stream := { w0 := 0, w1 := 0x100010001, w2 := 64, w3 := 0 }

/-- What issued stream reads come to. -/
def reads (s : State) (all : Bool) : Bool :=
  match s.readsBefore all with
  | .on _ => true
  | .stop _ => false

/-- A service core whose window is open on context 0 of core 4, which a trap has frozen. -/
def mkWin (w : BitVec 17) : State :=
  { State.reset with
    cores := [(4, { ctxs := [(0, { ctxA with run := .trapped, epc := 64 })] }),
      (8192, { ctxs := [(0, { ctxS with ctxwin := w, x := [(6, 32)] })] })]
    focus := 8192
    clusters := [(1, { trappair := 0 })] }

theorem test_meets_Loads :
    (mkMem ctxA (openPte 0 false)).me.hazard { reads := [useX 9], writes := [useX 5] } = none ∧
    (mkMem ctxA (openPte 0 false)).reach .flat .read 0x1FFFFF 1 = .ok (.mem 0x1FFFFF) ∧
    poisonedAt (mkMem ctxA (openPte 0 false)).poison 0x1FFFFF 1 = false ∧
    (mkPad ctxA).reach .own .read 131064 8 = .ok (.pad 0 131064) ∧ poisonedAt ((mkPad ctxA).core 0).padPoison 131064 8 = false ∧
    (mkSvc ctxS).reach .own .read 32760 8 = .ok (.svc 32760) ∧ poisonedAt (mkSvc ctxS).myCore.padPoison 32760 8 = false ∧
    (mkMem ctxG genPte).reach .flat .read 8 4 = .ok (.gen 0) ∧ (genDesc ctxG.gens 0).valid 0 = true ∧
    (mkWin 0x10020).reach .own .read 0x10028 8 = .ok (.window 0x10028) ∧ (mkWin 0x10020).windowRead 0x10028 8 = some 9 ∧
    (mkFar { ctxA with remoteVals := [7] }).reach .flat .read 8 8 = .ok (.remote 1) ∧ (mkSvc ctxS).reach .own .read 32768 8 = .trap 3 32768 := by decide

theorem test_meets_StoreResults :
    (mkMem ctxA (openPte 0 false)).me.hazard { reads := [useX 9, useX 5] } = none ∧
    (mkMem ctxA (openPte 0 false)).reach .flat .write 0x1FFFF8 8 = .ok (.mem 0x1FFFF8) ∧
    (mkPad ctxA).reach .clust .write 0x7FFFC 4 = .ok (.pad 3 131068) ∧
    (mkSvc ctxS).reach .own .write 0 8 = .ok (.svc 0) ∧
    (mkWin 0x10020).reach .own .write 0x18008 8 = .ok (.window 0x18008) ∧
    ((mkWin 0x10020).windowWrite 0x18008 8 5).isSome = true ∧
    (1 : Nat) ≠ (mkFar ctxA).pkg ∧ (mkFar ctxA).reach .flat .write 8 4 = .ok (.remote 1) := by decide

theorem test_meets_ScalarAccessStops :
    (mkPad ctxA).reach .own .read 3 8 = .trap 2 3 ∧ (mkMem ctxA 0).reach .flat .read 8 8 = .trap 3 8 ∧
    (mkMem ctxG genPte).translate 0 0 false .write 8 = .gen 0 ∧ (mkMem ctxG genPte).reach .flat .write 8 4 = .trap 6 8 ∧
    (mkMem ctxA (openPte 0 false ||| 16)).reach .flat .read 8 8 = .absent 8 ∧ (mk ctxA).reach .flat .write 8 8 = .miss .write 8 ∧
    (mkMem ctxA (openPte 0 false)).me.hazard { reads := [useX 5, useX 6], writes := [useX 7] } = none ∧
    (mkFar ctxA).translate 0 0 false .readWrite 4096 = .remote 1 ∧
    (mkMem ctxG (genPte ||| 4)).translate 0 0 false .readWrite 4096 = .gen 0 ∧
    (mkMem ctxA (openPte 0 false ||| 16)).translate 0 0 false .readWrite 4096 = .absent ∧
    (mk ctxA).translate 0 0 false .readWrite 4096 = .miss ∧ (mkMem ctxA 0).translate 0 0 false .readWrite 4096 = .fault ∧
    (mkMem ctxA (openPte 0 false)).reachAt (amoHolder .die 0) .flat .readWrite 4096 8 = .ok (.mem 4096) ∧
    poisonedAt ({ mkMem ctxA (openPte 0 false) with poison := [512] } : State).poison 4096 8 = true ∧
    ({ mkMem ctxA (openPte 0 false) with lines := [(32, { active := some 1 })] } : State).reachAt ioHolder .flat .readWrite 4096 8 =
      .line ioHolder 32 true := by decide

/-- The same for LR, a poisoned word, a held line, and the window of a service core. -/
theorem test_meets_ScalarAccessStops_more :
    let m := mkMem ctxA (openPte 0 false)
    let h := { m with lines := [(0, { held := [{ holder := 1, core := 256, ctx := 0, since := 0 }], tokens := [(1, 64)], owner := some 1, valid := [1] })] }
    m.me.hazard { reads := [useX 6], writes := [useX 7] } = none ∧ (9 : Word).toNat % 4 ≠ 0 ∧
    (mkFar ctxA).translate 0 0 false .read 4096 = .remote 1 ∧ (mkMem ctxA 0).translate 0 0 false .read 4096 = .fault ∧
    (mkMem ctxA (openPte 0 false ||| 16)).translate 0 0 false .read 4096 = .absent ∧ (mk ctxA).translate 0 0 false .read 4096 = .miss ∧
    (mkMem ctxA genPte).translate 0 0 false .read 8 = .gen 0 ∧ (mkMem ctxA genPte).genRead 0 ctxA.gens 0 8 8 = none ∧
    m.reach .flat .read 4096 8 = .ok (.mem 4096) ∧ poisonedAt ({ m with poison := [512] } : State).poison 4096 8 = true ∧
    h.reach .flat .read 8 8 = .line 0 0 false ∧ h.reach .flat .write 8 8 = .line 0 0 true ∧ reads m false = true ∧ reads m true = true ∧
    h.reachAt (amoHolder .die 0) .flat .read 8 8 = .line 0 0 false ∧
    (mkSvc ctxS).reach .own .read 0x10000 8 = .ok (.window 0x10000) ∧ (mkSvc ctxS).window 0x10000 = none := by decide

theorem test_meets_AtomicResults :
    (mkMem ctxA (openPte 0 false)).me.hazard { reads := [useX 6, useX 5], writes := [useX 7] } = none ∧
    (mkMem ctxA (openPte 0 false)).reach .flat .readWrite ((mkMem ctxA (openPte 0 false)).me.rx 6) 8 = .ok (.mem 4096) ∧
    poisonedAt (mkMem ctxA (openPte 0 false)).poison 4096 8 = false ∧ reads (mkMem ctxA (openPte 0 false)) true = true := by decide

/-- The reads that a context has issued can be made, or one of them misses the TLBs. -/
theorem test_meets_AtomicResults_reads :
    reads (mkPad { ctxA with streams := [(0, { strF with w0 := 1 <<< 48 })] }) true = true ∧ reads (mk { ctxA with streams := [(0, strF)] }) true = false ∧
    reads (mk { ctxA with streams := [(0, strF)] }) false = true := by decide

theorem test_meets_ReservationsAndFences :
    let s := mkMem { ctxA with reserve := some 32 } (openPte 0 false)
    s.me.hazard { reads := [useX 6, useX 5], writes := [useX 7] } = none ∧ s.me.reserve = some (4096 / 128) ∧
    s.reach .flat .readWrite (s.me.rx 6) 4 = .ok (.mem 4096) ∧ (mk ctxA).me.reserve ≠ some (4096 / 128) ∧
    s.reach .flat .read (s.me.rx 6) 8 = .ok (.mem 4096) ∧
    (mkMem { ctxG with x := [(6, 8)] } genPte).reach .flat .read 8 8 = .ok (.gen 0) ∧
    s.storesOutstanding 0 0 = false ∧ (mk { ctxA with stores := [⟨1, 1, 0, 0, 0, 0⟩] }).storesOutstanding 0 0 = true ∧
    s.classBusy 0 0 1 = false ∧ s.me.deferred = [] ∧ (mk { ctxA with stores := [⟨1, 1, 0, 0, 0, 0⟩] }).classBusy 0 0 1 = true ∧
    (1 : BitVec 6) ≠ 0 ∧ FenceScope.die ≠ .dom ∧ s.lineBlocked (vdnOf 0) 32 true = false ∧
    s.reachAt (amoHolder .die 0) .flat .readWrite (s.me.rx 6) 4 = .ok (.mem 4096) ∧
    reads s true = true ∧ reads (mk { ctxA with streams := [(0, strF)] }) true = false ∧
    s.reachAt (amoHolder .die 0) .flat .read (s.me.rx 6) 8 = .ok (.mem 4096) ∧
    ({ s with lines := [(32, { held := [{ holder := 1, core := 256, ctx := 0, since := 0 }] })] } : State).lineBlocked 0 32 true
      (some (0, 0)) = true ∧
    (mkMem ctxG genPte).genRead 0 ctxG.gens 0 8 8 ≠ none := by decide

/-- A deferred refusal of a store, and one of a request of class CP. -/
def lostStore : Deferred := { ord := 1, why := .refusal 64, tag := none, counter := 0, cls := clsLS, store := true }
def lostCopy : Deferred := { lostStore with ord := 2, why := .access 4096, cls := 2, store := false }

theorem test_meets_ReservationsAndFences_late :
    let s := mk { ctxA with deferred := [lostStore, lostCopy] }
    lostStore ∈ s.me.deferred ∧ lostCopy ∈ s.me.deferred ∧ lostStore.store = true ∧ lostStore.ord < lostCopy.ord ∧
    s.storesOutstanding 0 0 = false ∧ s.classBusy 0 0 2 = false ∧ lostCopy.cls ≠ clsMX ∧ lostCopy.cls &&& 2 ≠ 0 ∧
    lostStore.cls &&& 2 = 0 := by decide

/-! ### CSRs and system functions -/

theorem test_meets_CsrForms :
    csrAssigned (isSvc 0) 0x001 = true ∧ csrReadOnly 0x001 = false ∧ csrSupervisor 0x001 = false ∧
    csrAssigned (isSvc 0) 0x400 = true ∧ csrReadOnly 0x400 = true ∧ csrAssigned (isSvc 0) 0x800 = true ∧
    csrSupervisor 0x800 = true ∧ (mk ctxA).me.sup = false ∧ (mkSvc ctxS).me.sup = true ∧ csrAssigned (isSvc 0) 0x003 = false ∧
    0x800 / 2 ^ 11 % 2 = 1 ∧ 0x800 / 2 ^ 10 % 2 = 0 ∧ 0x400 / 2 ^ 10 % 2 = 1 ∧
    (mk ctxA).me.hazard { reads := [useX 5], writes := [useX 7] } = none ∧ (5 : Reg) ≠ 0 ∧ (3 : BitVec 5) ≠ 0 ∧
    ¬ (0x001 : Nat) / 2 ^ 10 % 2 = 1 := by decide

theorem test_meets_CsrValues :
    csrRwBits (isSvc 0) 0x001 = some 0xF ∧ csrAssigned (isSvc 0) 0x002 = true ∧ 0x002 ≠ 0x001 ∧ isSvc 0 = false ∧
    (0x7FFF : Nat) < 2 ^ 15 ∧ State.reset.mapped 31 = true ∧ ({ State.reset with vdns := [] }).mapped 0 = false ∧
    (1 <<< 63 : Word).getLsbD 63 = true ∧ (1 <<< 63 : Word).toNat / 2 ^ 51 % 2 ^ 7 = 0 ∧
    partSum (((mk ctxA).core 0).chtab.put 0 63 (1 <<< 51 : Word)) ≤ 256 := by decide

theorem test_meets_CsrStepsAndWindow :
    (mk ctxA).hasCompute 0 = true ∧ (mk ctxA).hasCompute 8191 = true ∧ (63 : Nat) < 64 ∧ (mk ctxA).hasCtx 0 7 = true ∧
    (mk ctxA).hasCluster 2047 = true ∧ (mk ctxA).hasCtx 8192 1 = true ∧ (mk ctxA).hasCtx 8192 2 = false ∧ isSvc 8192 = true ∧
    (mk ctxA).hasCore 10239 = true ∧ (mk ctxA).hasCore 10240 = false ∧
    (mkWin 0xFFFF).me.ctxwin.toNat < 2 ^ 16 ∧ 2 ^ 16 ≤ (mkWin 0x10020).me.ctxwin.toNat ∧
    (mkWin 0x10020).mapped (vdnOf 4) = true ∧ ((mkWin 0x10020).ctx 4 0).run = .trapped ∧
    csrAssigned false 0x001 = true ∧ csrShared 0x001 = false ∧ csrAssigned false 0x840 = true ∧ csrShared 0x840 = true ∧
    ((mkWin 0x10020).windowRead 0x100F8 8).isSome = true ∧ ((mkWin 0x10020).windowRead 0x10100 8).isSome = true ∧
    ((mkWin 0x10020).windowRead 0x108F8 8).isSome = true ∧ ((mkWin 0x10020).windowRead 0x10938 8).isSome = true := by decide

/-- The same window where the context is trapped in a saved coach of its cluster. -/
def mkWinSaved : State :=
  let co : Coach := { lid := 5, slot := 0, asid := 1, kp := 0x200, cap := 2, grant := 3, tile := 0, predl := 0, state := .saved
                      saved := { ctxs := [(0, { ctxA with run := .trapped, epc := 64 })], base := 8192 } }
  { mkWin 0x10020 with
    cores := [(8192, { ctxs := [(0, { ctxS with ctxwin := 0x10020, x := [(6, 32)] })] })]
    clusters := [(1, { trappair := 0, coaches := [co] })] }

/-- A window of an unmapped VDN; one whose target runs; a CSR that contexts share and ones of their own; a cursor's offset. -/
theorem test_meets_CsrStepsAndWindow_denied :
    let run := (mkWin 0x10020).updCtx 4 0 fun x => { x with run := .ready }
    (({ mkWin 0x10020 with vdns := [] } : State).mapped (vdnOf 4) = false) ∧ (run.ctx 4 0).run ≠ .trapped ∧
    (run.cluster (clusterOf 4)).savedTrapped (slotOf 4 0) = none ∧ csrAssigned false 0xFFF = false ∧ csrReadOnly 0x400 = true ∧
    csrShared 0x400 = false ∧ csrReadOnly 0x001 = false ∧ ((mkWin 0x10020).windowWrite 0x10940 8 5).isSome = true ∧
    ((mkWin 0x10020).windowWrite 0x10138 8 5).isSome = true ∧ (mkWin 0x10020).windowRead 0x10980 8 = none := by decide

theorem test_meets_CsrStepsAndWindow_saved :
    (mkWinSaved.ctx 4 0).run ≠ .trapped ∧ ((mkWinSaved.cluster (clusterOf 4)).savedTrapped (slotOf 4 0)).isSome = true ∧
    mkWinSaved.mapped (vdnOf 4) = true ∧ 2 ^ 16 ≤ mkWinSaved.me.ctxwin.toNat ∧ (mkWinSaved.windowWrite 0x100F8 8 5).isSome = true ∧
    (mkWinSaved.windowRead 0x10978 8).isSome = true := by decide

/-- A machine with an event of channel 5 in core 0's queue. -/
def mkEvent (x : Ctx) : State :=
  { State.reset with cores := [(0, { ctxs := [(0, x)], queue := [{ index := 1, sum := 2, channel := 5, count := 1, seq := 0, src := 0 }] })] }

theorem test_meets_WaitForEvent :
    let s := mkEvent { ctxA with x := [(5, 0x20), (6, 0x10)] }
    isSvc s.focus = false ∧ s.me.hazard { reads := [useX 5], writes := [useX 7] } = none ∧
    (s.me.rx 5).getLsbD 5 = true ∧ (∃ e ∈ s.myCore.queue, e.channel.toNat = 5) ∧
    (∀ d < 5, ¬ ∃ e ∈ s.myCore.queue, e.channel.toNat = d) ∧
    (∀ ch < 64, ¬ ((s.me.rx 6).getLsbD ch = true ∧ ∃ e ∈ s.myCore.queue, e.channel.toNat = ch)) ∧
    (mkEvent { ctxA with preq := true }).me.preq = true ∧ isSvc (mkSvc ctxS).focus = true ∧
    (mkSvc ctxS).me.run = .ready ∧ (mkSvc ctxS).me.hazard { writes := [useX 7] } = none ∧ (mkSvc ctxS).myCluster.notices = [] ∧
    ({ mkSvc ctxS with clusters := [(0, { notices := [7] })] } : State).myCluster.notices = 7 :: [] ∧
    (∀ b < (mkSvc ctxS).active, ((mkSvc ctxS).ctx 8192 b).run ≠ .waiting .notice) ∧
    ({ State.reset with cores := [(8192, { ctxs := [(0, { ctxS with run := .waiting .notice }), (1, ctxS)] })], focus := 8192, active := 1 }
      : State).active = 1 := by decide

theorem test_meets_PrioAndTlb :
    let s := mkSvc { ctxS with x := [(5, 0x200), (6, openPte 0 true), (7, 3)] }
    s.me.status.getLsbD 0 = true ∧ s.me.status.getLsbD 1 = true ∧ (mk ctxA).me.status.getLsbD 0 = false ∧
    s.me.hazard { reads := [useX 5, useX 6] } = none ∧ tagWordOk (s.me.rx 5) = true ∧ pteOk s.pkg true (s.me.rx 6) = true ∧
    (s.me.rx 5).getLsbD 9 = true ∧ tagWordOk (s.me.rx 7) = false ∧ 2 < (s.me.rx 7).toNat ∧ (s.me.rx 0).toNat ≤ 2 ∧
    s.usesRemoved 0 0 2 = false ∧ s.me.run = .ready ∧
    ({ s with cores := [(0, { ctxs := [(0, { ctxA with stores := [⟨1, 0, 0, 1, 0, 0⟩] })],
                              tlb := [⟨0, 0, false, farPte⟩] })] } : State).usesRemoved 0 0 2 = true := by decide

theorem test_meets_ResumeAndKill :
    let s := mkWin 0
    isSvc s.focus = true ∧ s.me.status.getLsbD 0 = true ∧ s.me.status.getLsbD 2 = true ∧
    s.me.hazard { reads := [useX 6], writes := [useX 7] } = none ∧
    (s.me.rx 6).toNat / 8 % 2 ^ 13 = 4 ∧ s.mapped (vdnOf 4) = true ∧ s.buddyOf 4 = clusterOf s.focus ∧
    (s.ctx 4 0).run = .trapped ∧ s.isFrozen 4 (s.ctx 4 0) = false ∧ s.trappedAt 4 1 = none ∧
    s.buddyOf 8 ≠ clusterOf s.focus ∧ ({ s with vdns := [] }).mapped (vdnOf 4) = false ∧
    isSvc (mk ctxA).focus = false ∧ (s.ctx 4 0).card = none ∧ s.beingSaved 4 (s.ctx 4 0) = false ∧
    ({ s with frozenLids := [0] }.updCtx 4 0 fun x => { x with coach := some 0 }).isFrozen 4 { ctxA with coach := some 0 } = true ∧
    ((mkWinSaved.cluster 1).savedTrapped (slotOf 4 0)).isSome = true ∧ mkWinSaved.buddyOf 4 = clusterOf mkWinSaved.focus ∧
    (∀ y ∈ (((mkWinSaved.cluster 1).savedTrapped 0).map Prod.snd).toList, mkWinSaved.isFrozen 4 y = false) := by decide

/-- The trapped context is the last task of job card 0. -/
theorem test_meets_ResumeAndKill_card :
    let j : Card := { w0 := 64, w1 := 0, w2 := 2 <<< 32 ||| 8, w3 := 1, lid := 5, asid := 1, tile := 0, cls := 1, coach := 0, ended := 1 }
    let s := { mkWin 0 with clusters := [(1, { trappair := 0, cards := [(0, j)] })] }.updCtx 4 0 fun x => { x with card := some (1, 0) }
    (s.ctx 4 0).card = some (1, 0) ∧ (s.cluster 1).cards.find? 0 = some j ∧ j.ended + 1 = j.w2.toNat / 2 ^ 32 := by decide

/-! ### Vectors and streams -/

/-- A read stream of two vectors of the own scratchpad from offset 0, and a write stream of one. -/
def strR : Stream := { w0 := 1 <<< 48, w1 := 0x100010002, w2 := 64, w3 := 0 }
def strW : Stream := { w0 := 1 <<< 48 ||| 131008, w1 := 0x100010001, w2 := 0, w3 := 1 }

/-- A machine whose register 24 is bound to the read stream, with its first vector fetched, and 25 to the write stream. -/
def mkStr : State := mkPad { ctxA with streams := [(0, { strR with fetched := [(0, 7)] }), (1, strW)] }

/-- Without bindings every register delivers its value. -/
theorem delivers_unbound (x : Ctx) (n : Nat) (h : x.streams = []) : (mk x).Delivers n ((mk x).me.rv n) := by
  have : (mk x).me.stream n = none := by
    show Ctx.stream x n = none
    unfold Ctx.stream
    rw [h]
    split <;> rfl
  unfold State.Delivers
  rw [this]

/-- Without streams no instruction writes a vector to another package. -/
theorem farDest_unbound (x : Ctx) (u : VUse) (h : x.streams = []) : (mk x).farDest u = false := by
  have (n : Nat) : (mk x).me.stream n = none := by
    show Ctx.stream x n = none
    unfold Ctx.stream
    rw [h]
    split <;> rfl
  unfold State.farDest
  cases u.dest with
  | none => rfl
  | some n => simp [this]

theorem vReady_unbound (u : Use) (srcs : List Nat) (dest : Option Reg) (h : (mk ctxA).me.hazard u = none)
    (hd : ∀ vd ∈ dest, (mk ctxA).destCheck vd.toNat = .fine) : (mk ctxA).VReady u srcs (mk ctxA).me.rv dest :=
  ⟨rfl, h, fun n _ => delivers_unbound ctxA n rfl, hd, fun hf => absurd ((farDest_unbound ctxA _ rfl).symm.trans hf) (by decide)⟩

/-- Bound registers: 24 delivers the vector at its cursor, 25 takes one. -/
theorem vReady_bound : mkStr.VReady { reads := [useV 24, useV 5], writes := [useV 25], lat := 2 } [24, 5]
    (fun n => if n = 24 then 7 else 0) (some 25) := by
  refine ⟨rfl, by decide, ?_, by decide, fun h => absurd h (by decide)⟩
  intro n hn
  simp only [List.mem_cons, List.not_mem_nil, or_false] at hn
  rcases hn with rfl | rfl
  · exact ⟨rfl, .inr ⟨rfl, rfl⟩⟩
  · show (0 : VWord) = _
    rfl

theorem test_meets_VectorIntegerResults :
    (mk ctxA).VReady { reads := [useV 5, useV 6] ++ maskReads 1 7 false, writes := [useV 7], lat := 2 } [5, 6] (mk ctxA).me.rv (some 7) ∧
    mkStr.VReady { reads := [useV 24, useV 5] ++ maskReads 0 25 false, writes := [useV 25], lat := 2 } [24, 5]
      (fun n => if n = 24 then 7 else 0) (some 25) :=
  ⟨vReady_unbound _ _ _ (by decide) (by decide), vReady_bound⟩

theorem test_meets_VectorMoves :
    (mk ctxA).VReady { reads := [useV 5, useV 6] ++ [useM 1] ++ maskReads 0 7 false, writes := [useV 7], lat := 2 } [5, 6] (mk ctxA).me.rv (some 7) ∧
    (mk ctxA).VReady { reads := [useX 5] ++ maskReads 0 7 false, writes := [useV 7], lat := 2 } [] (mk ctxA).me.rv (some 7) ∧
    (mk ctxA).VReady { reads := [useV 5, useX 7], writes := [useX 8], lat := 3 } [5] (mk ctxA).me.rv none ∧
    (mk ctxA).VReady { reads := [useX 5, useX 6, useV 7], writes := [useV 7], lat := 3 } [] (mk ctxA).me.rv (some 7) :=
  ⟨vReady_unbound _ _ _ (by decide) (by decide), vReady_unbound _ _ _ (by decide) (by decide),
    vReady_unbound _ _ _ (by decide) (by decide), vReady_unbound _ _ _ (by decide) (by decide)⟩

theorem test_meets_VectorIntegerResults_compares : IntW.w32.comparable = true ∧ IntW.w64.comparable = true ∧
    (mk ctxA).VReady { reads := [useV 5, useV 6] ++ [useM 1, useM 2], writes := [useM 2], lat := 2 } [5, 6] (mk ctxA).me.rv none ∧
    (mk ctxA).VReady { reads := [useV 5, useV 6] ++ [], writes := [useM 0], lat := 4 } [5, 6] (mk ctxA).me.rv none :=
  ⟨rfl, rfl, vReady_unbound _ _ _ (by decide) (by simp), vReady_unbound _ _ _ (by decide) (by simp)⟩

theorem test_meets_VectorFloatResults :
    (mk ctxA).VReady { reads := [useV 5, useV 6] ++ maskReads 1 7 false, writes := [useV 7], lat := 4 } [5, 6] (mk ctxA).me.rv (some 7) ∧
    (mk ctxA).VReady { reads := [useV 5, useV 6, useV 7] ++ maskReads 0 7 false, writes := [useV 7], lat := 4 } [5, 6, 7] (mk ctxA).me.rv (some 7) :=
  ⟨vReady_unbound _ _ _ (by decide) (by decide), vReady_unbound _ _ _ (by decide) (by decide)⟩

/-- A NaN of each kind, an infinity, both zeros, 1 and the least subnormal number. -/
theorem test_meets_FloatValues : fp32 ∈ [fp32, bf16, fp16] ∧ fp32.isNanEnc 0x7FC00000 = true ∧ fp32.isSigEnc 0x7F800001 = true ∧
    fp32.isInfEnc 0x7F800000 = true ∧ e4m3.hasInf = false ∧ (0x7F : Nat) < 2 ^ e4m3.width ∧ e4m3.isNanEnc 0x7F = true ∧
    (fp32.isNum 0x80000000 ∧ fp32.rat 0x80000000 = 0 ∧ fp32.negOf 0x80000000 = true) ∧ (fp32.isNum 0x3F800000 ∧ 0 < fp32.rat 0x3F800000) ∧
    (fp32.isNum 1 ∧ fp32.rat 1 ≠ 0) ∧ (-2 ^ 31 : Int) ≤ 0 ∧ (0 : Int) ≤ 2 ^ 31 - 1 := by
  have h0 : fp32.expOf 0x80000000 = 0 ∧ fp32.fracOf 0x80000000 = 0 := by decide
  have h1 : fp32.expOf 0x3F800000 = 127 ∧ fp32.negOf 0x3F800000 = false := by decide
  have h2 : fp32.expOf 1 = 0 ∧ fp32.fracOf 1 = 1 ∧ fp32.negOf 1 = false := by decide
  refine ⟨by decide, by decide, by decide, by decide, by decide, by decide, by decide, ⟨⟨by decide, by decide, by decide⟩, ?_, by decide⟩,
    ⟨⟨by decide, by decide, by decide⟩, ?_⟩, ⟨⟨by decide, by decide, by decide⟩, ?_⟩, by decide, by decide⟩
  · simp [FloatFmt.rat, h0]
  · rw [FloatFmt.rat, h1.1, h1.2]
    simp only [Bool.false_eq_true, if_false, one_mul, show (127 : Nat) ≠ 0 by decide]
    positivity
  · rw [FloatFmt.rat, h2.1, h2.2.1, h2.2.2]
    simp only [Bool.false_eq_true, if_false, one_mul, if_true, Nat.cast_one]
    positivity

theorem test_meets_AnalyticValues : fp16 ∈ [fp32, bf16, fp16] ∧ (0x3C00 : Nat) < 2 ^ fp16.width ∧ fp16.isNanEnc 0x7E00 = true ∧
    fp16.isInfEnc 0xFC00 = true ∧ fp16.negOf 0xFC00 = true ∧ fp16.isNum 0x3C00 := by
  refine ⟨by decide, by decide, by decide, by decide, by decide, by decide, by decide, by decide⟩

/-- Words of a valid RAMP and of an invalid descriptor; a stream with a vector from a window. -/
theorem test_meets_GeneratorWindows : (7 : Nat) < 8 ∧ GenValid (fun j => if j = 1 then 4 else 0) 0 ∧ ¬ GenValid (fun _ => 0) 0 ∧
    ({ ctxA with streams := [(0, { strR with fetched := [(0, 7)], windowed := [0] })] } : Ctx).streams.find? 0 =
      some { strR with fetched := [(0, 7)], windowed := [0] } ∧ 0 ∈ [0] := by
  refine ⟨by decide, ⟨by decide, by decide, .inl ⟨by decide, by decide, by decide, by decide⟩⟩, fun h => absurd rfl h.1, rfl, by decide⟩

theorem test_meets_Rounding : (0 : Nat) < 1 ∧ 2 ^ 1 ∣ 6 ∧ 2 * (3 % 2 ^ 1) = 2 ^ 1 ∧ fp32 ∈ [fp32, bf16, fp16, e4m3, e5m2] ∧
    (0x7F800000 : Nat) < 2 ^ fp32.width ∧ (Fp.decode fp32 0x7F800000).isNan = false ∧ (1 : Nat) < 2 ^ e5m2.width ∧
    (Fp.decode e5m2 1).isNan = false ∧ (Fp.decode e4m3 0x80).isNan = false := by decide

theorem test_meets_ConversionResults : (RoundMode.rne = RoundMode.sr → (mk ctxA).me.canDraw = true) ∧
    (RoundMode.sr = RoundMode.sr → (mk { ctxA with gens := [(28, 0xC000000000000000)] }).me.canDraw = true) ∧
    (mk ctxA).VReady { reads := useV 5 :: maskReads 1 7 true, writes := [useV 7], lat := 4 } [5] (mk ctxA).me.rv (some 7) :=
  ⟨by decide, by decide, vReady_unbound _ _ _ (by decide) (by decide)⟩

theorem test_meets_ReductionsScansAndMasks :
    (mk ctxA).VReady { reads := useV 5 :: maskReads 1 7 true, writes := [useV 7], lat := 3 } [5, 7] (mk ctxA).me.rv (some 7) ∧
    (mk ctxA).VReady { reads := useV 5 :: maskReads 1 7 true, writes := [useV 7, useX 8], lat := 3 } [5] (mk ctxA).me.rv (some 7) ∧
    isSvc (mk ctxA).focus = false ∧ (mk ctxA).me.hazard { reads := [useM 1, useM 2], writes := [useM 3], lat := 3 } = none ∧
    (mk ctxA).me.hazard { reads := [useM 1], writes := [useX 3], lat := 3 } = none ∧ (mk ctxA).me.rm 1 = 0 ∧ (mk ctxA).me.rm 0 ≠ 0 :=
  ⟨vReady_unbound _ _ _ (by decide) (by decide), vReady_unbound _ _ _ (by decide) (by decide), by decide⟩

/-- Memory is mapped, and mask register 1 selects element 0 of a load of 64-bit elements. -/
def mkLd (pte : Word) (base : Word) : State := mkMem { ctxA with x := [(5, base)], m := [(1, 1)] } pte

theorem vecPlaces (e : Nat) (h : e < 8) (on : laneOn 64 ((mkLd (openPte 0 false) 0).me.rm 1) e = true) : e = 0 := by
  interval_cases e <;> revert on <;> decide

theorem test_meets_VectorAccesses :
    (∀ e < 8, laneOn 64 ((mkLd (openPte 0 false) 0).me.rm 1) e = true →
      (mkLd (openPte 0 false) 0).reach .flat .read (BitVec.ofNat 64 (e * 8)) 8 = .ok (.mem (e * 8)) ∧
      (mkLd (openPte 0 false) 0).reach .flat .write (BitVec.ofNat 64 (e * 8)) 8 = .ok (.mem (e * 8)) ∧
      poisonedAt (mkLd (openPte 0 false) 0).poison (e * 8) 8 = false) ∧
    laneOn 64 ((mkLd 0 3).me.rm 1) 0 = true ∧ (3 : Word).toNat % 8 ≠ 0 ∧
    (mkLd 0 8).translate 0 0 false .read 8 = .fault ∧ (0 : Nat) < 8 ∧
    (mkLd 0 3).VReady { reads := useX 5 :: maskReads 1 7 false, writes := [useV 7] } [] (mkLd 0 3).me.rv (some 7) ∧
    (mkLd 0 3).VReady { reads := useX 5 :: useV 7 :: [useM 1] } [7] (mkLd 0 3).me.rv none := by
  refine ⟨fun e h on => ?_, by decide, by decide, by decide, by decide, ⟨rfl, by decide, by simp, by decide, fun h => absurd h (by decide)⟩, rfl,
    by decide, ?_, by simp, fun h => absurd h (by decide)⟩
  · obtain rfl := vecPlaces e h on
    decide
  · intro n hn
    obtain rfl := List.mem_singleton.1 hn
    show _ = _
    rfl

/-- Element 0 of an access meets each stop: a denied page, no translation, an absent page, a generator window, poison. -/
theorem test_meets_VectorAccesses_stops :
    let g := mkMem { ctxG with x := [(5, 8)], m := [(1, 1)] } genPte
    let p := { mkLd (openPte 0 false) 0 with poison := [0] }
    (mkLd 0 0).reach .flat .read 0 8 = .trap 3 0 ∧ (mk ctxA).reach .flat .read 0 8 = .miss .read 0 ∧
    (mkLd (openPte 0 false ||| 16) 0).reach .flat .write 0 8 = .absent 0 ∧ g.reach .flat .write 8 8 = .trap 6 8 ∧
    (mkLd genPte 0).reach .flat .read 8 8 = .ok (.gen 0) ∧ (mkLd genPte 0).genRead 0 (mkLd genPte 0).me.gens 0 8 8 = none ∧
    p.reach .flat .read 0 8 = .ok (.mem 0) ∧ p.placePoisoned (.mem 0) 8 = true ∧
    (∀ d < 8, laneOn 64 (p.me.rm 1) d = true → ∀ e < d, laneOn 64 (p.me.rm 1) e = false) := by
  refine ⟨by decide, by decide, by decide, by decide, by decide, by decide, by decide, by decide, fun d h on => ?_⟩
  obtain rfl := vecPlaces d h on
  exact fun e he => absurd he (by omega)

/-- A context whose x5 is an address of package 1, of which mask register 1 names one 64-bit element. -/
def mkFarV (x : Ctx) : State := mkFar { x with x := [(5, 8)], m := [(1, 1)] }

/-- The element is in package 1: a load that has asked for it or has it, and a store; its issued reads can be made, or not. -/
theorem test_meets_VectorAccesses_far :
    laneOn 64 ((mkFarV ctxA).me.rm 1) 0 = true ∧ (mkFarV ctxA).reach .flat .read 8 8 = .ok (.remote 1) ∧
    (mkFarV ctxA).reach .flat .write 8 8 = .ok (.remote 1) ∧ (mkFarV ctxA).pkg ≠ 1 ∧ reads (mkFarV ctxA) true = true ∧
    reads { mkFarV { ctxA with streams := [(0, { strF with w0 := 0x200000 })] } with pkg := 0 } true = false ∧
    (mkFarV { ctxA with remoteVals := [7] }).me.remoteVals.length = 1 ∧ (mkFarV { ctxA with remoteAsked := true }).me.remoteAsked = true ∧
    (mkFarV ctxA).me.remoteVals = [] := by decide

theorem test_meets_VectorMoves_merges : (mk ctxA).me.stream 7 = none ∧ (mk ctxA).me.stream 24 = none ∧ (2 : Nat) ≠ 0 :=
  ⟨rfl, rfl, by decide⟩

/-- A machine whose prefetch step of stream 0 is next. -/
def mkFetch : State := { mkPad { ctxA with streams := [(0, strR)] } with agenda := [.streamPrefetch 0 0 0] }

theorem test_meets_Streams :
    (mkStr.me.stream 24).isSome = true ∧ strR.isWrite = false ∧ strR.exhausted = false ∧ ({ strR with cursor := 2 } : Stream).exhausted = true ∧
    strW.isWrite = true ∧ strW.mode = .own ∧ strW.here.toNat % 2 ^ 17 % 64 = 0 ∧ strW.here.toNat % 2 ^ 17 + 64 ≤ mkStr.padSize 0 ∧
    isSvc mkStr.focus = false ∧ (mkStr.me.stream 26).isNone = true ∧ mkStr.streamValid ⟨0, 0, 0, 0, 0, [], [], [], 0⟩ = false ∧ mkStr.streamValid strR = true ∧
    (mkFetch.ctx 0 0).streams.find? 0 = some strR ∧ strR.fetched = [] ∧ mkFetch.isFrozen 0 (mkFetch.ctx 0 0) = false ∧
    strR.mode = .own ∧ strR.here.toNat % 2 ^ 17 + 64 ≤ mkFetch.padSize 0 ∧ poisonedAt (mkFetch.core 0).padPoison 0 64 = false := by
  refine ⟨rfl, by decide, by decide, by decide, by decide, by decide, by decide, by decide, by decide, rfl, by decide, by decide, rfl, rfl,
    by decide, by decide, by decide, by decide⟩

/-- A read stream of the own scratchpad that has fetched nothing: its second vector can be read. -/
theorem test_meets_Streams_fetch :
    let s := mkPad { ctxA with streams := [(0, strR)] }
    s.me.streams.find? 0 = some strR ∧ isSvc s.focus = false ∧ strR.isWrite = false ∧ strR.mode = .own ∧
    strR.fetched.find? (strR.cursor + 1) = none ∧ strR.cursor + 1 < strR.count ∧ (strR.addr 1).toNat % 2 ^ 17 % 64 = 0 ∧
    (strR.addr 1).toNat % 2 ^ 17 + 64 ≤ s.padSize s.focus ∧ poisonedAt s.myCore.padPoison 64 64 = false := by
  refine ⟨rfl, by decide, by decide, by decide, by decide, by decide, by decide, by decide, by decide⟩

theorem test_meets_Streams_bytes : ∀ b < 64, elem 8 (0 : VWord) b = 0 ∨ elem 8 (0 : VWord) b = 255 := fun b _ => .inl (by simp [elem])

/-! ### Events, tasks and barriers -/

/-- A packet from context 0 of core 0 to core 1, channel 3, index 9, delta 5. -/
def flit01 : BitVec 128 := mkFlit 0 false 0 0 0 5 9 3 1 0
/-- A packet from core 0 to package 1. -/
def flitFar : BitVec 128 := mkFlit 0 false 0 0 0 5 9 3 1 1
/-- An enabled entry of the channel table with one part of the queue, a handler at address 64 and owner slot 0. -/
def chWord : Word := 1 <<< 63 ||| 1 <<< 51 ||| 64
/-- An event of channel 3. -/
def ev3 (index : BitVec 16) : Entry := { index := index, sum := 2, channel := 3, count := 1, seq := 0, src := 0 }
/-- A coach in slot 0. -/
def coach0 : Coach := { lid := 5, slot := 0, asid := 1, kp := 0x200, cap := 2, grant := 3, tile := 0, predl := 0 }

/-- A packet in core 0's injection buffer arrives at core 1, whose queue holds l and whose channel 3 has the entry w. -/
def mkArr (p : BitVec 128) (w : Word) (l : List Entry) : State :=
  { State.reset with
    cores := [(0, { outFlits := [p] }), (1, { chtab := [(3, w)], queue := l })]
    agenda := [.eventArrival 1 p] }

set_option maxRecDepth 8000 in
theorem test_meets_PacketsAndArrival :
    (7 : Nat) < 8 ∧ (255 : Nat) < 256 ∧ (8191 : Nat) < 8192 ∧ (65535 : Nat) < 65536 ∧ (63 : Nat) < 64 ∧
    flit01.toNat / 2 ^ 50 % 2 ^ 7 = State.reset.pkg ∧ flit01.toNat % 2 ^ 7 = State.reset.pkg ∧ flitFar.toNat % 2 ^ 7 ≠ State.reset.pkg ∧
    256 * (flit01.toNat / 2 ^ 7 % 2 ^ 5) + flit01.toNat / 2 ^ 12 % 2 ^ 8 = 1 ∧
    (mkArr flit01 0 []).hasCompute 1 = true ∧ ((mkArr flit01 0 []).core 1).heldFlits = [] ∧
    ((mkArr flit01 0 []).core 1).chtab.get 3 0 = 0 ∧ chWord.getLsbD 63 = true ∧
    -32768 ≤ (ev3 9).sum.toInt + 5 ∧ (ev3 9).sum.toInt + 5 ≤ 32767 ∧ (ev3 9).count < 255 ∧ (ev3 9).index.toNat = 9 ∧
    ((mkArr flit01 chWord []).core 1).queue.countP (fun e => e.channel.toNat == 3) < 4 * (chWord.toNat / 2 ^ 51 % 2 ^ 7) ∧
    4 * (chWord.toNat / 2 ^ 51 % 2 ^ 7) ≤
      ((mkArr flit01 chWord [ev3 1, ev3 2, ev3 3, ev3 4]).core 1).queue.countP (fun e => e.channel.toNat == 3) := by decide

/-- The one place of the packet in its buffer has nothing before it. -/
theorem test_meets_PacketsAndArrival_first :
    ∃ l r, ((mkArr flit01 0 []).core 0).outFlits = l ++ flit01 :: r ∧
    ∀ q ∈ l, ¬ (q.toNat % 2 ^ 20 = flit01.toNat % 2 ^ 20 ∧ q.toNat / 2 ^ 50 % 2 ^ 20 = flit01.toNat / 2 ^ 50 % 2 ^ 20) :=
  ⟨[], [], rfl, by simp⟩

set_option maxRecDepth 8000 in
/-- A packet for package 1 on its way out; core 1 holds another packet, or the same one first; the packet cannot merge and finds no room. -/
theorem test_meets_PacketsAndArrival_held :
    let held (p : BitVec 128) : State := (mkArr flit01 chWord []).updCore 1 fun co => { co with heldFlits := [p] }
    let full := mkArr flit01 chWord [ev3 1, ev3 2, ev3 3, ev3 4]
    ({ mkArr flitFar 0 [] with flitsOut := [flitFar] } : State).flitsOut = [] ++ flitFar :: [] ∧ (mkArr flitFar 0 []).flitsOut = [] ∧
    ((held flitFar).core 1).heldFlits ≠ [] ∧ ((held flitFar).core 1).heldFlits.head? ≠ some flit01 ∧
    ((held flit01).core 1).heldFlits.head? = some flit01 ∧ (∀ e ∈ (full.core 1).queue, e.index.toNat ≠ 9) := by decide

/-- A context of the coach in slot 0. -/
def ctxC : Ctx := { ctxA with coach := some 0, lid := 5, x := [(5, 8), (6, 0x03050009), (7, 64)] }
def mkCo (x : Ctx) : State := { mk x with clusters := [(0, { coaches := [coach0], split := 8 })] }

theorem test_meets_EventSends :
    let s := mkCo ctxC
    let w := (s.me.rx 6).toNat
    isSvc s.focus = false ∧ s.me.hazard { reads := [useX 5, useX 6] } = none ∧ s.targetOk (s.me.rx 5) = true ∧
    s.targetOk (0x10008 : Word) = false ∧ (s.myCore.sendQ = [] ∧ s.myCore.outFlits.length + 1 ≤ 32) ∧
    ¬ ((s.updCore 0 fun co => { co with outFlits := List.replicate 32 0 }).myCore.outFlits.length + 1 ≤ 32) ∧
    w / 2 ^ 32 % 2 ^ 6 = 0 ∧ (33 : Nat) > 32 ∧ (s.me.rx 5).toNat % 4 = 0 ∧ (s.me.rx 6).toNat % 4 ≠ 0 ∧
    (8 : Nat) < s.padSize s.focus ∧ poisonedAt s.myCore.padPoison 8 4 = false ∧
    s.me.hazard { reads := [useX 5], writes := [(.x, 10), (.x, 11)] } = none ∧ s.me.coach = some 0 ∧ (mk ctxA).me.coach ≠ some 0 ∧
    (∀ e ∈ s.myCore.queue, e.channel.toNat ≠ 8) ∧ (0 : Nat) ≠ 2 ^ 35 / 2 ^ 35 % 2 ^ 7 ∧ (0 : Nat) = 0 / 2 ^ 35 % 2 ^ 7 ∧
    laneOn 32 (s.me.rm 0) 0 = true ∧ (64 : Nat) % 64 = 0 := by decide

theorem test_meets_EventSends_sdq :
    (mk ctxA).VReady { reads := [useV 5, useX 6] ++ [useM 1], writes := [useX 7] } [5] (mk ctxA).me.rv none :=
  vReady_unbound _ _ _ (by decide) (by simp)

/-- Core 1 has an event of channel 3, whose owner's coach is resident. -/
def mkDisp : State :=
  { State.reset with
    cores := [(1, { chtab := [(3, chWord)], queue := [ev3 9] })], clusters := [(0, { coaches := [coach0] })]
    agenda := [.eventDispatch 1 3 0] }

/-- The launch of coach 0, whose channel 3 takes two parts of the queue. -/
def chan3 : ChanEntry := { channel := 3, part := 2, maxRun := 0, cls := 1, pc := 64 }
def launchCh : Launch :=
  { asid := 1, cls := 1, cap := 2, kp := 0x200, split := 0, fuse := false, grant := 3, chans := [chan3], dies := 1, reserve := []
    predl := 0, stages := [], gang := none }

set_option maxRecDepth 8000 in
theorem test_meets_EventQueueSteps :
    mkDisp.nextWork 1 = some (.event 3) ∧ mkDisp.freeCtx 1 0 = true ∧ (mkDisp.core 1).queue = [] ++ ev3 9 :: [] ∧
    (mkDisp.cluster (clusterOf 1)).coachIn (chWord.toNat / 2 ^ 48 % 8) = some coach0 ∧
    mkDisp.hasCompute 1 = true ∧ chEn (chan3.word 0) = true ∧ (mkDisp.core 1).mayRepartition [(3, chan3.word 0)] = true ∧
    (3, chan3.word 0) ∈ ({ mkDisp.core 1 with due := [(3, chan3.word 0)] } : Core).due ∧ (3, chan3.word 0) ∉ (mkDisp.core 1).due ∧
    coach0 ∈ (mkDisp.cluster (clusterOf 1)).coaches ∧
    ({ mkDisp with launches := [(5, launchCh)] } : State).launches.find? coach0.lid.toNat = some launchCh ∧ chan3 ∈ launchCh.chans ∧
    (mkDisp.core 1).queue[0]? = some (ev3 9) ∧ (ev3 9).perr = false ∧ flitOk (flit01 ^^^ 1) = false ∧ isSvc 1 = false ∧
    (∀ q ∈ (mkDisp.core 1).ctxs, q.2.sleeps = true) ∧
    (mk ctxA).awaitsStream 0 { streams := [(0, { w0 := 0, w1 := 0x200010002, w2 := 64, w3 := 0 })], run := .waiting (.tlb .read 0) } = true := by decide

/-- A machine whose core 0 has a full bank. -/
def rec0 : Record := { pc := 64, lid := 5, cls := 1, args := [1, 2], origin := 1, tile := 0 }
def mkFull (slots : Nat) : State :=
  { State.reset with
    cores := [(0, { ctxs := [(0, ctxC)], arrivals := List.replicate 48 rec0 })]
    clusters := [(0, { coaches := [coach0], ringSlots := slots })] }

/-- Job card 0 is active: two records of 8 bytes for core 0. -/
def card0 : Card :=
  { w0 := 64, w1 := 0, w2 := 2 <<< 32 ||| 8, w3 := 1, lid := 5, asid := 1, tile := 0, cls := 1, coach := 0 }

theorem test_meets_TaskInstructions :
    let s := mkCo ctxC
    isSvc s.focus = false ∧ s.me.card = none ∧ (s.me.rx 5).toNat / 2 ^ 16 % 2 ^ 7 = s.pkg ∧
    s.mapped ((s.me.rx 5).toNat / 2 ^ 11 % 2 ^ 5) = true ∧ reads s true = true ∧ reads (mkCo { ctxC with streams := [(0, strF)] }) true = false ∧
    s.bankFree 1 = true ∧ (mkFull 1).bankFree 0 = false ∧
    (mkFull 0).recordRoom 0 = false ∧ (mkFull 1).recordRoom 0 = true ∧
    s.me.hazard { reads := [useX 5, useX 6, (.x, 10), (.x, 11), (.x, 12), (.x, 13)], writes := [(.x, 1)] } = none ∧
    s.me.hazard { reads := [useX 5, useX 6] ++ (List.range 7).map fun i => (.x, 10 + i) } = none ∧
    ({ ctxC with preq := true } : Ctx).preq = true ∧ s.me.preq = false ∧
    s.me.hazard { reads := usePairs 4 5, writes := [useX 7] } = none ∧
    (card0.w2.toNat % 2 ^ 6 = 8 ∧ card0.w2.toNat / 2 ^ 32 ≠ 0 ∧ card0.w3.toNat % 2 ^ 4 ≠ 0 ∧ card0.w1.toNat % 8 = 0) ∧
    (∀ n < 4, s.myCluster.cards.find? n = none) ∧ (0 : Nat) < 56 ∧ 56 ≤ 56 ∧ 56 % 8 = 0 ∧
    (∀ n < 4, ({ s.myCluster with cards := [(0, card0), (1, card0), (2, card0), (3, card0)] } : Cluster).cards.find? n ≠ none) ∧
    card0.w3.toNat / 2 ^ 16 = 0 := by decide

/-- The task of card 0 counts its end at address 4096. -/
theorem test_meets_TaskInstructions_counter :
    let s := { mkMem { ctxC with card := some (0, 0), asid := 0 } (openPte 0 false) with
      clusters := [(0, { coaches := [coach0], cards := [(0, { card0 with w3 := 4096 <<< 16 ||| 1 })] })] }
    s.me.card = some (0, 0) ∧ (s.cluster 0).cards.find? 0 = some { card0 with w3 := 4096 <<< 16 ||| 1 } ∧
    (4096 <<< 16 ||| 1 : Word).toNat / 2 ^ 16 ≠ 0 ∧
    s.reach .flat .readWrite (BitVec.ofNat 64 ((4096 <<< 16 ||| 1 : Word).toNat / 2 ^ 16)) 8 = .ok (.mem 4096) ∧
    poisonedAt s.poison 4096 8 = false ∧ s.lineBlocked ioHolder 32 true (some (0, 0)) = false := by decide

/-- A record on its way to core 0, a spilled record of core 1 in slot 1 of the ring and one of core 2 in the spill buffer, records `a`
in core 0's bank and the cards `c`; the ring has n slots. -/
def mkTasks (a : List Record) (c : SMap Card) (n : Nat) (pte : Word) : State :=
  { mkMem {} pte with
    cores := [(0, { arrivals := a, tlb := [⟨1, 0, false, pte⟩] })]
    clusters := [(0, { coaches := [coach0], cards := c, ring := [⟨1, 1, 0, none, none⟩], spill := [(2, rec0)], ringSlots := n
                       staged := [⟨3, 9, rec0⟩] })]
    records := [(0, rec0)] }

theorem test_meets_TaskStarts :
    let s := mkTasks [rec0] [] 4 (openPte 0 false)
    let f := mkTasks (List.replicate 48 rec0) [] 4 (openPte 0 false)
    s.records = [] ++ (0, rec0) :: [] ∧
    ((s.core 0).arrivals.length < 48 ∧ (∀ g ∈ (s.cluster (clusterOf 0)).ring, g.core ≠ 0) ∧ ∀ p ∈ (s.cluster (clusterOf 0)).spill, p.1 ≠ 0) ∧
    ¬ (f.core 0).arrivals.length < 48 ∧
    ((f.cluster 0).spill.length < 256 ∧ (f.cluster 0).ring.length + (f.cluster 0).spill.length < (f.cluster 0).ringSlots) ∧
    ¬ (let x := (mkTasks (List.replicate 48 rec0) [] 2 0).cluster 0; x.spill.length < 256 ∧ x.ring.length + x.spill.length < x.ringSlots) ∧
    (s.core 1).arrivals.length < 48 ∧ (s.cluster (clusterOf 1)).ring = [] ++ ⟨1, 1, 0, none, none⟩ :: [] ∧
    (s.core 2).arrivals.length < 48 ∧ (∀ h ∈ (s.cluster (clusterOf 2)).ring, h.core ≠ 2) ∧
    (s.cluster (clusterOf 2)).spill = [] ++ (2, rec0) :: [] ∧ (∀ h ∈ (s.cluster 0).ring, h.slot ≠ 0) ∧
    (s.core 0).arrivals[0]? = some rec0 ∧ s.freeCtx 0 0 = true ∧
    ((s.cluster 0).staged[0]?).map (fun g => (g.core, g.record)) = some (3, rec0) ∧ (s.cluster 0).spill[0]? = some (2, rec0) ∧
    s.nextWork 0 = some (.record 0) ∧ s.startCoach (clusterOf 0) 5 = some coach0 := by decide

/-- A counter that a KILL left owed can be reached, or its translation is missing; the lines of the ring's slots are free, or kept. -/
theorem test_meets_TaskStarts_owed :
    let s := (mkTasks [] [] 4 (openPte 0 false)).updCluster 0 fun x => { x with owed := [(0, 1, 4096)] }
    let h := { s with lines := [(lineOf (s.slotAddr 0 0), { active := some 1 })] }
    (s.cluster 0).owed = [(0, 1, 4096)] ∧ ((mkTasks [] [] 4 0).cluster 0).owed = [] ∧
    s.reachFor 0 1 false .flat .readWrite 4096 = .ok (.mem 4096) ∧ poisonedAt s.poison 4096 8 = false ∧ s.lineBlocked ioHolder 32 true = false ∧
    s.reachFor 1 1 false .flat .readWrite 4096 = .miss .readWrite 4096 ∧ clusterOf 1 = 0 ∧
    s.lineBlocked 0 (s.slotAddr 0 1 / 128) false = false ∧ s.lineBlocked 0 (s.slotAddr 0 0 / 128) true = false ∧
    h.lineBlocked 0 (s.slotAddr 0 0 / 128) true = true ∧ h.lineBlocked 0 (s.slotAddr 0 0 / 128) false = true := by decide

/-- The words of a record of card 0 can be read, lie in an absent page, or are denied; its dealt record starts its task. -/
theorem test_meets_TaskStarts_cards :
    let d := mkTasks [] [(0, card0)] 4 (openPte 0 false)
    let t (pte : Word) := mkTasks [] [(0, { card0 with chunks := [(0, 0, 1)], next := 1 })] 4 pte
    let y : Record := { rec0 with origin := 3 }
    (d.cluster 0).cards.find? 0 = some card0 ∧ d.jobFrozen card0.lid.toNat = false ∧ card0.next < card0.w2.toNat / 2 ^ 32 ∧
    card0.w3.getLsbD 0 = true ∧ (∀ h ∈ card0.chunks, h.1 = 0 → h.2.2 ≤ h.2.1) ∧ (∃ c < 8, d.freeCtx 0 c = true) ∧ d.recordRoom 0 = true ∧
    ([(0, 0, 1)] : List (Nat × Nat × Nat)).find? (fun h => h.1 == 0 && decide (h.2.1 < h.2.2)) = some (0, 0, 1) ∧
    [(0 : Word)].length = card0.w2.toNat % 2 ^ 6 / 8 ∧ (t (openPte 0 false)).reachFor 0 1 false .flat .read 0 = .ok (.mem 0) ∧
    poisonedAt (t (openPte 0 false)).poison 0 8 = false ∧ (t (openPte 0 false ||| 16)).reachFor 0 1 false .flat .read 0 = .absent 0 ∧
    (t 0).reachFor 0 1 false .flat .read 0 = .trap 3 0 ∧ (mkTasks [y] [] 4 0).nextWork 0 = some (.card 0) ∧
    y.late = none ∧ ({ y with fault := some 8 } : Record).fault = some 8 ∧
    (mkTasks [{ y with fault := some 8 }] [] 4 0).nextWork 0 = some (.card 0) := by decide

/-- A cluster whose barrier 9 has the slots of core 0's contexts 0 and 1 as members. -/
def mkBar (b : Barrier) (x : Ctx) : State := { mk x with clusters := [(0, { bars := [(9, b)] })] }

theorem test_meets_BarrierInstructions :
    let s := mkBar { members := 3, owner := 0 } ctxA
    s.me.hazard { reads := [useX 5, useX 6], writes := [useX 7] } = none ∧ s.me.hazard { reads := [useX 5] } = none ∧
    (s.me.rx 5).toNat % 16 = 9 ∧ (s.myCluster.bars.get 9 {}).owner = s.me.lid ∧ (s.myCluster.bars.get 9 {}).arrived = 0 ∧
    (s.myCluster.bars.get 9 {}).members.getLsbD (slotOf s.focus s.active) = true ∧
    ((mkBar { members := 3, arrived := 2, owner := 4 } ctxA).myCluster.bars.get 9 {}).owner ≠ ctxA.lid ∧
    reads s true = true ∧ reads (mkBar { members := 3 } { ctxA with streams := [(0, strF)] }) true = false ∧
    (mk ctxA).myCluster.bars.get 9 {} = {} ∧ s.me.released = false ∧ s.me.arrivedAt = none ∧
    (mkBar { members := 3 } { ctxA with released := true }).me.released = true ∧
    (mkBar { members := 3, phase := true } { ctxA with arrivedAt := some (9, false) }).me.arrivedAt = some (9, false) := by decide

/-! ### Tags, requests and engines -/

/-- A context whose coach is granted tags 0 and 1; x6 names tag 0, x7 tags 0 and 5. -/
def ctxT : Ctx := { ctxC with x := [(5, 4096), (6, 1), (7, 0x21)], asid := 0 }
def mkTag (t : Tag) (pte : Word) : State :=
  { mkMem ctxT pte with
    cores := [(0, { ctxs := [(0, ctxT)], tlb := [⟨0, 0, false, pte⟩], tags := [(0, t)] })]
    clusters := [(0, { coaches := [coach0], split := 8 })]
    posts := [{ src := 0, req := 1, dst := 0, tag := 0, bytes := 64 }]
    agenda := [.tagPost 0 0] }

theorem test_meets_TagsAndCounters :
    let s := mkTag { armed := true, ready := true } (openPte 0 false)
    (∀ n < 64, (s.me.rx 6).getLsbD n = true → s.myGrant.getLsbD n = true) ∧
    (s.me.rx 7).getLsbD 5 = true ∧ s.myGrant.getLsbD 5 = false ∧
    (∀ n < 64, (s.me.rx 6).getLsbD n = true → ((s.core s.focus).tags.get n {}).arrived.toNat ≤ ((s.core s.focus).tags.get n {}).expected) ∧
    s.me.deferred = [] ∧ ((s.core 0).tags.get 0 {}).ready = true ∧
    (((mkTag {} 0).core 0).tags.get 0 {}).ready = false ∧
    (((mkTag { arrived := 4, expected := 3 } 0).core 0).tags.get 0 {}).expected <
      (((mkTag { arrived := 4, expected := 3 } 0).core 0).tags.get 0 {}).arrived.toNat ∧
    s.me.hazard { reads := [useX 6], writes := [useX 8] } = none ∧
    s.reach .flat .read (s.me.rx 5) 8 = .ok (.mem 4096) ∧ poisonedAt s.poison 4096 8 = false ∧
    s.memRead 4096 8 < (s.me.rx 6).toNat ∧ (0 : Nat) ≤ s.memRead 4096 8 ∧
    s.posts = [] ++ { src := 0, req := 1, dst := 0, tag := 0, bytes := 64 } :: [] ∧ (s.me.rx 6) ≠ 0 ∧ s.me.rx 0 = 0 := by decide

/-- The pending fault of a copy that named tag 0 and the counter at 4096. -/
theorem test_meets_TagsAndCounters_late :
    let d : Deferred := { ord := 1, why := .access 8, tag := some 0, counter := 4096, cls := 2, store := false }
    let s := mk { ctxT with deferred := [d] }
    d ∈ s.me.deferred ∧ (∃ n, d.tag = some n ∧ (s.me.rx 6).getLsbD n = true) ∧ d.counter ≠ 0 ∧ d.counter = (s.me.rx 5).toNat ∧
    ∀ e ∈ s.me.deferred, e = d ∨ d.ord < e.ord := by
  refine ⟨List.mem_cons_self, ⟨0, rfl, by decide⟩, by decide, by decide, fun e he => .inl (List.mem_singleton.1 he)⟩

/-- A context that asks for a copy of 64 bytes of its own scratchpad, from offset 0 to offset 64; with d in x9 elsewhere. -/
def ctxR (d done : Word) : Ctx :=
  { ctxC with x := [(8, 1 <<< 48), (9, d), (10, 1 <<< 56 ||| 1 <<< 46 ||| 64 <<< 32), (11, done)], asid := 0 }
def ownDst : Word := 1 <<< 48 ||| 64
/-- Count1 = 1, Count2 = 1, Len0 = 64: the box of the request. -/
def box64 : Word := 1 <<< 56 ||| 1 <<< 46 ||| 64 <<< 32

theorem test_meets_RequestIssue :
    let s := mkCo (ctxR ownDst 0)
    isSvc s.focus = false ∧ s.me.hazard { reads := usePairs 4 5, writes := [useX 7] } = none ∧
    ¬ ReqMalformed .copy (1 <<< 48) ownDst box64 0 ∧ ReqMalformed .copy (1 <<< 48) ownDst box64 0x100 ∧
    s.ReqSidesPass 0 .copy (1 <<< 48) ownDst box64 0 ∧ ¬ (mk (ctxR ownDst 0)).ReqSidesPass 0 .copy (1 <<< 48) ownDst box64 0 ∧
    s.ReqBase .copy (1 <<< 48) ownDst = none ∧ s.ReqBase .copy (1 <<< 48) 128 = some 128 ∧ s.tlbHit 0 0 128 = none ∧
    s.myCore.reqs.countP (fun r => !r.failed) < 8 ∧ (0x82 : Word).getLsbD 7 = true ∧
    s.myGrant.getLsbD ((0x82 : Word).toNat % 64) = false ∧ s.myGrant.getLsbD ((0x81 : Word).toNat % 64) = true := by
  refine ⟨by decide, by decide, ?_, ?_, ?_, ?_, by decide, by decide, by decide, by decide, by decide, by decide, by decide⟩
  · simp only [ReqMalformed]
    decide
  · simp only [ReqMalformed]
    decide
  · simp only [State.ReqSidesPass]
    decide
  · simp only [State.ReqSidesPass]
    decide

/-- A running copy from address 0 of memory to offset 64 of core 0's scratchpad that adds to a counter at 4096. -/
def copyReq : Req :=
  { num := 1, kind := .copy, ctx := 0, lid := 5, asid := 0, sup := false, pc := 0, ord := 1, w0 := 0, w1 := ownDst
    w2 := 1 <<< 56 ||| 1 <<< 46 ||| 64 <<< 32, w3 := 512 <<< 19 ||| 0x80, state := .running }
/-- A running gather of one element of 8 bytes whose list entry is 0. -/
def gatherReq : Req := { copyReq with kind := .gather, w1 := 1 <<< 48, w2 := 1 <<< 48 ||| 3 <<< 44 ||| 64, w3 := 0 }
/-- A running addition of one 32-bit element. -/
def addReq : Req := { gatherReq with kind := .scatadd, w2 := 1 <<< 48 ||| 64 }

def mkReq (r : Req) (pte : Word) : State :=
  { mkMem ctxC pte with
    cores := [(0, { ctxs := [(0, { ctxC with run := .waiting (.tagAny 1) })], reqs := [r], tlb := [⟨0, 0, false, pte⟩] })]
    clusters := [(0, { coaches := [coach0], split := 8 })] }

/-- A queued request, eight held ones, a destination in a generator window, a tag that would count past 2^31 − 1, and a GET from a
package outside the domain. -/
theorem test_meets_RequestIssue_codes :
    let s := (mkTag { expected := 2 ^ 31 - 64 } genPte).updCore 0 fun co => { co with reqs := List.replicate 8 copyReq }
    s.tlbHit 0 0 128 = some genPte ∧ fieldOf genPte 63 62 = 1 ∧ 8 ≤ s.myCore.reqs.countP (fun r => !r.failed) ∧
    (0 : Nat) ∈ ReqTargets 0 .copy 128 ∧ 2 ^ 31 ≤ ((s.core 0).tags.get 0 {}).expected + ReqPosts .copy box64 ∧
    fieldOf (1 <<< 56 : Word) 62 56 ∉ s.domain := by decide

/-- A line whose tokens are all at home is well formed. -/
theorem home_wf : ({} : Line).Wf := ⟨by decide, by decide, by simp, by decide, by simp, by simp⟩

/-- Nothing keeps an engine from its bytes: a machine whose lines are all at home. -/
theorem mkReq_linesWf (r : Req) (pte : Word) : (mkReq r pte).LinesWf := by
  intro n
  exact home_wf

theorem test_meets_EngineSteps :
    let s := mkReq copyReq (openPte 0 false)
    let q := mkReq { copyReq with state := .queued } 0
    let h := mkReq { copyReq with state := .halted 0 } (openPte 0 false)
    s.req 0 1 = some copyReq ∧ s.frozenAt 0 copyReq.lid.toNat = false ∧ s.posts = [] ∧ copyReq.failed = false ∧
    (q.core 0).reqs = [] ++ { copyReq with state := .queued } :: [] ∧ (q.core 0).reqs.countP (fun q => q.state == .running) < 4 ∧
    mcast copyReq.w1 = false ∧ (0 : Nat) < 64 ∧ 0 + 64 ≤ copyReq.bytes ∧ copyReq.dones = [] ∧
    (∀ j ∈ [0, 63], (s.engMeet 0 copyReq (wordMode copyReq.w0) .read (copyReq.srcAddr j) 1).met = .ok (.mem j) ∧
      (s.engMeet 0 copyReq (wordMode copyReq.w1) .write (copyReq.dstAddr j) 1).met = .ok (.pad 0 (64 + j))) ∧
    (copyReq.dstAddr 62 = copyReq.dstAddr 61 + 1 ∧ (copyReq.dstAddr 62).toNat % 4 ≠ 0) ∧
    s.withTokens ioHolder .readWrite (s.engPlace 0 copyReq .flat .readWrite (BitVec.ofNat 64 (cntAddr copyReq.w3)) 8) = .ok (.mem 4096) ∧
    ({ copyReq with delivered := 64 } : Req).toAdd 0 = 64 ∧ copyReq.toAdd 0 = 0 ∧
    (mkReq copyReq (openPte 0 false ||| 16)).reqMeets 0 copyReq Reach.absentVa = some 0 ∧
    s.reqMeets 0 copyReq Reach.absentVa = none ∧
    (s.ctx 0 0).run ≠ .trapped ∧ (mkReq copyReq 0).reqMeets 0 copyReq Reach.faultVa = some 0 ∧
    (h.ctx 0 0).mayResume = true ∧ h.pagePresent 0 0 0 = some true := by decide

theorem test_meets_EngineSteps_slices :
    let g := mkReq gatherReq (openPte 0 false)
    let a := mkReq addReq (openPte 0 false)
    (0 : Nat) < sliceCount gatherReq.w2 ∧ g.listValue 0 gatherReq 0 = some 0 ∧
    gatherSize gatherReq.w2 = 8 ∧ gatherReq.elemAddr 0 = 0 ∧ gatherReq.isDone 0 = false ∧
    (∀ b < 8, ((0 : Word).toNat + b) / 128 = 0 / 128 + 0 ∧ (g.engMeet 0 gatherReq .flat .read (BitVec.ofNat 64 b) 1).met = .ok (.mem b) ∧
      (g.engMeet 0 gatherReq .own .write (BitVec.ofNat 64 (64 + b)) 1).met = .ok (.pad 0 (64 + b))) ∧
    a.listValue 0 addReq 0 = some 0 ∧ addReq.esize = 4 ∧ addReq.isDone 0 = false ∧
    (a.engMeet 0 addReq .own .read 64 4).met = .ok (.pad 0 64) ∧
    (a.engMeet 0 addReq .flat .readWrite (addReq.elemAddr 0) 4).met = .ok (.mem 0) := by decide

/-- A GET whose pages are absent at the package that was named: a refused message of it says so. -/
theorem test_meets_EngineSteps_far :
    ({ copyReq with failed := true } : Req).failed = true ∧
    (∃ m ∈ (mkReq { copyReq with delivered := 64 } 0).counterMeet 0 { copyReq with delivered := 64 }, m.met.faultVa.isSome = true) ∧
    (∀ m ∈ (mkReq { copyReq with delivered := 64 } (openPte 0 false)).counterMeet 0 { copyReq with delivered := 64 }, m.met.faultVa = none) := by decide

/-! ### Messages between packages -/

/-- The atomic engine of BX-IO finds page 0 in cluster 0's TLB. -/
def mkIo (pte : Word) (e : Event) : State :=
  { State.reset with clusters := [(0, { tlb := [⟨0, 0, false, pte⟩] })], agenda := [e] }

/-- A sender in package 1, and one in this package. -/
def src1 : NetSrc := { pkg := 1, core := 3, ctx := 0, lid := 5, req := 7, sup := false }
def src0 : NetSrc := { src1 with pkg := 0, core := 0 }

def putMsg (va cnt : Nat) (bytes : List Byte) : NetMsg := .putBytes src1 0 va 0 cnt true bytes

/-- A message from another package has been taken. -/
theorem took_far (s : State) (m : NetMsg) (p : NetSrc) (h : m ∉ s.net) (hp : p.pkg ≠ s.pkg) : s.Took s.pop m p := .inr ⟨h, hp, rfl⟩

theorem test_meets_NetAtTarget :
    let s := mkIo (openPte 0 false) (.netRemoteWrite (putMsg 64 4096 [1, 2]))
    let g := mkIo genPte (.netRefusal (putMsg 64 0 [1]))
    inMessageWindow 0xFFFFFFE00000 = true ∧ 0xFFFFFFE00000 % 64 = 0 ∧
    s.endpoint.length + s.controls.length + (List.replicate 64 (0 : Byte)).length / 64 ≤ 1024 ∧ inMessageWindow 64 = false ∧
    s.ioTranslate 0 false .write 64 = .mem 64 ∧ s.ioTranslate 0 false .write 65 = .mem 65 ∧ s.ioTranslate 0 false .readWrite 4096 = .mem 4096 ∧
    s.ioTranslate 0 false .read 64 = .mem 64 ∧ poisonedAt s.poison 64 8 = false ∧ s.lineBlocked ioHolder (64 / 128) true = false ∧
    s.lineBlocked (s.redHolder src1) (4096 / 128) true = false ∧
    (mkIo 0 (.netRefusal (putMsg 64 0 [1]))).ioTranslate 0 false .write 64 = .fault ∧ putMsg 64 0 [1] = putMsg 64 0 [1] ∧
    poisonedAt ({ s with poison := [8] } : State).poison 64 1 = true ∧ g.ioTranslate 0 false .write 64 = .gen 0 ∧
    src0.pkg = g.pkg ∧ src0.req ≠ 0 ∧
    (src1, 3) ∉ s.applied ∧ (src1, 3) ∈ ({ s with applied := [(src1, 3)] } : State).applied ∧ (4096 : Nat) < 2 ^ 64 := by decide

theorem test_meets_NetAtTarget_took :
    (mkIo (openPte 0 false) (.netRemoteWrite (putMsg 64 4096 [1, 2]))).Took
      (mkIo (openPte 0 false) (.netRemoteWrite (putMsg 64 4096 [1, 2]))).pop (putMsg 64 4096 [1, 2]) src1 :=
  took_far _ _ _ (by decide) (by decide)

/-- A running GET of 64 bytes from package 1, all of them sent, and a PUT to package 1. -/
def getReq : Req := { copyReq with kind := .get, w0 := 1 <<< 56, w3 := 0, reqId := 7, sent := [(0, 64)] }
def putReq : Req := { getReq with kind := .put, w0 := 1 <<< 48, w1 := 1 <<< 56 }

theorem test_meets_NetAnswersAndAtomics :
    let g := mkReq getReq (openPte 0 false)
    let p := mkReq putReq (openPte 0 false)
    let nack : NetMsg := .nack { src0 with req := 7 } none
    p.reqOf { src0 with req := 7 } = some (0, putReq) ∧ p.req 0 1 = some putReq ∧ farPkg putReq.kind putReq.w0 putReq.w1 ≠ some p.pkg ∧ nack ∉ p.net ∧
    nack ∈ ({ p with net := [nack] } : State).net ∧ putReq.failed = false ∧ putReq.owned = true ∧ putReq.toAdd 0 = 0 ∧
    (0, 64) ∈ putReq.sent ∧ putReq.isDone 0 = false ∧ g.reqOf { src0 with req := 7 } = some (0, getReq) ∧ g.posting 0 getReq = false ∧
    ({ putReq with failed := true } : Req).failed = true ∧
    mcast getReq.w1 = false ∧ (g.engMeet 0 getReq (wordMode getReq.w1) .write (getReq.dstAddr 63) 1).met = .ok (.pad 0 127) := by decide

theorem test_meets_NetAnswersAndAtomics_waits :
    let m := mk { ctxA with run := .waiting .remote, stores := [⟨3, 0, 0, 0, 3, 0⟩] }
    let ack : NetMsg := .storeAck { src0 with req := 0 } 3 true
    (m.ctx 0 0).run = .waiting .remote ∧ m.ramoInside 0 0 = false ∧ m.loadInside 0 0 = false ∧ m.storeInside 0 0 3 = false ∧
    (m.ctx 0 0).stores = [] ++ ⟨3, 0, 0, 0, 3, 0⟩ :: [] ∧ ctxA.deferred = [] ∧
    ({ m with net := [ack] } : State).net = [] ++ ack :: [] ∧ (∀ z ∈ (mk ctxA).me.stores, z.id ≠ 3) ∧
    ({ ctxA with fetching := some (0, 1) } : Ctx).fetching.isSome = true ∧ src0.core = 0 ∧ src0.ctx = 0 ∧ src0.pkg = m.pkg := by decide

theorem test_meets_NetAnswersAndAtomics_ramo :
    let s := mkFar { ctxA with x := [(8, 1 <<< 56 ||| 4096), (11, 0x29)] }
    isSvc s.focus = false ∧ s.me.hazard { reads := usePairs 4 5, writes := [useX 7] } = none ∧ s.me.remoteVals = [] ∧
    s.me.remoteAsked = false ∧ ({ s.me with remoteAsked := true, remoteVals := [7] } : Ctx).remoteVals = 7 :: [] ∧ s.me.fetching = none ∧
    reads s true = true ∧ reads (mkFar { ctxA with streams := [(0, { strF with w0 := 0x200000 })] }) true = false ∧
    (s.me.rx 11).toNat < 2 ^ 8 ∧ (s.me.rx 11).toNat % 2 ^ 5 = 9 ∧ (s.me.rx 11).getLsbD 5 = true ∧
    (s.me.rx 8).toNat < 2 ^ 63 ∧ (s.me.rx 8).toNat / 2 ^ 48 % 2 ^ 8 = 0 ∧ (s.me.rx 8).toNat % 8 = 0 ∧
    s.domain.contains ((s.me.rx 8).toNat / 2 ^ 56 % 2 ^ 7) = true ∧ (0x2A : Nat) % 2 ^ 5 > 9 ∧ (0xA9 : Word).getLsbD 7 = true ∧
    s.classBusy s.focus s.active (clsLS ||| clsNT) = false ∧
    (mk { ctxA with stores := [⟨3, 0, 0, 0, 3, 0⟩] }).classBusy 0 0 (clsLS ||| clsNT) = true ∧ (9 : Nat) ≤ 9 ∧
    (mkIo (openPte 0 false) (.ramoAtTarget (.ramo src1 0 4096 9 true 0 0))).ioTranslate 0 false .readWrite 4096 = .mem 4096 ∧
    (mkIo (openPte 0 false) (.ramoAtTarget (.ramo src1 0 4096 9 true 0 0))).lineBlocked ioHolder (4096 / 128) true = false ∧
    (mkIo 0 (.ramoAtTarget (.ramo src1 0 4096 9 true 0 0))).ioTranslate 0 false .readWrite 4096 = .fault := by decide

/-! ### The matrix engine -/

/-- Two rows of 32 activations for one column, in fixed point: accumulators at 1024, one slot at 2048, rows to 8192. -/
def mx0 : MxRegs :=
  { mgeo := 2 <<< 48 ||| 1 <<< 37 ||| 32 <<< 17, macc := 1 <<< 31 ||| 1024, mdrh := 2 <<< 49, mdst := 2 <<< 62 ||| 8192 }

/-- An operation of context 0 with source words a and b. -/
def mop (kind : MxKind) (a b : Word) : MxOp :=
  { kind := kind, ctx := 0, lid := 5, asid := 0, sup := false, coach := 0, tile := 0, pc := 0, ord := 1, regs := mx0, a := a, b := b }
/-- MMUL from offset 4096 with a pitch of 32 bytes and scales at 6144. -/
def mmulB : Word := 32 <<< 48 ||| 6144

/-- A context of the coach bound to the macro: x5 and x6 are MMUL's words, x7 MCHK's Op 2, x8 names a stream. -/
def ctxM : Ctx :=
  { ctxC with x := [(5, 4096), (6, mmulB), (7, 2), (8, 1 <<< 63)], asid := 0, streams := [(0, strR)] }
def mkMx (l : List MxOp) (mx : MxRegs) : State :=
  { mkMem ctxM (openPte 0 false) with
    cores := [(0, { ctxs := [(0, ctxM)], bound := some 0, boundLid := 5, mxq := l, mx := mx, tlb := [⟨0, 0, false, openPte 0 false⟩],
                    chtab := [(3, chWord)], queue := [ev3 9] })]
    clusters := [(0, { coaches := [coach0], split := 8 })] }

/-- The table's checks, which compute. -/
theorem mx_checks : mx0.LoadPasses 0 131072 4096 ∧ ¬ ({} : MxRegs).LoadPasses 0 131072 4096 ∧ mx0.MulPasses 0 131072 4096 mmulB ∧
    mx0.MulPasses 0 131072 (1 <<< 63) mmulB ∧ ¬ mx0.MulPasses 0 131072 4096 0 ∧ mx0.ZeroPasses 0 131072 0 2 ∧ ¬ mx0.ZeroPasses 0 1024 0 2 ∧
    mx0.DrainPasses 0 131072 0 2 ∧ ¬ ({ mx0 with mdst := 3 <<< 62 } : MxRegs).DrainPasses 0 131072 0 2 ∧
    ({} : MxRegs).EvmacFails 0 131072 0 := by
  refine ⟨?_, ?_, ?_, ?_, ?_, ?_, ?_, ?_, ?_, ?_⟩ <;>
    (simp only [MxRegs.LoadPasses, MxRegs.MulPasses, MxRegs.ZeroPasses, MxRegs.DrainPasses, MxRegs.EvmacFails, MxRegs.GeoFits, MxRegs.ColsFit,
      MxRegs.WeightsFit, MxRegs.ActsFit, MxRegs.AccFits, MxRegs.ScaleFits, Fit, Apart, show isWide (clusterOf 0) = false from rfl]
     decide)

theorem mx_event_checks (n : Nat) : ¬ mx0.EvmacFails 0 131072 n := by
  have g : mx0.GeoFits 0 := ⟨by decide, by decide, by decide, by decide, by decide⟩
  have w : mx0.WeightsFit 0 := by rw [MxRegs.WeightsFit, if_neg (by decide)]; decide
  have a : mx0.AccFits 0 true := ⟨by decide, by decide, by decide, by decide⟩
  have t : mx0.ScaleFits 0 := fun _ => by decide
  have f : Fit 131072 (mx0.scaleBytes 0 ++ mx0.accBytesOf 0 1) := by unfold Fit; decide
  simp [MxRegs.EvmacFails, g, w, a, t, f]

theorem test_meets_MatrixInstructions :
    let s := mkMx [] mx0
    let f := mkMx (List.replicate 4 (mop .mzero 0 0)) mx0
    (isSvc s.focus = false ∧ s.me.coach.isSome = true ∧ s.myCore.boundLid = s.me.lid ∧ s.me.deferred = []) ∧ s.padSize s.focus = 131072 ∧
    (mk ctxA).me.coach = none ∧ s.me.hazard { reads := [useX 5, useX 6], writes := [useX 9] } = none ∧
    4 ≤ f.myCore.mxq.length ∧ ¬ 4 ≤ s.myCore.mxq.length ∧
    s.reachFor 0 s.me.asid s.me.sup .flat .read 0x200000 = .miss .read 0x200000 ∧
    (s.me.rx 5).getLsbD 63 = false ∧ (s.me.rx 8).getLsbD 63 = true ∧ (s.me.streams.find? ((s.me.rx 8).toNat % 8)).isSome = true ∧
    strR.isWrite = false ∧ ¬ strR.count < strR.cursor + 2 ∧ { strR with cursor := 2 }.count < 2 + 2 ∧
    claimsOf { strR with w0 := 0x200000 } 2 = [(none, 0x200000, 0), (none, 0x200040, 0)] := by decide

/-- Every byte of the two vectors that strR has to give is in the scratchpad. -/
theorem test_meets_MatrixInstructions_claims : ∀ q ∈ claimsOf strR 2, ∀ i < 64,
    (mkMx [] mx0).reachFor 0 0 false (AddrMode.ofBits q.2.2) .read (q.2.1 + BitVec.ofNat 64 i) = .ok (.pad 0 (q.2.1.toNat + i)) := by
  have h : claimsOf strR 2 = [(none, 0, 1), (none, 64, 1)] := by decide
  rw [h]
  intro q hq i hi
  simp only [List.mem_cons, List.not_mem_nil, or_false] at hq
  rcases hq with rfl | rfl <;> interval_cases i <;> rfl

/-- Rows that leave for memory at address 4096 (R230). -/
def mxFlat : MxRegs := { mx0 with mdrh := 2 <<< 49 ||| 1 <<< 56, mdst := 1 <<< 62 ||| 4096 }

theorem test_meets_MatrixInstructions_drain :
    let s := mkMx [] mxFlat
    let q : MxOp := { mop .scrub 0 0 with waits := true }
    mxFlat.DrainPasses 0 131072 0 2 ∧ fieldOf mxFlat.mdst 63 62 = 1 ∧ mx0.mdst.toNat / 2 ^ 62 ≠ 1 ∧
    s.tlbHit 0 s.me.asid 4096 = some (openPte 0 false) ∧ (openPte 0 false).toNat / 2 ^ 62 ≠ 1 ∧ genPte.toNat / 2 ^ 62 = 1 ∧
    (∀ i < 8, s.reachFor 0 s.me.asid s.me.sup .flat .write (BitVec.ofNat 64 (4096 + i)) = .ok (.mem (4096 + i))) ∧
    (s.me.rx 7).toNat % 4 = 2 ∧ (0 : Nat) % 4 = 0 ∧ (∃ o ∈ (mkMx [mop .mzero 0 0] mx0).myCore.mxq, o.owned = true ∧ o.ctx = 0) ∧
    ¬ (∃ o ∈ s.myCore.mxq, o.owned = true ∧ o.ctx = 0) ∧ ¬ (∃ p ∈ s.myCore.slots, p.2.owned = true ∧ p.2.ctx = 0) ∧
    (mkMx [q] mx0).myCore.mxq = [] ++ q :: [] ∧ q.waits = true ∧ q.owned = true ∧ (mop .scrub 0 0).waits = false := by
  refine ⟨?_, ?_⟩
  · simp only [MxRegs.DrainPasses, MxRegs.ColsFit, MxRegs.AccFits, Fit, Apart, show isWide (clusterOf 0) = false from rfl]
    decide
  · decide

/-- A pending fault of the engine, which the next instruction of major MATRIX reports. -/
theorem test_meets_MatrixInstructions_late :
    let d : Deferred := { ord := 1, why := .access 8, tag := none, counter := 0, cls := clsMX, store := false }
    let s := (mkMx [] mx0).updCtx 0 0 fun x => { x with deferred := [d] }
    d ∈ s.me.deferred ∧ d.cls = clsMX ∧ ∀ e ∈ s.me.deferred, e = d ∨ d.ord < e.ord := by
  refine ⟨List.mem_cons_self, by decide, fun e he => .inl (List.mem_singleton.1 he)⟩

theorem test_meets_MatrixInstructions_evmac :
    let s := mkMx [] mx0
    let o := mop .evmac 0 0
    s.me.coach = some (chWord.toNat / 2 ^ 48 % 8) ∧ s.myCore.mxq = [] ∧ (mkMx [mop .mzero 0 0] mx0).myCore.mxq ≠ [] ∧
    s.myCore.queue.filter (fun e => e.channel.toNat == 3) ≠ [] ∧ s.myCore.queue.filter (fun e => e.channel.toNat == 4) = [] ∧
    s.myCore.padPoison = [] ∧ s.myCore.faultyCols = [] ∧ s.myCore.mismatches = [] ∧ (0 : Nat) < mx0.N ∧ (ev3 9).perr = false ∧
    (mkMx [o] mx0).myCore.mxq = o :: [] ∧ (o.kind = .evmac ∧ o.owned = true ∧ o.ctx = 0) ∧
    [0].find? (fun c => decide (fieldOf mx0.mgeo 36 27 ≤ c ∧ c < fieldOf mx0.mgeo 36 27 + fieldOf mx0.mgeo 47 37)) = some 0 ∧
    mx0.scp + 16 * (mx0.col0 + mx0.N) ≤ mx0.accOff ∧ mx0.row0 + (ev3 9).index.toNat < 512 ∧
    isWide (clusterOf 0) = false ∧ isWide 8 = true := by decide

/-- A full row in slot 0, ready to depart or to be handed to a handler at 64. -/
def slot0 (mx : MxRegs) : Slot :=
  { row := 0, n := 0, bytes := 8, off := 2048, regs := mx, ctx := 0, lid := 5, asid := 0, sup := false, coach := 0, tile := 0
    pc := 0, ord := 1, queued := true, ended := true }
def mkSlot (mx : MxRegs) : State :=
  { State.reset with
    cores := [(0, { slots := [(0, slot0 mx)], drainQ := [0] })], clusters := [(0, { coaches := [coach0], split := 8 })] }

theorem test_meets_MatrixSteps :
    let s := mkMx [mop .mmul 4096 mmulB] mx0
    let o := mop .mmul 4096 mmulB
    let d := mop .mdrain 0 0
    (s.core 0).mxq = o :: [] ∧ s.frozenAt 0 o.lid.toNat = false ∧ o.started = false ∧ o.waits = false ∧ o.streamed = false ∧ o.claims = [] ∧
    (s.core 0).padPoison = [] ∧ mx0.col0 + mx0.N ≤ 1024 ∧ mx0.row0 + mx0.K ≤ 512 ∧ 8 * o.done < mx0.M ∧
    (s.core 0).faultyCols = [] ∧ (s.core 0).mismatches = [] ∧
    [0].find? (fun f => decide (mx0.col0 ≤ f ∧ f < mx0.col0 + mx0.N)) = some 0 ∧
    (∀ i < 17, s.reachFor 0 0 false (wordMode 4096) .read (BitVec.ofNat 64 (4096 + i)) = .ok (.mem (4096 + i)) ∧
      s.placePoisoned (.mem (4096 + i)) 1 = false ∧ s.lineBlocked (vdnOf 0) ((4096 + i) / 128) false = false) ∧
    0 + d.done < min 2 mx0.M ∧ (0 : Nat) < mx0.slotCount ∧ (s.core 0).slots.find? 0 = none ∧
    (s.core 0).bound = some 0 ∧ ((mk ctxA).core 0).bound = none ∧ (1023 : Nat) < macroCols 0 ∧
    (((s.core 0).spares.filter fun p => p.1 / (macroCols 0 / 4) == 3).map Prod.snd).sum < 2 := by decide

theorem test_meets_MatrixSteps_rows :
    let s := mkSlot mx0
    let h := mkSlot { mx0 with mdrh := 2 <<< 49 ||| 64 }
    (s.core 0).slots.find? 0 = some (slot0 mx0) ∧ (slot0 mx0).ended = true ∧ s.frozenAt 0 5 = false ∧ mx0.dstMode = 2 ∧
    ({ mx0 with mdst := 0 } : MxRegs).dstMode = 0 ∧ (s.core 0).padPoison = [] ∧
    (∀ j < 8, s.reachFor 0 0 false .own .write (mx0.dstRow 0 + BitVec.ofNat 64 j) = .ok (.pad 0 (8192 + j)) ∧
      (.pad 0 (8192 + j) : Place) ≠ .pad 0 (2048 + j)) ∧
    (mkSlot mxFlat).reachFor 0 0 false .flat .write (mxFlat.dstRow 0) = .miss .write 4096 ∧
    ({ mkSlot mxFlat with cores := [(0, { slots := [(0, slot0 mxFlat)], tlb := [⟨0, 0, false, 0⟩] })] } : State).reachFor 0 0 false .flat .write
      (mxFlat.dstRow 0) = .trap 3 4096 ∧
    h.freeCtx 0 0 = true ∧ h.nextWork 0 = some (.drain 0) ∧ h.startCoach (clusterOf 0) 5 = some coach0 := by decide

/-- A running sum, a code, a group of no pairs: the values of SumsAndUpdates have their hypotheses met. -/
theorem test_meets_SumsAndUpdates : fp32 ∈ [fp32, bf16, fp16, e4m3, e5m2] ∧ (0 : Nat) < 2 ^ fp32.width ∧ (0 : Nat) < 256 ^ mx0.actSize ∧
    (Fp.zero false).Proper ∧ (15 : Nat) < 16 ∧ (255 : Nat) < 256 ∧ fieldOf mx0.mdrh 57 56 = 0 ∧ fieldOf mxFlat.mdrh 57 56 ≠ 0 ∧
    mx0.macc.getLsbD 31 = true ∧ ({} : MxRegs).macc.getLsbD 31 = false ∧ elemSize 1 = 8 ∧ (7 : Nat) < 256 ^ elemSize 0 := by
  refine ⟨by decide, by decide, by decide, ?_, by decide, by decide, by decide, by decide, by decide, by decide, by decide, by decide⟩
  simp [Fp.Proper]

/-! ### Faults, coaches and launches -/

theorem test_meets_FaultSteps :
    let s := { mk { ctxA with run := .waiting (.tlb .read 0) } with
      clusters := [(0, { noticesInFlight := [7], notices := List.replicate 63 0 })] }
    let p := mkMem { ctxA with run := .parked 0 0 } (openPte 0 false)
    let z := { mkCo ctxC with frozenLids := [5], freezes := [(5, 0)], releases := [(5, 0)] }
    (s.cluster 0).noticesInFlight = 7 :: [] ∧ (s.cluster 0).notices.length < 64 ∧ isSvc 8192 = true ∧ s.hasCtx 8192 0 = true ∧
    (State.reset.ctx 8192 0).run = .halted ∧ s.translate 0 0 false .read 0 = .miss ∧ (s.cluster 0).misses = [] ∧
    p.coachHere 0 (p.ctx 0 0) = true ∧ p.isFrozen 0 (p.ctx 0 0) = false ∧ p.pagePresent 0 0 0 = some true ∧
    (5, 0) ∈ z.freezes ∧ z.jobFrozen 5 = true ∧ z.jobFrozen 6 = false ∧ (∀ p ∈ (mkCo ctxC).freezes, p.1 = 5 → (0 : Nat) < p.2) ∧ p.pagePresent 0 0 0x200000 = none ∧ (mkMem {} (openPte 0 false ||| 16)).pagePresent 0 0 0 = some false ∧
    ((mkReq { copyReq with state := .halted 8 } 0).core 0).reqs.find? (fun q => q.owned && q.ctx == 0 && q.state == .halted 8) =
      some { copyReq with state := .halted 8 } ∧
    ({ z with logs := [(0, { entries := [⟨0, 1, 2, 3, 4⟩] })] } : State).logs.get 0 {} = { entries := [⟨0, 1, 2, 3, 4⟩] } ∧
    chWord.getLsbD 63 = true ∧ (3 : Nat) < 4 * (chWord.toNat / 2 ^ 51 % 2 ^ 7) ∧ (0 : Nat) ≤ z.ptc ∧ 5 ∈ z.frozenLids ∧ 6 ∉ z.frozenLids ∧ (5, 0) ∈ z.releases ∧
    z.hasCtx 0 0 = true ∧ z.isFrozen 0 (z.ctx 0 0) = true ∧ (4096 : Nat) ∉ z.frozenLids := by decide

/-- A registered launch of identity 5 that enables channel 3. -/
def launch5 : Launch :=
  { asid := 1, cls := 2, cap := 2, kp := 0x200, split := 4, fuse := false, grant := 3, chans := [⟨3, 4, 1, 1, 64⟩], dies := 1
    reserve := [(0, 1)], predl := 0, stages := [], gang := none, placement := .placed }
/-- Cluster 0 has no coach, and core 0 a record of the launch. -/
def mkForm : State :=
  { State.reset with cores := [(0, { arrivals := [rec0] })], launches := [(5, launch5)], agenda := [.coachAdmission 0 5] }
/-- The coach of cluster 0 is pre-empted and has stopped; with its task's context c. -/
def mkPre (x : Ctx) : State :=
  { State.reset with
    cores := [(0, { ctxs := [(0, x)] })], launches := [(5, launch5)]
    clusters := [(0, { coaches := [{ coach0 with state := .preempted }] })] }
/-- A saved coach with one context. -/
def savedCo : Coach := { coach0 with state := .saved, saved := { ctxs := [(0, { ctxC with run := .stopped })] } }
def mkSaved : State := { State.reset with launches := [(5, launch5)], clusters := [(0, { coaches := [savedCo] })] }

/-- Every task of the resident coach is parked, and a record of launch 6 waits. -/
def mkSwap : State :=
  { State.reset with
    cores := [(0, { ctxs := [(0, { ctxC with run := .parked 0 0 })] }), (1, { arrivals := [{ rec0 with lid := 6 }] })]
    launches := [(5, launch5), (6, launch5)], clusters := [(0, { coaches := [coach0] })] }

theorem test_meets_CoachSteps_swap : mkSwap.swappable 0 coach0 = true ∧ (mkSwap.cluster 0).coaches = [coach0] ∧
    coach0.state ≠ .saving := by decide

theorem test_meets_CoachSteps_admission :
    mkForm.formable 0 5 none = true ∧ mkForm.launches.find? 5 = some launch5 ∧ mkForm.outranked 0 (2, rec0.since) 5 = false ∧
    mkForm.freeSlotOf 0 5 none = some 0 ∧ mkForm.freeCtx 0 0 = true ∧
    (mkForm.core 0).arrivals.find? (fun y => y.lid == 5) = some rec0 ∧ (mkForm.cluster 0).coaches = [] ∧
    channelsOnce launch5.chans = true := by decide

theorem test_meets_CoachSteps_save :
    let d : Coach := { coach0 with state := .preempted }
    let q := mkPre { ctxC with run := .stopped }
    let e := mkPre { ctxC with preq := true, predlEnd := some 0 }
    (q.cluster 0).coachOf 5 = some d ∧ q.stopped 0 d = true ∧ q.drained 0 d = true ∧
    (4096 : Nat) % 4096 = 0 ∧ 4096 + 0xA2000 ≤ memorySize ∧ (q.core 0).reqs = [] ∧ (q.cluster 0).split ≤ 8 ∧ (q.cluster 0).bars = [] ∧ (q.tasksOf 0 d).length ≤ 32 ∧ q.mem = [] ∧
    (e.ctx 0 0).preq = true ∧ (e.ctx 0 0).run = .ready ∧ (e.ctx 0 0).remoteVals = [] ∧ (e.ctx 0 0).predlEnd = some 0 ∧
    (0 : Nat) ≤ e.cycles.get (vdnOf 0) 0 ∧ (e.ctx 0 0).coach = some 0 ∧ (e.cluster 0).coachIn 0 = some d := by decide

theorem test_meets_CoachSteps_readmission :
    (mkSaved.savedOn 0).find? (fun p => p.2.lid == 5 && mkSaved.readmittable p.1 p.2 0 none) = some (0, savedCo) ∧
    mkSaved.launches.find? 5 = some launch5 ∧ mkSaved.outranked 0 (mkSaved.savedClass 0 savedCo, savedCo.since) 5 = false ∧
    mkSaved.bindsChannels 5 = true ∧ savedCo.saved.ctxs ≠ [] ∧
    (∀ p ∈ savedCo.saved.ctxs, p.2.run ≠ .killed ∧ p.2.run ≠ .idle ∧ p.1 < 32) ∧ (mkSaved.ctx 0 0).run = .idle := by decide

/-- A gang launch of packages 0 and 1 at ticks 0, 1000000, …; its placement stands at p. -/
def gang0 : Gang := { packages := 3, t0 := 0, period := 1000000, sliceLen := 500 }
def mkGang (p : Placement) : State :=
  { State.reset with launches := [(5, { launch5 with gang := some gang0, placement := p, stages := [⟨3, 1, 64⟩] })], classQ := [5] }

theorem test_meets_LaunchSteps :
    let w := mkGang .waiting
    let q := mkGang (.placing 1)
    let l := { launch5 with gang := some gang0, placement := .waiting, stages := [⟨3, 1, 64⟩] }
    let g := mkGang .placed
    let two : State := { q with launches := q.launches ++ [(6, l)], classQ := [6] }
    w.launches.find? 5 = some l ∧ w.placings = [] ∧ w.mayBegin 5 l = true ∧ q.launches.find? 5 = some { l with placement := .placing 1 } ∧
    two.placings = [{ l with placement := .placing 1 }] ∧ two.launches.find? 6 = some l ∧ two.mayBegin 6 l = false ∧
    l.vdns.length ≤ 0 + 1 ∧ (w.advance 5 0 l).placementDone 5 l = true ∧
    (∃ c < 4, w.queueHead c = some 5 ∧ ∀ d < 4, c < d → w.queueHead d = none) ∧ w.queueHead 3 = none ∧ l.cls.toNat < 3 ∧ l.cls ≤ 2 ∧
    (∀ n ≤ 1, ¬ (({ l with dies := 7 } : Launch).vdns.length ≤ n + 1)) ∧
    ({ w with launches := (6, { l with cls := 3 }) :: w.launches, classQ := [5, 6] } : State).queueHead 3 = some 6 ∧
    g.gangOf 5 = some gang0 ∧ gang0.t0 ≤ 1000000 ∧ (1000000 - gang0.t0) % gang0.period = 0 ∧ g.ptc + 2000 ≤ 1000000 ∧
    (g.launches.find? 5).map Launch.placement = some .placed ∧ g.endpoint = [] ∧ g.slices = [] ∧ (5, 1000000, g.pkg) ∉ g.gangReady ∧ gang0.names 1 = true ∧ 1 ≠ g.pkg ∧ gang0.names 2 = false ∧
    1000000 ≤ ({ g with ptc := 999000 } : State).ptc + 1000 ∧ (5, 0) ∈ ({ g with gangStart := [(5, 0)] } : State).gangStart ∧ 0 ≤ g.ptc ∧
    (5, 0) ∈ ({ g with slices := [(5, 0)] } : State).slices ∧ g.hasCompute 0 = true ∧ (mkCo ctxC).hasCtx 0 0 = true ∧
    256 ≤ ({ ctxC with age := 256 } : Ctx).age ∧ 1 ≤ (mkCo { ctxC with cls := 1, age := 256 }).effOf 0 0 := by decide

/-- The coach of launch 5 stands in cluster 0 and owns channel 3 of core 0. -/
theorem test_meets_LaunchSteps_weights :
    let s := { mkGang .placed with
      cores := [(0, { chtab := [(3, chWord)], queue := [ev3 9] })], clusters := [(0, { coaches := [coach0] })] }
    coach0 ∈ (s.cluster (clusterOf 0)).here ∧ (s.core 0).ownsChannel 3 coach0 = true ∧
    (s.cluster 0).coachOf (BitVec.ofNat 16 5) = some coach0 ∧ coach0.state = .resident := by decide

/-- A slice of the gang that still runs at a tick. -/
theorem test_meets_LaunchSteps_slice :
    (5, 1000001) ∈ ({ mkGang .placed with slices := [(5, 1000001)] } : State).slices ∧ 1000000 < 1000001 := by decide

/-- A message for core 0 of launch 5, and one of an unknown launch; a register and a retire control record of launch l. -/
def amsg (lid : Nat) (tick : Word) : EndpointRec :=
  { words := [BitVec.ofNat 64 (2 ^ 18 + 4 * lid), 7, 8, 0, 0, tick, 0, 0], qp := 1 }
def ctl (type lid : Nat) (w3 : Word) : EndpointRec :=
  { words := [BitVec.ofNat 64 (type * 2 ^ 56 + lid * 2 ^ 40), 0, 0, w3, 0, 0, 0, 0], qp := 1 }
/-- A window of 4096 bytes at address 4096. -/
def win0 : Window := { rkey := 9, asid := 0, va := 4096, len := 4096, rd := true, wr := true }

theorem test_meets_HostInterface :
    let s := { mkGang .placed with endpoint := [amsg 5 0] }
    s.endpoint = amsg 5 0 :: [] ∧ s.controls = [] ∧ (ctl 1 5 0).seq < ({ amsg 5 0 with seq := 1 } : EndpointRec).seq ∧
    (s.launches.find? (((amsg 5 0).word 0).toNat / 4 % 2 ^ 16)).isSome = true ∧ (amsg 5 0).word 3 = 0 ∧ (amsg 5 0).word 4 = 0 ∧
    (amsg 5 0).word 6 = 0 ∧ (amsg 5 0).word 7 = 0 ∧ s.pkg = 0 ∧ s.mapped 0 = true ∧ launch5.dies.getLsbD 0 = true ∧ (amsg 5 0).put = none ∧
    s.launches.find? (((amsg 6 0).word 0).toNat / 4 % 2 ^ 16) = none ∧ (amsg 5 0).word 5 = 0 ∧
    s.recordRoom 0 = true ∧ ((mkFull 0).recordRoom 0 = false) ∧ (amsg 5 1000000).word 5 ≠ 0 ∧ (s.cluster 0).staged.length < 64 := by decide

theorem test_meets_HostInterface_rdma :
    let s := mkGang .placed
    let io := { mkIo (openPte 0 false) (.hostRdmaWrite 1 9 8190 [1, 2]) with windows := [win0] }
    let h : Nat × Nat × Nat × List Byte := (1, 9, 8190, [3])
    win0 ∈ io.windows ∧ (∀ v ∈ io.windows, v.rkey = win0.rkey → v = win0) ∧ win0.va ≤ 8190 ∧ 8190 + 2 ≤ win0.va + win0.len ∧
    ¬ 8191 + 2 ≤ win0.va + win0.len ∧ io.heldOf 1 = none ∧ ({ io with hostHeld := [h] } : State).heldOf 1 = some h ∧ h ≠ (1, 9, 8190, [1, 2]) ∧
    io.ioTranslate 0 true .write 8191 = .mem 8191 ∧ io.ioTranslate 0 true .read 8191 = .mem 8191 ∧ poisonedAt io.poison 8191 1 = false ∧
    io.lineBlocked ioHolder (8191 / 128) true = false ∧
    ({ io with lines := [(63, { active := some 1 })] } : State).lineBlocked ioHolder (8191 / 128) true = true ∧
    poisonedAt ({ io with poison := [1023] } : State).poison 8191 1 = true ∧
    (List.replicate 8 (0 : Word)).length % 8 = 0 ∧ s.endpoint.length + s.controls.length + 1 ≤ 1024 ∧
    ({ s with forward := [⟨0, 0, 0, 0, 0⟩] } : State).forward = ⟨0, 0, 0, 0, 0⟩ :: [] := by decide

/-- Memory with an extension block at 8188 that keeps one cluster of die 0, in the host's window. -/
def mkExt : State :=
  { mkIo (openPte 0 false) .registerLaunch with
    windows := [win0], mem := [(8000, 1)], controls := [{ ctl 1 5 (1 <<< 32 ||| 1) with words := [1 <<< 56 ||| 5 <<< 40, 0, 0, 1 <<< 32 ||| 1, 8000, 0, 0, 0] }] }

set_option maxRecDepth 4000 in
theorem test_meets_HostInterface_controls :
    let good := ctl 1 5 (1 <<< 32 ||| 1)
    let b : List Byte := 1 :: List.replicate 79 0
    (ctl 3 5 0).word 0 = 3 <<< 56 ||| 5 <<< 40 ∧ (mkGang .placed).launches.find? 5 ≠ none ∧ State.reset.launches.find? 5 = none ∧
    ((good.word 0).toNat / 2 ^ 56 = 1 ∧ (good.word 0).toNat % 2 ^ 18 = 0 ∧ (good.word 0).toNat / 2 ^ 40 % 2 ^ 16 = 5 ∧ good.word 1 = 0 ∧ good.word 4 = 0 ∧
      good.word 5 = 0 ∧ good.word 6 = 0 ∧ good.word 7 = 0 ∧ (good.word 0).toNat / 2 ^ 21 % 16 ≤ 8 ∧
      (good.word 3).toNat / 2 ^ 32 ≠ 0 ∧ (good.word 3).toNat % 2 ^ 32 ≠ 0) ∧
    State.reset.mapped 0 = true ∧ ((ctl 1 5 0).word 3).toNat % 2 ^ 32 = 0 ∧
    mkExt.extRead 0 8000 80 = .bytes b ((List.range 80).map (8000 + ·)) ∧ (State.reset.extRead 0 8000 80 = .bad) ∧
    ({ mkExt with clusters := [(0, { tlb := [⟨0, 0, false, openPte 0 false ||| 16⟩] })] } : State).extRead 0 8000 80 = .later [] ∧
    ({ mkExt with lines := [(62, { active := some 1 })] } : State).extRead 0 8000 80 = .later ((List.range 80).map (8000 + ·)) ∧
    fieldAt b 32 1 = 0 ∧ fieldAt b 33 1 = 0 ∧ (good.launch.withExt b).extOk = true ∧
    (good.launch.withExt (List.replicate 80 0)).extOk = false ∧ fieldAt b 34 1 % 2 = 0 ∧
    ((ctl 2 5 0).word 0).toNat % 2 ^ 40 = 0 ∧ (∀ i < 8, 1 ≤ i → (ctl 2 5 0).word i = 0) ∧
    (mkGang .placed).launchBusy 5 = false ∧ (mkCo ctxC).launchBusy 5 = true := by decide

/-! ### Tokens and tiers -/

def mkLine (l : Line) : State := { State.reset with lines := [(7, l)] }
/-- Die 1's slice has the owner token and two tokens; die 2 asks for the line. -/
def line1 : Line :=
  { tokens := [(1, 2), (32, 62)], owner := some 1, valid := [1, 32], asks := [(1, 2, false, 5), (1, 2, true, 5)]
    reqs := [{ requester := 2, write := true, attempts := 4 }], ons := [(1, 1, 2)], offs := [(1, 1, 2)] }
/-- Context 0 of core 256, on die 1, keeps a line since CYCLE 0. -/
def keeper0 : Keeper := { holder := 1, core := 256, ctx := 0, since := 0 }

theorem test_meets_TokenSteps :
    let s := mkLine line1
    let l := s.line 7
    let k := mkLine { line1 with held := [keeper0] }
    s.noRoom 2 7 = false ∧ (1, 2, false, 5) ∈ l.asks ∧ (1, 2, true, 5) ∈ l.asks ∧ l.obeying.find? 1 = none ∧ l.kept 1 = false ∧ (k.line 7).kept 1 = true ∧
    l.owner = some 1 ∧ 1 < l.count 1 ∧ (s.line 8).owner ≠ some 1 ∧ l.count 0 = 0 ∧ ({ l with obeying := [(1, 3)] } : Line).obeying.find? 1 ≠ none ∧
    ({ l with flying := [{ dst := 2, count := 1, owner := false, data := true }] } : Line).flying[0]? =
      some { dst := 2, count := 1, owner := false, data := true } ∧
    (mkLine line1).isHolder 2 = true := by decide

theorem test_meets_TokenSteps_persistent :
    let s := mkLine line1
    let l := s.line 7
    let k := mkLine { line1 with held := [keeper0] }
    2 ≠ homeHolder ∧ 128 * 7 < memorySize ∧ l.satisfied 2 true = false ∧ (s.line 8).reqs = [] ∧ s.outstanding 7 2 < 1 ∧
    2 ∈ ({ l with asked := [2] } : Line).asked ∧ l.active = none ∧ l.table = [] ∧
    l.ons.find? (fun m => m.1 == 1 && m.2.1 == 1) = some (1, 1, 2) ∧ l.stale 1 1 = false ∧ l.offs.find? (fun m => m.1 == 1 && m.2.1 == 1) = some (1, 1, 2) ∧
    (2, 1) ∈ ({ l with dones := [(2, 1)] } : Line).dones ∧ ({ l with active := some 2, actNum := 1 } : Line).active = some 2 ∧
    s.pinned 1 7 = false ∧ l.count 1 ≠ 0 ∧ (s.line 8).satisfied 32 true = true ∧
    List.find? (fun (p : Nat × Line) => p.2.keptBy 256 0) k.lines = some (7, { line1 with held := [keeper0] }) ∧ keeper0 ∈ (k.line 7).held ∧ keeper0.core = 256 ∧ keeper0.ctx = 0 ∧
    keeper0.since + 256 ≤ ({ k with cycles := [(1, 256)] } : State).cycles.get (vdnOf 256) 0 ∧
    k.cycles.get (vdnOf 256) 0 < keeper0.since + 256 ∧ (k.line 7).blocked 2 true = true ∧
    ({ line1 with tokens := [(2, 64)], owner := some 2, valid := [2], obeying := [(2, 2)] } : Line).satisfied 2 true = true := by decide

/-- Holder 2 is satisfied by a persistent request that it no longer waits for. -/
theorem test_meets_TokenSteps_givenUp :
    let q : TokReq := { requester := 2, write := true, attempts := 4, persistent := true }
    let l : Line := { tokens := [(2, 64)], owner := some 2, valid := [2], obeying := [(2, 2)], active := some 2, reqs := [q],
                      wants := [(2, true, .ctx 512 0)] }
    (2, 1) ∉ l.dones ∧ l.active ≠ none ∧ l.wants = [(2, true, .ctx 512 0)] ∧ ((mkLine l).ctx 512 0).run ≠ .waiting (.line 2 7 true) ∧
    l.reqs = [q] ∧ q.requester = 2 ∧ q.persistent = true ∧ l.satisfied 2 q.write = true ∧ l.obeying.find? 2 = some 2 := by decide

/-- A token of line 0 comes to a slice that is full of kept lines: it can take no other. -/
theorem test_meets_TokenSteps_fullOf :
    let m : TokMsg := { dst := 0, count := 1, owner := false, data := true }
    let kept : Line := { tokens := [(0, 1), (32, 63)], held := [{ holder := 0, core := 0, ctx := 0, since := 0 }] }
    ∀ k, sliceLines ≤ k → let s := { State.reset with lines := (0, { flying := [m] }) :: List.replicate k (257, kept) }
      (s.line 0).flying[0]? = some m ∧ (s.line 0).obeying.find? 0 = none ∧ s.noRoom 0 0 = true := by
  intro m kept k hk
  refine ⟨rfl, rfl, ?_⟩
  have h : homeSlice 257 = homeSlice 0 := by decide
  simp [State.noRoom, State.sliceFull, State.victims, State.line, State.stays, SMap.get, SMap.find?, Line.count, Line.kept, List.countP_replicate,
    h, hk, kept, m]

theorem test_meets_TokenSteps_full : ∃ (s : State) (m : TokMsg), (s.line 0).flying[0]? = some m ∧
    (s.line 0).obeying.find? m.dst = none ∧ s.noRoom m.dst 0 = true := by
  exact ⟨_, _, test_meets_TokenSteps_fullOf 512 (by decide)⟩

/-- A tile of one line for die 1. -/
def tile0 (st : TileState) (users : List Nat) : Tile := { state := st, users := users, vdn := 1, geo := 1 <<< 56 ||| 1 <<< 46 ||| 128 <<< 32 }
def mkTile (st : TileState) (users : List Nat) : State :=
  { mkIo (openPte 0 false) (.tileHeld 0) with tiles := [(0, tile0 st users)] }

theorem test_meets_TierSteps :
    let geo : Word := 1 <<< 56 ||| 1 <<< 46 ||| 128 <<< 32
    boxOk geo = true ∧ boxApart geo = true ∧ boxOk 0 = false ∧ State.reset.mapped 1 = true ∧ (0 : Word).toNat / 2 ^ 62 = 0 ∧
    (1 <<< 62 : Word).toNat / 2 ^ 62 = 1 ∧ (2 <<< 62 : Word).toNat / 2 ^ 62 = 2 ∧ (3 <<< 62 : Word).toNat / 2 ^ 62 = 3 ∧
    State.reset.tiles.find? 0 = none ∧ (mkTile .promoting [4]).tiles.find? 0 = some (tile0 .promoting [4]) ∧
    (mkTile .held [0]).tiles.find? 0 = some (tile0 .held [0]) ∧ 0 ∈ (tile0 .held [0, 3]).users ∧ 0 ∉ (tile0 .held [3]).users ∧
    (mkTile .evicting []).tiles.find? 0 = some (tile0 .evicting []) ∧ (tile0 .promoting [4]).waiting = [] ∧
    (∀ n ∈ tileLines 0 geo, ((mkTile .promoting [4]).line n).held = [] ∧ (mkTile .promoting [4]).lineBlocked 1 n true = false ∧
      (((mkTile .promoting [4]).pinnedOn 1 ++ tileLines 0 geo).filter fun m => homeSlice m == homeSlice n).length ≤ 64 * State.reset.tierWays) ∧
    ¬ ((tileLines 0 geo).length ≤ 64 * ({ State.reset with tierWays := 0 } : State).tierWays) ∧ State.reset.tierCounts = [] ∧
    ({ State.reset with tierCounts := [(4096, 0)] } : State).tierCounts = [(4096, 0)] ∧ (mkIo (openPte 0 false ||| 16) (.tileHeld 0)).ioTranslate 0 true .readWrite 4096 = .absent ∧
    (mkIo (openPte 0 false) (.tileHeld 0)).lineBlocked ioHolder (4096 / 128) true = false ∧
    ({ mkIo (openPte 0 false) (.tileHeld 0) with lines := [(32, { active := some 1 })] } : State).lineBlocked ioHolder (4096 / 128) true = true ∧
    (mkTile .promoting [4]).slicesTake 1 (tileLines 0 geo) = true ∧
    (∀ n ∈ tileLines 0 geo, ((mkTile .evicting []).line n).obeying.find? homeHolder ≠ some 1) ∧
    (∀ p ∈ (tile0 .promoting [4]).promoting, p.1 = 0) ∧ (∀ p ∈ (tile0 .evicting []).evicting, p.1 = 0) ∧
    (mkTile .promoting [4]).mapped (tile0 .promoting [4]).vdn = true ∧
    (mkTile .held [0]).ioTranslate 0 true .readWrite 4096 = .mem 4096 := by decide

/-! ### The package and the root of trust -/

theorem test_meets_PackageSteps :
    let s := State.reset
    (s.links.get 3 {}).down = false ∧ (s.links.get 3 {}).retraining = false ∧ (s.links.get 3 {}).fails < 15 ∧
    (∃ d ∈ s.vdns, 4 * d.2 ≤ 3 ∧ 3 < 4 * d.2 + 4) ∧ ¬ ((128 ≤ 144 ∧ 144 < 144) ∨ ∃ d ∈ s.vdns, 4 * d.2 ≤ 144 ∧ 144 < 4 * d.2 + 4) ∧
    15 ≤ ({ fails := 15 } : Link).fails ∧ ({ retraining := true } : Link).retraining = true ∧
    s.isHolder 2 = true := by decide

theorem test_meets_PackageSteps_dies :
    let s := State.reset
    let j := { s with domain := [0, 1], pkg := 1, ptc := 5 }
    s.mapped 31 = true ∧ s.cutOff 31 = false ∧ s.vdns.find? 31 = some 31 ∧
    ({ s with links := (List.range 4).map fun i => (124 + i, { down := true }) }).cutOff 31 = true ∧
    (∀ p ∈ ({ s with vdns := [(0, 0), (1, 1)] } : State).vdns, p.2 = 5 → p.1 = 4) ∧ s.clusters = [] ∧
    (5 < 32 ∧ .compute 5 ∉ s.inReset ∧ ∀ d ∈ s.lost, d.2 ≠ 5) ∧ .compute 5 ∈ ({ s with inReset := [.compute 5] } : State).inReset ∧
    ({ s with vdns := [(0, 0)] } : State).mapped 4 = false ∧
    (∃ i < 16, (j.links.get (128 + i) {}).down = false ∧ (j.links.get (128 + i) {}).retraining = false) ∧ 0 ∈ j.domain ∧ 0 < j.pkg ∧
    ¬ 0 < s.pkg ∧ j.ptc < 6 ∧ 4 < j.ptc ∧ s.joined = false ∧ s.registeredOnce = false ∧
    5 < 32 := by decide

theorem test_meets_PackageSteps_power :
    let s := State.reset
    s.pkg ∈ [0, 127] ∧ (∀ p ∈ [0, 127], p < 128) ∧ s.tiles = [] ∧ (∀ b ∈ s.budgets, b.1 ≠ .governor) ∧
    List.find? (fun b => b.1 == BudgetItem.governor) [(BudgetItem.governor, 9)] = some (.governor, 9) ∧ 115 ≤ 115 ∧
    3072 * 10 ^ 9 - 1 < 3072 * 10 ^ 9 ∧ s.hasCompute 8191 = true ∧ 131071 < 131072 ∧ isSvc 8192 = true ∧ s.hasCore 8192 = true ∧ 32767 < 32768 ∧
    8191 ∈ [8191] ∧ 5 ∈ ({ l1 := [5] } : Line).l1 ∧ vdnOf 256 ∈ ({ valid := [1] } : Line).valid ∧ 1023 < macroCols 0 ∧
    (∀ m < 4, BootDie.bxm m ∉ [BootDie.compute 3]) ∧ BootDie.bxio ∉ [BootDie.compute 3] ∧
    30 ≤ ((List.range 32).filter fun p => !([BootDie.compute 3, .compute 9].contains (.compute p))).length ∧
    ¬ 30 ≤ ((List.range 32).filter fun p => !([BootDie.compute 3, .compute 9, .compute 10].contains (.compute p))).length := by decide

theorem test_meets_SpdmAnswers :
    ({ State.reset with agenda := [.getMeasurements 40 false 0] } : State).agenda = .getMeasurements 40 false 0 :: [] ∧
    (1 : Nat) ≤ 40 ∧ 40 ≤ 40 ∧ 40 < 41 := by decide

/-! ### The machine as a whole -/

theorem test_meets_DecodedWords :
    let s := { mk ctxA with agenda := [.illegalInstruction 0xFFFFFFFF] }
    s.me.run = .ready ∧ s.agenda = .illegalInstruction 0xFFFFFFFF :: [] := by decide

theorem test_meets_DecodeEncodeAgree :
    (Instr.amoadd 10 18 6 .rel true .die 0).wellFormed = true ∧
    encode? (.amoadd 10 18 6 .rel true .die 0) = some 0x0C696530 ∧ decode 0x0C696530 = some (.amoadd 10 18 6 .rel true .die 0) := by decide

/-- Context 0 of core 0 is picked and fetches from mapped memory; a service core's context fetches a WFE. -/
theorem test_meets_StepRunsDecoded :
    let s := mkMem ctxA (openPte 0 false)
    s.agenda = [] ∧ s.held = false ∧ s.turn.timePasses.focus = 0 ∧ (s.turn.timePasses.pick 0).map Prod.fst = some 0 ∧
    State.reset.turn.timePasses.pick 0 = none ∧ (s.ctx 0 0).parkNext = none ∧
    ((mkMem { ctxA with parkNext := some 8 } (openPte 0 false)).ctx 0 0).parkNext = some 8 ∧ (s.ctx 0 0).remoteAsked = false ∧
    (s.ctx 0 0).remoteVals = [] ∧ s.lineBlocked (vdnOf 0) 0 false = false ∧
    s.translate 0 0 false .fetch 0 = .mem 0 ∧ poisonedAt s.poison 0 4 = false ∧ (mk ctxA).fetch = .miss ∧
    ({ s with held := true }).held = true ∧ (Event.scanRead 0 0 .pc).whenHeld = false ∧ (Event.getVersion).whenHeld = true := by decide

theorem test_meets_StepsKeepStores : State.reset.StoresWf :=
  ⟨rfl, fun _ => rfl, fun _ _ hc => nomatch hc⟩

theorem test_meets_StepsKeepTokens : State.reset.LinesWf := fun _ => home_wf

end Sys2Proof.Tests
end

section
/-!
The two words that are never an instruction (R68), the trap that a word takes which is none (R76), and O55.
-/

namespace Sys2Proof

/-- The majors 0x1C to 0x1F are reserved (R75): a word that has one of them is no instruction. -/
theorem decode_of_reserved_major (w : BitVec 32) (h : 0x1C#5 ≤ fld 2 5 w) : decode w = none := by
  have major : ∀ maj : BitVec 5, 0x1C#5 ≤ maj → maj = 0x1C#5 ∨ maj = 0x1D#5 ∨ maj = 0x1E#5 ∨ maj = 0x1F#5 := by decide
  unfold decode
  split
  · rfl
  · obtain e | e | e | e := major _ h <;> rw [e] <;> rfl

/-- R68: neither of the two words is an instruction. The first has a test of its own; the major of the second is reserved. -/
theorem decode_of_zeros_or_ones {w : BitVec 32} (h : w = 0x00000000 ∨ w = 0xFFFFFFFF) : decode w = none := by
  obtain rfl | rfl := h
  · rfl
  · exact decode_of_reserved_major _ (by decide)

end Sys2Proof

namespace Sys2Proof.Machine

/-- R76: a word that is no instruction on the issuing core takes the illegal-instruction trap (cause 1), with TVAL the word. -/
theorem exec_illegalInstruction_traps (s : State) (w : BitVec 32) (r : List Event)
    (hagenda : s.agenda = .illegalInstruction w :: r) (hready : s.me.run = .ready)
    (hw : decode w = none ∨ (isSvc s.focus = true ∧ svcLacks w = true)) :
    exec .illegalInstruction s = .next (s.pop.trap 1 (w.setWidth 64)) := by
  have hpop : s.pop.me.run = .ready := hready
  change execIllegalInstruction s = _
  simp [execIllegalInstruction, hagenda, hpop, hw]

/-- Settles O55: the words that are instructions decode by their fields; the two of R68 decode to none, and so trap. -/
theorem decodedWords : Obligations.DecodedWords := by
  unfold Obligations.DecodedWords
  refine ⟨by decide, by decide, by decide, by decide, by decide, by decide, by decide, by decide,
    decode_of_zeros_or_ones (.inl rfl), decode_of_zeros_or_ones (.inr rfl), ?_⟩
  intro s r w hw hagenda hready
  exact exec_illegalInstruction_traps s w r hagenda hready (.inl (decode_of_zeros_or_ones hw))

end Sys2Proof.Machine
end

section
/-!
What the scalar operand forms answer (R77, R88, R102 to R104), and how an instruction that is one of them meets the shapes
`GivesR`, `GivesVar`, `GivesI` and `BranchesOn`.
-/

namespace Sys2Proof.Machine

/-- An instruction that the checking scoreboard passes runs. -/
theorem State.issue_of_no_hazard (s : State) (u : Use) (run : State → State) (h : s.me.hazard u = none) :
    s.issue u run = run s := by
  simp [State.issue, h]

/-- With rd = 0 the write is discarded, so that the hint of R77 is no case of its own. -/
theorem State.hint_eq_done_fixX_zero (s : State) (stl : Stall) (lat : Nat) (g : Ctx → Word) :
    s.hint stl = s.done stl fun c => c.fixX (0 : Reg).toNat lat (g c) := rfl

theorem State.aluR_eq_done (s : State) (lat : Nat) (f : Word → Word → Word) (rd rs1 rs2 : Reg) (stl : Stall)
    (h : rd = 0 ∨ s.me.hazard { reads := [useX rs1, useX rs2], writes := [useX rd], lat := lat } = none) :
    s.aluR lat f rd rs1 rs2 stl =
      s.done stl fun c => c.fixX rd.toNat lat (f (s.me.rx rs1.toNat) (s.me.rx rs2.toNat)) := by
  unfold State.aluR
  split
  case isTrue h0 => rw [h0, s.hint_eq_done_fixX_zero]
  case isFalse h0 => rw [State.issue_of_no_hazard s _ _ (h.resolve_left h0)]; rfl

theorem State.aluI_eq_done (s : State) (f : Word → Word) (rd rs1 : Reg) (stl : Stall)
    (h : rd = 0 ∨ s.me.hazard { reads := [useX rs1], writes := [useX rd], lat := 1 } = none) :
    s.aluI f rd rs1 stl = s.done stl fun c => c.fixX rd.toNat 1 (f (s.me.rx rs1.toNat)) := by
  unfold State.aluI
  split
  case isTrue h0 => rw [h0, s.hint_eq_done_fixX_zero]
  case isFalse h0 => rw [State.issue_of_no_hazard s _ _ (h.resolve_left h0)]; rfl

theorem State.aluU_eq_done (s : State) (f : Word → Word) (rd : Reg) (stl : Stall)
    (h : rd = 0 ∨ s.me.hazard { writes := [useX rd], lat := 1 } = none) :
    s.aluU f rd stl = s.done stl fun c => c.fixX rd.toNat 1 (f c.pc) := by
  unfold State.aluU
  split
  case isTrue h0 => rw [h0, s.hint_eq_done_fixX_zero]
  case isFalse h0 => rw [State.issue_of_no_hazard s _ _ (h.resolve_left h0)]

theorem State.aluVar_of_zero (s : State) (f : Word → Word → Word) (rs1 rs2 : Reg) (stl : Stall) :
    s.aluVar f 0 rs1 rs2 stl = s.done stl id := rfl

theorem State.aluVar_eq_done (s : State) (f : Word → Word → Word) {rd : Reg} (rs1 rs2 : Reg) (stl : Stall) (h0 : rd ≠ 0)
    (h : s.me.hazard { reads := [useX rs1, useX rs2], writes := [useX rd] } = none) :
    s.aluVar f rd rs1 rs2 stl =
      s.done stl fun c => c.varX rd.toNat (f (s.me.rx rs1.toNat) (s.me.rx rs2.toNat)) := by
  rw [State.aluVar, if_neg h0, State.issue_of_no_hazard s _ _ h]; rfl

theorem GivesR.of_aluR {lat : Nat} {i : Reg → Reg → Reg → Stall → Instr} {val : Word → Word → Word → Prop}
    (f : Word → Word → Word) (hval : ∀ a b, val a b (f a b))
    (hexec : ∀ rd rs1 rs2 stl s, exec (i rd rs1 rs2 stl) s = .next (s.aluR lat f rd rs1 rs2 stl) := by intros; rfl) :
    GivesR lat i val := by
  intro s rd rs1 rs2 stl h
  exact ⟨_, hval _ _, by rw [hexec, s.aluR_eq_done _ _ _ _ _ _ h]⟩

theorem GivesI.of_aluI {i : Reg → Reg → Stall → Instr} {val : Word → Word → Prop} (f : Word → Word)
    (hval : ∀ a, val a (f a))
    (hexec : ∀ rd rs1 stl s, exec (i rd rs1 stl) s = .next (s.aluI f rd rs1 stl) := by intros; rfl) : GivesI i val := by
  intro s rd rs1 stl h
  exact ⟨_, hval _, by rw [hexec, s.aluI_eq_done _ _ _ _ h]⟩

theorem GivesVar.of_aluVar {i : Reg → Reg → Reg → Stall → Instr} {val : Word → Word → Word → Prop}
    (f : Word → Word → Word) (hval : ∀ a b, val a b (f a b))
    (hexec : ∀ rd rs1 rs2 stl s, exec (i rd rs1 rs2 stl) s = .next (s.aluVar f rd rs1 rs2 stl) := by intros; rfl) :
    GivesVar i val := by
  intro s rd rs1 rs2 stl
  refine ⟨fun h0 => ?_, fun h0 h => ⟨_, hval _ _, ?_⟩⟩
  · rw [hexec, h0, s.aluVar_of_zero]
  · rw [hexec, s.aluVar_eq_done _ _ _ _ h0 h]

end Sys2Proof.Machine
end

section
/-!
The codes of the R and I formats (R69): a code stands for an instruction when its major's table says so.
-/

namespace Sys2Proof

/-- Bits [31:26] are the upper half of the immediate of the I format. -/
theorem Fields.f6_eq_imm12 (f : Fields) : f.f6 = f.imm12.extractLsb' 6 6 := by
  refine BitVec.eq_of_getLsbD_eq fun i hi => ?_
  rw [Fields.f6, Fields.imm12, BitVec.getLsbD_extractLsb', BitVec.getLsbD_extractLsb', BitVec.getLsbD_append,
    if_neg (by omega), show 6 + i - 5 = 1 + i by omega]

/-- Bits [31:25] and [24:20] are its upper 7 and lower 5 bits. -/
theorem Fields.f7_eq_imm12 (f : Fields) : f.f7 = f.imm12.extractLsb' 5 7 := (append_hi f.f7 f.rs2).symm
theorem Fields.rs2_eq_imm12 (f : Fields) : f.rs2 = f.imm12.extractLsb' 0 5 := (append_lo f.f7 f.rs2).symm

/-- An immediate of a code and a shift amount of 6 bits. -/
theorem Fields.f6_sh6_of_imm12 {f : Fields} {c sh : BitVec 6} (h : f.imm12 = c ++ sh) : f.f6 = c ∧ f.sh6 = sh := by
  rw [f.f6_eq_imm12, Fields.sh6, h]
  exact ⟨append_hi c sh, append_lo c sh⟩

/-- An immediate of a code and a shift amount of 5 bits. -/
theorem Fields.f7_rs2_of_imm12 {f : Fields} {c : BitVec 7} {sh : BitVec 5} (h : f.imm12 = c ++ sh) :
    f.f7 = c ∧ f.rs2 = sh := by
  rw [f.f7_eq_imm12, f.rs2_eq_imm12, h]
  exact ⟨append_hi c sh, append_lo c sh⟩

/-- A code above another is none up to that one, and a code below another none from that one on: how `simp` passes over the
rows of a major's table. -/
theorem ne_of_above {n : Nat} {a x : BitVec n} (h : a < x) (k : BitVec n) (hk : k ≤ a) : x ≠ k := by
  rintro rfl
  exact BitVec.not_lt.2 hk h

theorem ne_of_below {n : Nat} {a x : BitVec n} (h : x < a) (k : BitVec n) (hk : a ≤ k) : x ≠ k := by
  rintro rfl
  exact BitVec.not_lt.2 hk h

namespace Machine

/-! A major's table `dec` decides its words. -/

theorem decode_wordR {maj : BitVec 5} (dec : Fields → Option Instr) (f7 : BitVec 7) (rs2 rs1 : BitVec 5) (f3 : BitVec 3)
    (rd : BitVec 5) (stl : Stall) (hmaj : maj ≠ 0 := by decide)
    (hdec : ∀ imm20 f, decodeMajor maj imm20 f = dec f := by intros; rfl) :
    decode (wordR f7 rs2 rs1 f3 rd maj stl) = dec ⟨stl, rd, f3, rs1, rs2, f7⟩ :=
  (decode_encR f7 rs2 rs1 f3 rd maj stl hmaj).trans (hdec _ _)

theorem decode_wordI (dec : Fields → Option Instr) (imm : BitVec 12) (rs1 : BitVec 5) (f3 : BitVec 3)
    (rd maj : BitVec 5) (stl : Stall) (hmaj : maj ≠ 0 := by decide)
    (hdec : ∀ imm20 f, decodeMajor maj imm20 f = dec f := by intros; rfl) :
    ∃ f : Fields, f.stl = stl ∧ f.rd = rd ∧ f.f3 = f3 ∧ f.rs1 = rs1 ∧ f.imm12 = imm ∧
      decode (wordI imm rs1 f3 rd maj stl) = dec f :=
  ⟨⟨stl, rd, f3, rs1, imm.extractLsb' 0 5, imm.extractLsb' 5 7⟩, rfl, rfl, rfl, rfl, parts_append (n := 7) (m := 5) imm,
    (congrArg decode (encI_eq imm rs1 f3 rd maj stl)).trans (decode_wordR dec _ _ _ _ _ _ hmaj hdec)⟩

theorem decode_wordI_eq_none {imm : BitVec 12} {f3 : BitVec 3} {maj : BitVec 5} (dec : Fields → Option Instr)
    (h : ∀ f, f.f3 = f3 → f.imm12 = imm → dec f = none) (rs1 rd : BitVec 5) (stl : Stall) (hmaj : maj ≠ 0 := by decide)
    (hdec : ∀ imm20 f, decodeMajor maj imm20 f = dec f := by intros; rfl) : decode (wordI imm rs1 f3 rd maj stl) = none := by
  obtain ⟨f, -, -, h3, -, himm, hf⟩ := decode_wordI dec imm rs1 f3 rd maj stl hmaj hdec
  rw [hf, h f h3 himm]

theorem CodesR.of_table {maj : BitVec 5} {f7 : BitVec 7} {f3 : BitVec 3} {i : Reg → Reg → Reg → Stall → Instr}
    (dec : Fields → Option Instr)
    (h : ∀ rd rs1 rs2 stl, dec ⟨stl, rd, f3, rs1, rs2, f7⟩ = some (i rd rs1 rs2 stl)) (hmaj : maj ≠ 0 := by decide)
    (hdec : ∀ imm20 f, decodeMajor maj imm20 f = dec f := by intros; rfl) : CodesR maj f7 f3 i := by
  intro rd rs1 rs2 stl
  rw [decode_wordR dec _ _ _ _ _ _ hmaj hdec, h]

theorem CodesI.of_table {maj : BitVec 5} {f3 : BitVec 3} {i : Reg → Reg → BitVec 12 → Stall → Instr}
    (dec : Fields → Option Instr) (h : ∀ f, f.f3 = f3 → dec f = some (i f.rd f.rs1 f.imm12 f.stl))
    (hmaj : maj ≠ 0 := by decide) (hdec : ∀ imm20 f, decodeMajor maj imm20 f = dec f := by intros; rfl) :
    CodesI maj f3 i := by
  intro rd rs1 imm stl
  obtain ⟨f, rfl, rfl, h3, rfl, rfl, hf⟩ := decode_wordI dec imm rs1 f3 rd maj stl hmaj hdec
  rw [hf, h f h3]

theorem CodesU.of_table {maj : BitVec 5} {f3 : BitVec 3} {imm : BitVec 12} {i : Reg → Reg → Stall → Instr}
    (dec : Fields → Option Instr) (h : ∀ f, f.f3 = f3 → f.imm12 = imm → dec f = some (i f.rd f.rs1 f.stl))
    (hmaj : maj ≠ 0 := by decide) (hdec : ∀ imm20 f, decodeMajor maj imm20 f = dec f := by intros; rfl) :
    CodesU maj f3 imm i := by
  intro rd rs1 stl
  obtain ⟨f, rfl, rfl, h3, rfl, himm, hf⟩ := decode_wordI dec imm rs1 f3 rd maj stl hmaj hdec
  rw [hf, h f h3 himm]

end Machine
end Sys2Proof
end

section
/-!
The values of the integer operations (R37, R102 to R104) at every width.
-/

namespace Sys2Proof

/-- The lowest number below n that f accepts, n where there is none. -/
theorem lowest_getD (n : Nat) (f : Nat → Bool) :
    (lowest n f).getD n ≤ n ∧ (∀ i < (lowest n f).getD n, f i = false) ∧
      ((lowest n f).getD n < n → f ((lowest n f).getD n) = true) := by
  unfold lowest
  cases h : (List.range n).find? f with
  | none =>
    rw [List.find?_range_eq_none] at h
    exact ⟨le_rfl, fun i hi => by simpa using h i hi, fun hn => absurd hn (lt_irrefl n)⟩
  | some k =>
    obtain ⟨hk, hmem, hlow⟩ := List.find?_range_eq_some.1 h
    exact ⟨(List.mem_range.1 hmem).le, fun i hi => by simpa using hlow i hi, fun _ => hk⟩

namespace Machine

/-! ### Counting bits -/

/-- A count of bits of a word fits a word. -/
theorem toNat_ofNat_of_le_64 {n k : Nat} (hn : n ≤ 64) (hk : k ≤ n) : (BitVec.ofNat 64 k).toNat = k :=
  (BitVec.toNat_ofNat k 64).trans (Nat.mod_eq_of_lt (by omega))

theorem leadingZeros_clzN {n : Nat} (hn : n ≤ 64) (a : Word) : LeadingZeros n a (clzN n a) := by
  have h := lowest_getD n fun i => a.getLsbD (n - 1 - i)
  rw [LeadingZeros, clzN, toNat_ofNat_of_le_64 hn h.1]
  exact h

theorem trailingZeros_ctzN {n : Nat} (hn : n ≤ 64) (a : Word) : TrailingZeros n a (ctzN n a) := by
  have h := lowest_getD n fun i => a.getLsbD i
  rw [TrailingZeros, ctzN, toNat_ofNat_of_le_64 hn h.1]
  exact h

theorem oneBits_popN {n : Nat} (hn : n ≤ 64) (a : Word) : OneBits n a (popN n a) := by
  have hle : (List.range n).countP (fun i => a.getLsbD i) ≤ n := by
    simpa using List.countP_le_length (p := fun i => a.getLsbD i) (l := List.range n)
  rw [OneBits, popN, countBelow, ← List.countP_eq_length_filter, toNat_ofNat_of_le_64 hn hle]

/-! ### Immediates, sums and shifts -/

theorem immI_eq_ofInt (imm : BitVec 12) : immI imm = BitVec.ofInt 64 imm.toInt := rfl

theorem toInt_immI (imm : BitVec 12) : (immI imm).toInt = imm.toInt := BitVec.toInt_signExtend_of_le (by decide)

theorem ofInt_toNat {n : Nat} (a : BitVec n) : BitVec.ofInt n (a.toNat : Int) = a := by simp

theorem ofInt_sub (n : Nat) (x y : Int) : BitVec.ofInt n (x - y) = BitVec.ofInt n x - BitVec.ofInt n y := by
  rw [Int.sub_eq_add_neg, BitVec.ofInt_add, BitVec.ofInt_neg, BitVec.sub_eq_add_neg]

theorem add_ofInt {n : Nat} (a : BitVec n) (k : Int) : a + BitVec.ofInt n k = BitVec.ofInt n (a.toNat + k) := by
  rw [BitVec.ofInt_add, ofInt_toNat]

theorem flag_eq_ite (p : Prop) [Decidable p] : flag (decide p) = if p then 1 else 0 := by
  simp [flag]

theorem shiftLeft_eq_ofNat {n : Nat} (a : BitVec n) (k : Nat) : a <<< k = BitVec.ofNat n (a.toNat * 2 ^ k) := by
  refine BitVec.eq_of_toNat_eq ?_
  rw [BitVec.toNat_shiftLeft, Nat.shiftLeft_eq, BitVec.toNat_ofNat]

theorem toNat_ushiftRight_eq_div {n : Nat} (a : BitVec n) (k : Nat) : (a >>> k).toNat = a.toNat / 2 ^ k := by
  rw [BitVec.toNat_ushiftRight, Nat.shiftRight_eq_div_pow]

theorem toInt_sshiftRight_eq_div {n : Nat} (a : BitVec n) (k : Nat) : (a.sshiftRight k).toInt = a.toInt / 2 ^ k := by
  rw [BitVec.toInt_sshiftRight, Int.shiftRight_eq_div_pow, Nat.cast_pow, Nat.cast_ofNat]

theorem getLsbD_rotateRight_64 (a : Word) (k i : Nat) (hi : i < 64) :
    (a.rotateRight k).getLsbD i = a.getLsbD ((i + k) % 64) := by
  rw [BitVec.getLsbD_rotateRight, decide_eq_true hi, Bool.true_and]
  by_cases h : i < 64 - k % 64
  · rw [decide_eq_true h, cond_true, show (i + k) % 64 = k % 64 + i by omega]
  · rw [decide_eq_false h, cond_false, show (i + k) % 64 = i - (64 - k % 64) by omega]

/-! ### Choosing and saturating -/

theorem toInt_min_slt {n : Nat} (a b : BitVec n) : (if a.slt b then a else b).toInt = min a.toInt b.toInt := by
  simp only [BitVec.slt_eq_decide, decide_eq_true_eq]
  split <;> omega

theorem toInt_max_slt {n : Nat} (a b : BitVec n) : (if a.slt b then b else a).toInt = max a.toInt b.toInt := by
  simp only [BitVec.slt_eq_decide, decide_eq_true_eq]
  split <;> omega

theorem toNat_min_ult {n : Nat} (a b : BitVec n) : (if a.ult b then a else b).toNat = min a.toNat b.toNat := by
  simp only [BitVec.ult, decide_eq_true_eq]
  split <;> omega

theorem toNat_max_ult {n : Nat} (a b : BitVec n) : (if a.ult b then b else a).toNat = max a.toNat b.toNat := by
  simp only [BitVec.ult, decide_eq_true_eq]
  split <;> omega

theorem satSigned_eq_clampS (n : Nat) (v : Int) : satSigned n v = clampS n v := by
  have : (0 : Int) < 2 ^ (n - 1) := by positivity
  simp only [satSigned, clampS, Nat.cast_pow, Nat.cast_ofNat]
  split_ifs <;> omega

theorem toInt_ofInt_satSigned {n : Nat} (hn : 0 < n) (v : Int) : (BitVec.ofInt n (satSigned n v)).toInt = clampS n v := by
  have : (0 : Int) < 2 ^ (n - 1) := by positivity
  rw [satSigned_eq_clampS, BitVec.toInt_ofInt_eq_self hn] <;> unfold clampS <;> omega

theorem toInt_addSat {n : Nat} (hn : 0 < n) (a b : BitVec n) : (addSat a b).toInt = clampS n (a.toInt + b.toInt) :=
  toInt_ofInt_satSigned hn _

theorem toInt_subSat {n : Nat} (hn : 0 < n) (a b : BitVec n) : (subSat a b).toInt = clampS n (a.toInt - b.toInt) :=
  toInt_ofInt_satSigned hn _

theorem toNat_addSatU {n : Nat} (a b : BitVec n) : (addSatU a b).toNat = min (a.toNat + b.toNat) (2 ^ n - 1) := by
  have := Nat.two_pow_pos n
  rw [addSatU, BitVec.toNat_ofNat, Nat.mod_eq_of_lt (by omega)]

theorem toNat_subSatU {n : Nat} (a b : BitVec n) : ((subSatU a b).toNat : Int) = max ((a.toNat : Int) - b.toNat) 0 := by
  have := a.isLt
  rw [subSatU, BitVec.toNat_ofNat, Nat.mod_eq_of_lt (by omega)]
  omega

/-! ### Products -/

/-- Bits [127:64] of a signed product of 128 bits. -/
theorem toInt_mulHigh {p : Int} (h : -2 ^ 127 ≤ p) (h' : p < 2 ^ 127) : (mulHigh p).toInt = p / 2 ^ 64 := by
  rw [mulHigh, BitVec.toInt_ofInt_eq_self (by decide)] <;> norm_num at * <;> omega

/-- Bits [127:64] of an unsigned one. -/
theorem toNat_mulHigh {p : Nat} (h : p < 2 ^ 128) : (mulHigh p).toNat = p / 2 ^ 64 := by
  rw [mulHigh, ← Int.natCast_div, BitVec.ofInt_natCast, BitVec.toNat_ofNat, Nat.mod_eq_of_lt (by omega)]

theorem toInt_mulHigh_signed (a b : Word) : (mulHigh (a.toInt * b.toInt)).toInt = a.toInt * b.toInt / 2 ^ 64 :=
  toInt_mulHigh (by have := @BitVec.le_toInt_mul_toInt 64 a b; omega) (by have := @BitVec.toInt_mul_toInt_le 64 a b; omega)

theorem toNat_mulHigh_unsigned (a b : Word) : (mulHigh ((a.toNat * b.toNat : Nat) : Int)).toNat = a.toNat * b.toNat / 2 ^ 64 :=
  toNat_mulHigh (by nlinarith [a.isLt, b.isLt])

theorem toInt_mulHigh_mixed (a b : Word) : (mulHigh (a.toInt * (b.toNat : Int))).toInt = a.toInt * b.toNat / 2 ^ 64 := by
  have hlo : -2 ^ 63 ≤ a.toInt := a.le_toInt
  have hhi : a.toInt < 2 ^ 63 := a.toInt_lt
  have hb : (b.toNat : Int) < 2 ^ 64 := by exact_mod_cast b.isLt
  have hb0 : (0 : Int) ≤ b.toNat := Int.natCast_nonneg _
  exact toInt_mulHigh (by nlinarith) (by nlinarith)

/-! ### Division (R37) -/

theorem eq_zero_iff_toInt_eq_zero {n : Nat} (b : BitVec n) : b = 0 ↔ b.toInt = 0 := by
  rw [← BitVec.toInt_inj]; simp

theorem eq_zero_iff_toNat_eq_zero {n : Nat} (b : BitVec n) : b = 0 ↔ b.toNat = 0 := BitVec.toNat_inj.symm

theorem toInt_allOnes_of_pos {n : Nat} (hn : 0 < n) : (BitVec.allOnes n).toInt = -1 := by
  rw [BitVec.toInt_allOnes, if_pos hn]

/-- Signed division, with its two special cases. -/
theorem toInt_divS {n : Nat} (hn : 0 < n) (a b : BitVec n) : (divS a b).toInt = quotS n a.toInt b.toInt := by
  have hmin : a.toInt = -2 ^ (n - 1) ↔ a = BitVec.intMin n := by
    rw [← BitVec.toInt_inj, BitVec.toInt_intMin_of_pos hn]
  have hone : b.toInt = -1 ↔ b = -1#n := by
    rw [BitVec.neg_one_eq_allOnes, ← BitVec.toInt_inj, toInt_allOnes_of_pos hn]
  simp only [divS, quotS, ← eq_zero_iff_toInt_eq_zero, hmin, hone]
  split_ifs with h0 hover
  · exact toInt_allOnes_of_pos hn
  · rw [hover.1, hover.2, BitVec.intMin_sdiv_neg_one]
  · exact BitVec.toInt_sdiv_of_ne_or_ne a b (not_and_or.1 hover)

theorem toInt_remS {n : Nat} (a b : BitVec n) : (remS a b).toInt = remainS a.toInt b.toInt := by
  simp only [remS, remainS, ← eq_zero_iff_toInt_eq_zero]
  split
  · rfl
  · exact BitVec.toInt_srem a b

theorem toNat_divU {n : Nat} (a b : BitVec n) :
    (divU a b).toNat = if b.toNat = 0 then 2 ^ n - 1 else a.toNat / b.toNat := by
  simp only [divU, ← eq_zero_iff_toNat_eq_zero]
  split
  · exact BitVec.toNat_allOnes
  · exact BitVec.toNat_udiv

theorem toNat_remU {n : Nat} (a b : BitVec n) :
    (remU a b).toNat = if b.toNat = 0 then a.toNat else a.toNat % b.toNat := by
  simp only [remU, ← eq_zero_iff_toNat_eq_zero]
  split
  · rfl
  · exact BitVec.toNat_umod

end Machine
end Sys2Proof
end

section
/-!
The instructions of majors OPIMM and OP (R102, R103): O1 and O2.
-/

namespace Sys2Proof.Machine

/-- R102: above the codes of the shifts by an immediate, and above those of CLZ, CTZ and POPC, none is assigned. -/
theorem decOpImm_of_reserved (f : Fields) (h : (f.f3 = 6 ∧ 0x0FF < f.imm12) ∨ (f.f3 = 7 ∧ 0x002 < f.imm12)) :
    decOpImm f = none := by
  obtain ⟨h3, himm⟩ | ⟨h3, himm⟩ := h
  · have hf6 : 3 < f.f6 := by
      rw [f.f6_eq_imm12, BitVec.lt_def, BitVec.extractLsb'_toNat, Nat.shiftRight_eq_div_pow]
      bv_omega
    simp [decOpImm, h3, ne_of_above hf6]
  · simp [decOpImm, h3, ne_of_above himm]

/-- R103: the combinations of f7 and f3 that are reserved. -/
theorem decOp_of_reserved (f : Fields) (h : 5 < f.f7 ∨ (0 < f.f7 ∧ 3 < f.f3) ∨ f.f3 = 7) : decOp f = none := by
  obtain h7 | ⟨h7, h3⟩ | h3 := h
  · simp [decOp, ne_of_above h7]
  · simp [decOp, ne_of_above h7, ne_of_above h3]
  · simp [decOp, h3]

theorem codesU_opImm_shifts (sh : BitVec 6) :
    CodesU 0x02 6 (0b000000#6 ++ sh) (fun rd rs1 stl => .slli rd rs1 sh stl) ∧
    CodesU 0x02 6 (0b000001#6 ++ sh) (fun rd rs1 stl => .srli rd rs1 sh stl) ∧
    CodesU 0x02 6 (0b000010#6 ++ sh) (fun rd rs1 stl => .srai rd rs1 sh stl) ∧
    CodesU 0x02 6 (0b000011#6 ++ sh) (fun rd rs1 stl => .rori rd rs1 sh stl) := by
  refine ⟨?_, ?_, ?_, ?_⟩ <;> refine .of_table decOpImm fun f h3 himm => ?_ <;>
  · obtain ⟨h6, hsh⟩ := Fields.f6_sh6_of_imm12 himm
    simp [decOpImm, h3, h6, hsh]

theorem codesU_opImm_counts : CodesU 0x02 7 0x000 .clz ∧ CodesU 0x02 7 0x001 .ctz ∧ CodesU 0x02 7 0x002 .popc := by
  refine ⟨?_, ?_, ?_⟩ <;> exact .of_table decOpImm fun f h3 himm => by simp [decOpImm, h3, himm]

/-- Settles O1: each value is the model's operation of its word, each code a row of the table of major OPIMM. -/
theorem opImmResults : Obligations.OpImmResults := by
  unfold Obligations.OpImmResults
  obtain ⟨hclz, hctz, hpopc⟩ := codesU_opImm_counts
  refine ⟨fun imm => .of_aluI (· + immI imm) fun a => add_ofInt a _,
    fun imm => .of_aluI (· &&& immI imm) fun a i _ => BitVec.getLsbD_and,
    fun imm => .of_aluI (· ||| immI imm) fun a i _ => BitVec.getLsbD_or,
    fun imm => .of_aluI (· ^^^ immI imm) fun a i _ => BitVec.getLsbD_xor,
    fun imm => .of_aluI (fun a => flag (a.slt (immI imm))) fun a => by
      rw [BitVec.slt_eq_decide, toInt_immI, flag_eq_ite],
    fun imm => .of_aluI (fun a => flag (a.ult (immI imm))) fun a => flag_eq_ite _,
    fun sh => .of_aluI (· <<< sh.toNat) fun a => shiftLeft_eq_ofNat a _,
    fun sh => .of_aluI (· >>> sh.toNat) fun a => toNat_ushiftRight_eq_div a _,
    fun sh => .of_aluI (·.sshiftRight sh.toNat) fun a => toInt_sshiftRight_eq_div a _,
    fun sh => .of_aluI (·.rotateRight sh.toNat) fun a => getLsbD_rotateRight_64 a _,
    .of_aluI (clzN 64) (leadingZeros_clzN le_rfl), .of_aluI (ctzN 64) (trailingZeros_ctzN le_rfl),
    .of_aluI (popN 64) (oneBits_popN le_rfl),
    ?_, ?_, ?_, ?_, ?_, ?_, codesU_opImm_shifts, hclz, hctz, hpopc, fun imm rs1 rd stl =>
      ⟨fun h => decode_wordI_eq_none decOpImm (fun f h3 himm => decOpImm_of_reserved f (.inl ⟨h3, himm ▸ h⟩)) rs1 rd stl,
        fun h => decode_wordI_eq_none decOpImm (fun f h3 himm => decOpImm_of_reserved f (.inr ⟨h3, himm ▸ h⟩)) rs1 rd stl⟩⟩ <;>
  exact .of_table decOpImm fun f h3 => by simp [decOpImm, h3]

/-- Settles O2: each value is the model's operation of the two words, each code a row of the table of major OP. -/
theorem opResults : Obligations.OpResults := by
  unfold Obligations.OpResults
  refine ⟨.of_aluR (· + ·) BitVec.add_def,
    .of_aluR (· - ·) fun a b => by rw [ofInt_sub, ofInt_toNat, ofInt_toNat],
    .of_aluR (· &&& ·) fun a b i _ => BitVec.getLsbD_and,
    .of_aluR (· ||| ·) fun a b i _ => BitVec.getLsbD_or,
    .of_aluR (· ^^^ ·) fun a b i _ => BitVec.getLsbD_xor,
    .of_aluR (fun a b => flag (a.slt b)) fun a b => flag_eq_ite _,
    .of_aluR (fun a b => flag (a.ult b)) fun a b => flag_eq_ite _,
    .of_aluR (fun a b => a <<< sh6 b) fun a b => shiftLeft_eq_ofNat a _,
    .of_aluR (fun a b => a >>> sh6 b) fun a b => toNat_ushiftRight_eq_div a _,
    .of_aluR (fun a b => a.sshiftRight (sh6 b)) fun a b => toInt_sshiftRight_eq_div a _,
    .of_aluR (fun a b => a.rotateRight (sh6 b)) fun a b i hi => by
      rw [getLsbD_rotateRight_64 a _ i hi, sh6, Nat.add_mod_mod],
    .of_aluR (fun a b => if a.slt b then a else b) toInt_min_slt,
    .of_aluR (fun a b => if a.slt b then b else a) toInt_max_slt,
    .of_aluR (fun a b => if a.ult b then a else b) toNat_min_ult,
    .of_aluR (fun a b => if a.ult b then b else a) toNat_max_ult,
    .of_aluR addSat (toInt_addSat (by decide)), .of_aluR subSat (toInt_subSat (by decide)),
    .of_aluR addSatU toNat_addSatU, .of_aluR subSatU toNat_subSatU,
    .of_aluR (· * ·) fun a b => by simp only [BitVec.ofNat_mul, BitVec.ofNat_toNat, BitVec.setWidth_eq],
    .of_aluR (fun a b => mulHigh (a.toInt * b.toInt)) toInt_mulHigh_signed,
    .of_aluR (fun a b => mulHigh ((a.toNat * b.toNat : Nat) : Int)) toNat_mulHigh_unsigned,
    .of_aluR (fun a b => mulHigh (a.toInt * (b.toNat : Int))) toInt_mulHigh_mixed,
    .of_aluVar divS (toInt_divS (by decide)), .of_aluVar divU toNat_divU, .of_aluVar remS toInt_remS,
    .of_aluVar remU toNat_remU,
    ?_, ?_, ?_, ?_, ?_, ?_, ?_, ?_, ?_, ?_, ?_, ?_, ?_, ?_, ?_, ?_, ?_, ?_, ?_, ?_, ?_, ?_, ?_, ?_, ?_, ?_, ?_,
    fun f7 rs2 rs1 f3 rd stl h => (decode_wordR decOp f7 rs2 rs1 f3 rd stl).trans (decOp_of_reserved _ h)⟩ <;>
  exact .of_table decOp fun _ _ _ _ => rfl


end Sys2Proof.Machine
end

section
/-!
The instructions of majors OPIMM32 and OP32 (R104): O3.
-/

namespace Sys2Proof.Machine

/-! ### Results on the low 32 bits, sign-extended -/

theorem lowS_eq (a : Word) : lowS a = (a.setWidth 32).toInt := by rw [lowS, BitVec.ofNat_toNat]

theorem lowU_eq (a : Word) : lowU a = (a.setWidth 32).toNat := by simp [lowU]

theorem sext32_signExtend {w : BitVec 32} {v : Int} (h : w = BitVec.ofInt 32 v) : Sext32 v (w.signExtend 64) := by
  rw [Sext32, BitVec.toInt_signExtend_of_le (by decide), h]

theorem sext32_of_toInt {w : BitVec 32} {v : Int} (h : w.toInt = v) : Sext32 v (w.signExtend 64) :=
  sext32_signExtend (by rw [← h, BitVec.ofInt_toInt])

theorem sext32_of_toNat {w : BitVec 32} {v : Int} (h : (w.toNat : Int) = v) : Sext32 v (w.signExtend 64) :=
  sext32_signExtend (by rw [← h, ofInt_toNat])

theorem setWidth_ofInt_32 (v : Int) : (BitVec.ofInt 64 v).setWidth 32 = BitVec.ofInt 32 v := by
  refine BitVec.eq_of_toNat_eq ?_
  rw [BitVec.toNat_setWidth, BitVec.toNat_ofInt, BitVec.toNat_ofInt]
  omega

theorem ofInt_lowU (a : Word) : BitVec.ofInt 32 (lowU a) = a.setWidth 32 := by rw [lowU_eq, ofInt_toNat]

theorem sext32_add_immI (a : Word) (imm : BitVec 12) : Sext32 (lowU a + imm.toInt) (sext32 (a + immI imm)) := by
  refine sext32_signExtend ?_
  rw [BitVec.setWidth_add _ _ (by decide), immI_eq_ofInt, setWidth_ofInt_32, BitVec.ofInt_add, ofInt_lowU]

theorem sext32_shiftLeft (a : Word) (k : Nat) : Sext32 (lowU a * 2 ^ k) (((a.setWidth 32) <<< k).signExtend 64) := by
  refine sext32_signExtend ?_
  rw [shiftLeft_eq_ofNat, lowU_eq, ← BitVec.ofInt_natCast]
  push_cast; rfl

theorem sext32_ushiftRight (a : Word) (k : Nat) : Sext32 (lowU a / 2 ^ k) (((a.setWidth 32) >>> k).signExtend 64) :=
  sext32_of_toNat (by rw [toNat_ushiftRight_eq_div, lowU_eq]; push_cast; rfl)

theorem sext32_sshiftRight (a : Word) (k : Nat) :
    Sext32 (lowS a / 2 ^ k) (((a.setWidth 32).sshiftRight k).signExtend 64) :=
  sext32_of_toInt (by rw [toInt_sshiftRight_eq_div, lowS_eq])

theorem sh5_setWidth (b : Word) : sh5 (b.setWidth 32) = b.toNat % 32 := by
  rw [sh5, BitVec.toNat_setWidth]; omega

theorem sext32_divU (a b : Word) : Sext32 (if lowU b = 0 then -1 else lowU a / lowU b) (on32 divU a b) := by
  simp only [lowU_eq, Nat.cast_eq_zero, ← eq_zero_iff_toNat_eq_zero, on32, divU]
  split
  · exact sext32_of_toInt (toInt_allOnes_of_pos (by decide))
  · exact sext32_of_toNat (by rw [BitVec.udiv_eq, BitVec.toNat_udiv, Int.natCast_div])

theorem sext32_remU (a b : Word) : Sext32 (if lowU b = 0 then lowU a else lowU a % lowU b) (on32 remU a b) :=
  sext32_of_toNat (by simp only [toNat_remU, lowU_eq, Nat.cast_eq_zero, Nat.cast_ite, Int.natCast_mod])

/-! ### Codes -/

/-- R104: the codes of major OPIMM32 that are none. -/
theorem decOpImm32_of_reserved (f : Fields)
    (h : (0 < f.f3 ∧ f.f3 < 6) ∨ (f.f3 = 6 ∧ 0x05F < f.imm12) ∨ (f.f3 = 7 ∧ 0x002 < f.imm12)) : decOpImm32 f = none := by
  obtain ⟨hlo, hhi⟩ | ⟨h3, himm⟩ | ⟨h3, himm⟩ := h
  · simp [decOpImm32, ne_of_above hlo, ne_of_below hhi]
  · have h7 : 2 < f.f7 := by
      rw [f.f7_eq_imm12, BitVec.lt_def, BitVec.extractLsb'_toNat, Nat.shiftRight_eq_div_pow]
      bv_omega
    simp [decOpImm32, h3, ne_of_above h7]
  · simp [decOpImm32, h3, ne_of_above himm]

/-- R104: the combinations of f7 and f3 of major OP32 that are none. -/
theorem decOp32_of_reserved (f : Fields)
    (h : (f.f7 = 0 ∧ 1 < f.f3) ∨ (f.f7 = 1 ∧ 2 < f.f3) ∨ f.f7 = 2 ∨ (f.f7 = 3 ∧ 1 < f.f3) ∨ (f.f7 = 4 ∧ 0 < f.f3) ∨
      (f.f7 = 5 ∧ 3 < f.f3) ∨ 5 < f.f7) : decOp32 f = none := by
  obtain ⟨h7, h3⟩ | ⟨h7, h3⟩ | h7 | ⟨h7, h3⟩ | ⟨h7, h3⟩ | ⟨h7, h3⟩ | h7 := h
  case inr.inr.inl => simp [decOp32, h7]
  case inr.inr.inr.inr.inr.inr => simp [decOp32, ne_of_above h7]
  all_goals simp [decOp32, h7, ne_of_above h3]

theorem codesU_opImm32_shifts (sh : BitVec 5) :
    CodesU 0x04 6 (0#7 ++ sh) (fun rd rs1 stl => .slliw rd rs1 sh stl) ∧
    CodesU 0x04 6 (1#7 ++ sh) (fun rd rs1 stl => .srliw rd rs1 sh stl) ∧
    CodesU 0x04 6 (2#7 ++ sh) (fun rd rs1 stl => .sraiw rd rs1 sh stl) := by
  refine ⟨?_, ?_, ?_⟩ <;> refine .of_table decOpImm32 fun f h3 himm => ?_ <;>
  · obtain ⟨h7, hsh⟩ := Fields.f7_rs2_of_imm12 himm
    simp [decOpImm32, h3, h7, hsh]

theorem codesU_opImm32_counts : CodesU 0x04 7 0x000 .clzw ∧ CodesU 0x04 7 0x001 .ctzw ∧ CodesU 0x04 7 0x002 .popcw := by
  refine ⟨?_, ?_, ?_⟩ <;> exact .of_table decOpImm32 fun f h3 himm => by simp [decOpImm32, h3, himm]

/-- Settles O3: each operation on the low 32 bits gives its number modulo 2^32, which the sign extension keeps. -/
theorem wordOpResults : Obligations.WordOpResults := by
  unfold Obligations.WordOpResults
  obtain ⟨hclzw, hctzw, hpopcw⟩ := codesU_opImm32_counts
  refine ⟨fun imm => .of_aluI (fun a => sext32 (a + immI imm)) fun a => sext32_add_immI a imm,
    fun sh => .of_aluI (fun w => on32 (fun a _ => a <<< sh.toNat) w 0) fun a => sext32_shiftLeft a _,
    fun sh => .of_aluI (fun w => on32 (fun a _ => a >>> sh.toNat) w 0) fun a => sext32_ushiftRight a _,
    fun sh => .of_aluI (fun w => on32 (fun a _ => a.sshiftRight sh.toNat) w 0) fun a => sext32_sshiftRight a _,
    .of_aluI (clzN 32) (leadingZeros_clzN (by decide)), .of_aluI (ctzN 32) (trailingZeros_ctzN (by decide)),
    .of_aluI (popN 32) (oneBits_popN (by decide)),
    .of_aluR (on32 (· + ·)) fun a b => sext32_signExtend (by rw [BitVec.ofInt_add, ofInt_lowU, ofInt_lowU]),
    .of_aluR (on32 (· - ·)) fun a b => sext32_signExtend (by rw [ofInt_sub, ofInt_lowU, ofInt_lowU]),
    .of_aluR (on32 fun a b => a <<< sh5 b) fun a b => sh5_setWidth b ▸ sext32_shiftLeft a _,
    .of_aluR (on32 fun a b => a >>> sh5 b) fun a b => sh5_setWidth b ▸ sext32_ushiftRight a _,
    .of_aluR (on32 fun a b => a.sshiftRight (sh5 b)) fun a b => sh5_setWidth b ▸ sext32_sshiftRight a _,
    .of_aluR (on32 addSat) fun a b => sext32_of_toInt (by rw [toInt_addSat (by decide), lowS_eq, lowS_eq]),
    .of_aluR (on32 subSat) fun a b => sext32_of_toInt (by rw [toInt_subSat (by decide), lowS_eq, lowS_eq]),
    .of_aluR (on32 (· * ·)) fun a b => sext32_signExtend (by rw [BitVec.ofInt_mul, ofInt_lowU, ofInt_lowU]),
    .of_aluVar (on32 divS) fun a b => sext32_of_toInt (by rw [toInt_divS (by decide), lowS_eq, lowS_eq]),
    .of_aluVar (on32 divU) sext32_divU,
    .of_aluVar (on32 remS) fun a b => sext32_of_toInt (by rw [toInt_remS, lowS_eq, lowS_eq]),
    .of_aluVar (on32 remU) sext32_remU,
    .of_table decOpImm32 fun f h3 => by simp [decOpImm32, h3], codesU_opImm32_shifts,
    hclzw, hctzw, hpopcw, ?_, ?_, ?_, ?_, ?_, ?_, ?_, ?_, ?_, ?_, ?_, ?_, fun f7 imm rs2 rs1 f3 rd stl =>
      ⟨fun h => decode_wordI_eq_none decOpImm32 (fun f h3 himm => decOpImm32_of_reserved f (h3 ▸ himm ▸ h)) rs1 rd stl,
        fun h => (decode_wordR decOp32 f7 rs2 rs1 f3 rd stl).trans (decOp32_of_reserved _ h)⟩⟩ <;>
  exact .of_table decOp32 fun _ _ _ _ => rfl

end Sys2Proof.Machine
end

section
/-!
LUI, AUIPC, the branches, JAL and JALR (R105 to R108): O4.
-/

namespace Sys2Proof.Machine

/-! ### Values -/

/-- A displacement of instructions (R70). -/
theorem add_signExtend_shiftLeft_two {m : Nat} (pc : Word) (off : BitVec m) :
    pc + (off.signExtend 64 <<< 2) = BitVec.ofInt 64 (pc.toNat + 4 * off.toInt) := by
  have hoff : off.signExtend 64 <<< 2 = BitVec.ofInt 64 (4 * off.toInt) := by
    rw [BitVec.shiftLeft_eq_mul_twoPow, BitVec.ofInt_mul, BitVec.mul_comm]; rfl
  rw [hoff, add_ofInt]

theorem pc_add_four (pc : Word) : pc + 4 = BitVec.ofInt 64 (pc.toNat + 4) := add_ofInt pc 4

/-- sext(imm20 × 4,096, 32) (R105). -/
theorem immU_eq_ofInt (imm : BitVec 20) : immU imm = BitVec.ofInt 64 (imm.toInt * 4096) := by
  have h : (imm ++ (0 : BitVec 12)).toInt = imm.toInt * 4096 := BitVec.toInt_append_zero.trans (mul_comm _ _)
  exact congrArg (BitVec.ofInt 64) h

/-- Clearing bits [1:0] (R108). -/
theorem toNat_and_not_three (w : Word) : (w &&& ~~~(3 : Word)).toNat = w.toNat / 4 * 4 := by
  have h : w &&& ~~~(3 : Word) = (w >>> 2) <<< 2 := by
    refine BitVec.eq_of_getLsbD_eq fun i hi => ?_
    have h3 : (3 : Word).getLsbD i = decide (i < 2) := by
      rw [show (3 : Word) = BitVec.ofNat 64 (2 ^ 2 - 1) from rfl, BitVec.getLsbD_ofNat, Nat.testBit_two_pow_sub_one]
      simp [hi]
    rw [BitVec.getLsbD_and, BitVec.getLsbD_not, h3, BitVec.getLsbD_shiftLeft, BitVec.getLsbD_ushiftRight]
    by_cases h2 : i < 2
    · simp [h2]
    · simp [h2, hi, show 2 + (i - 2) = i by omega]
  have := w.isLt
  rw [h, BitVec.toNat_shiftLeft, toNat_ushiftRight_eq_div, Nat.shiftLeft_eq]
  omega

/-- The target of JALR (R108). -/
theorem toNat_jalr_target (a : Word) (imm : BitVec 12) :
    ((a + immI imm) &&& ~~~(3 : Word)).toNat = ((a.toNat + imm.toInt) % 2 ^ 64 / 4 * 4).toNat := by
  rw [toNat_and_not_three, immI_eq_ofInt, add_ofInt, BitVec.toNat_ofInt]
  omega

/-! ### Branches and jumps -/

theorem BranchesOn.of_branchIf {i : Reg → Reg → BitVec 12 → Stall → Instr} {cond : Word → Word → Prop}
    (c : Word → Word → Bool) (hcond : ∀ a b, c a b = true ↔ cond a b)
    (hexec : ∀ rs1 rs2 off stl s, exec (i rs1 rs2 off stl) s = .next (s.branchIf c rs1 rs2 off stl) := by intros; rfl) :
    BranchesOn i cond := by
  intro s rs1 rs2 off stl h
  rw [hexec, State.branchIf, State.issue_of_no_hazard s _ _ h]
  refine ⟨fun ht => ?_, fun hf => ?_⟩
  · rw [if_pos ((hcond _ _).2 ht), add_signExtend_shiftLeft_two]
  · rw [if_neg (mt (hcond _ _).1 hf), Ctx.next, pc_add_four]

/-! ### Codes -/

/-- The fields of a word of the U and J formats (R69). -/
theorem fld_encU (imm : BitVec 20) (rd maj : BitVec 5) (stl : Stall) :
    fld 0 2 (encU imm rd maj stl) = stl ∧ fld 2 5 (encU imm rd maj stl) = maj ∧ fld 7 5 (encU imm rd maj stl) = rd ∧
      fld 12 20 (encU imm rd maj stl) = imm := by
  unfold encU fld
  refine ⟨?_, ?_, ?_, ?_⟩ <;>
  · refine BitVec.eq_of_getLsbD_eq fun i hi => ?_
    simp only [BitVec.getLsbD_extractLsb', BitVec.getLsbD_append]
    interval_cases i <;> simp

/-- The table of a major of the U or J format decides its words. -/
theorem decode_wordU (dec : BitVec 20 → Fields → Option Instr) (imm : BitVec 20) (rd maj : BitVec 5) (stl : Stall)
    (hmaj : maj ≠ 0 := by decide) (hdec : ∀ f, decodeMajor maj imm f = dec imm f := by intros; rfl) :
    ∃ f : Fields, f.stl = stl ∧ f.rd = rd ∧ decode (imm ++ rd ++ maj ++ stl) = dec imm f := by
  obtain ⟨hstl, hmajor, hrd, himm⟩ := fld_encU imm rd maj stl
  refine ⟨Fields.ofWord (encU imm rd maj stl), hstl, hrd, ?_⟩
  change decode (encU imm rd maj stl) = _
  have hne : encU imm rd maj stl ≠ 0 := fun e => hmaj (by rw [← hmajor, e]; rfl)
  rw [decode, if_neg hne, hmajor, himm, hdec]

theorem codes_lui_auipc_jal (imm : BitVec 20) (rd : Reg) (stl : Stall) :
    decode (imm ++ rd ++ 0x06#5 ++ stl) = some (.lui rd imm stl) ∧
    decode (imm ++ rd ++ 0x07#5 ++ stl) = some (.auipc rd imm stl) ∧
    decode (imm ++ rd ++ 0x09#5 ++ stl) = some (.jal rd imm stl) := by
  refine ⟨?_, ?_, ?_⟩
  · obtain ⟨f, rfl, rfl, hf⟩ := decode_wordU decLui imm rd 0x06 stl
    exact hf
  · obtain ⟨f, rfl, rfl, hf⟩ := decode_wordU decAuipc imm rd 0x07 stl
    exact hf
  · obtain ⟨f, rfl, rfl, hf⟩ := decode_wordU decJal imm rd 0x09 stl
    exact hf

/-- Settles O4: the targets and upper immediates as sums of integers, and the tables of the majors. -/
theorem branchAndJumpResults : Obligations.BranchAndJumpResults := by
  unfold Obligations.BranchAndJumpResults
  refine ⟨fun s rd imm stl h => ⟨?_, ?_⟩,
    .of_branchIf (fun a b => a == b) fun a b => beq_iff_eq, .of_branchIf (fun a b => a != b) fun a b => bne_iff_ne,
    .of_branchIf (fun a b => a.slt b) fun a b => BitVec.slt_iff_toInt_lt,
    .of_branchIf (fun a b => !a.slt b) fun a b => by simp [BitVec.slt_eq_decide],
    .of_branchIf (fun a b => a.ult b) fun a b => BitVec.ult_iff_toNat_lt,
    .of_branchIf (fun a b => !a.ult b) fun a b => by simp [BitVec.ult],
    fun s rd off stl h => ?_, fun s rd rs1 imm stl h => ?_, codes_lui_auipc_jal,
    .of_table decJalr fun f h3 => by simp [decJalr, h3], fun imm rs1 f3 rd stl h3 =>
      decode_wordI_eq_none decJalr (fun f hf _ => by rw [decJalr, if_neg (hf ▸ h3)]) rs1 rd stl,
    fun hi lo rs1 rs2 stl => ?_⟩
  · change Host.Outcome.next (s.aluU (fun _ => immU imm) rd stl) = _
    rw [s.aluU_eq_done _ _ _ h, immU_eq_ofInt]
  · change Host.Outcome.next (s.aluU (fun pc => pc + immU imm) rd stl) = _
    simp only [s.aluU_eq_done _ _ _ h, immU_eq_ofInt, add_ofInt]
  · change Host.Outcome.next (s.issue _ _) = _
    rw [State.issue_of_no_hazard s _ _ h, State.jump, add_signExtend_shiftLeft_two]
  · refine ⟨_, toNat_jalr_target _ imm, ?_⟩
    change Host.Outcome.next (s.issue _ _) = _
    rw [State.issue_of_no_hazard s _ _ h, State.jump]
  · refine ⟨?_, ?_, ?_, ?_, ?_, ?_, ?_, ?_⟩ <;> exact decode_wordR decBranch hi rs2 rs1 _ lo stl

end Sys2Proof.Machine
end

section
/-!
The tokens of the lines under the operations that every meaning is built from (R268, R270). Each lemma is named after the operation that it
is about, so that a proof about an operation reads as the operation is written: `.done (.lsWrite (.tlbCopy h))`. Where an operation
only changes fields beside the lines, the hypothesis about the state before it is the proof.
-/

namespace Sys2Proof.Machine

/-- R268: a line as reset leaves it has all 64 tokens, the owner token and the data at its home. -/
theorem Line.wf_atHome : ({} : Line).Wf := ⟨by decide, by decide, by simp, by decide, by simp, by simp⟩

/-- A result whose next state, if it has one, has lines that are all as R268 and R270 say. -/
def NextWf (o : Result) : Prop := ∀ t, o = .next t → t.LinesWf

theorem NextWf.next {s : State} (h : s.LinesWf) : NextWf (.next s) := by
  intro t e
  cases e
  exact h

protected theorem NextWf.ite {c : Prop} [Decidable c] {a b : Result} (ha : NextWf a) (hb : NextWf b) :
    NextWf (if c then a else b) := by
  split
  · exact ha
  · exact hb

namespace State.LinesWf

variable {s t : State}

/-! ### Shapes of states -/

/-- A change of fields beside the lines. -/
theorem fields (h : s.LinesWf) (e : t.lines = s.lines) : t.LinesWf := State.linesWf_of_lines h e

protected theorem ite {c : Prop} [Decidable c] (hs : s.LinesWf) (ht : t.LinesWf) : (if c then s else t).LinesWf := by
  split
  · exact hs
  · exact ht

protected theorem foldl {α : Type} {f : State → α → State} {l : List α} (h : s.LinesWf)
    (hf : ∀ t a, t.LinesWf → (f t a).LinesWf) : (l.foldl f s).LinesWf :=
  foldl_keeps State.LinesWf f hf l s h

protected theorem getD {o : Option State} (h : s.LinesWf) (ho : ∀ t, o = some t → t.LinesWf) : (o.getD s).LinesWf := by
  cases o with
  | none => exact h
  | some t => exact ho t rfl

protected theorem getD_map {α : Type} {o : Option α} {f : α → State} (h : s.LinesWf) (hf : ∀ a, (f a).LinesWf) :
    ((o.map f).getD s).LinesWf := by
  cases o with
  | none => exact h
  | some a => exact hf a

/-- A map of lines whose every line has the tokens, owner, data and messages that it had. -/
theorem mapLines (h : s.LinesWf) {f : Nat → Line → Line} (hf : ∀ n l, l.Wf → (f n l).Wf) :
    ({ s with lines := s.lines.mapVal f } : State).LinesWf := by
  intro n
  have hn := h n
  unfold State.line SMap.get at hn ⊢
  rw [SMap.find?_mapVal]
  cases hl : s.lines.find? n with
  | none => rw [hl] at hn; exact hn
  | some l => rw [hl] at hn; exact hf n l hn

/-! ### Registers, logs, traps (R327 to R333, R375) -/

theorem setMe (h : s.LinesWf) {x : Ctx} : (s.setMe x).LinesWf := h
theorem setCtx (h : s.LinesWf) {k c : Nat} {x : Ctx} : (s.setCtx k c x).LinesWf := h
theorem updCtx (h : s.LinesWf) {k c : Nat} {f : Ctx → Ctx} : (s.updCtx k c f).LinesWf := h
theorem setCore (h : s.LinesWf) {k : Nat} {x : Core} : (s.setCore k x).LinesWf := h
theorem updCore (h : s.LinesWf) {k : Nat} {f : Core → Core} : (s.updCore k f).LinesWf := h
theorem setCluster (h : s.LinesWf) {k : Nat} {x : Cluster} : (s.setCluster k x).LinesWf := h
theorem updCluster (h : s.LinesWf) {k : Nat} {f : Cluster → Cluster} : (s.updCluster k f).LinesWf := h
theorem tick (h : s.LinesWf) : s.tick.LinesWf := h
theorem pop (h : s.LinesWf) : s.pop.LinesWf := h
theorem done (h : s.LinesWf) {stl : Stall} {f : Ctx → Ctx} : (s.done stl f).LinesWf := h
theorem wait (h : s.LinesWf) {w : Wait} : (s.wait w).LinesWf := h
theorem logOn (h : s.LinesWf) {cls unit kind lid target : Nat} {w2 w3 tval : Word} :
    (s.logOn cls unit kind lid target w2 w3 tval).LinesWf := h
theorem logCore (h : s.LinesWf) {k kind : Nat} {lid : BitVec 16} {w2 w3 tval : Word} :
    (s.logCore k kind lid w2 w3 tval).LinesWf := h
theorem logIo (h : s.LinesWf) {kind lid : Nat} {w2 w3 : Word} : (s.logIo kind lid w2 w3).LinesWf := h

theorem letGo (h : s.LinesWf) {k c : Nat} : (s.letGo k c).LinesWf :=
  h.mapLines fun _ l hl => by
    split
    · exact Line.wf_congr hl rfl rfl rfl rfl
    · exact hl

theorem dropL1 (h : s.LinesWf) {cl : Nat} : (s.dropL1 cl).LinesWf :=
  h.mapLines fun _ _ hl => Line.wf_congr hl rfl rfl rfl rfl

theorem trapCtx (h : s.LinesWf) {k c code : Nat} {deferred : Bool} {epc tval : Word} :
    (s.trapCtx k c code deferred epc tval).LinesWf :=
  .ite (.logCore (.setCtx (.letGo h))) (.updCluster (.setCtx (.letGo h)))

theorem trap (h : s.LinesWf) {code : Nat} {tval : Word} : (s.trap code tval).LinesWf := h.trapCtx
theorem trapLate (h : s.LinesWf) {code : Nat} {tval : Word} : (s.trapLate code tval).LinesWf := h.trapCtx
theorem illegal (h : s.LinesWf) {i : Instr} : (s.illegal i).LinesWf := h.trap
theorem privilege (h : s.LinesWf) {i : Instr} : (s.privilege i).LinesWf := h.trap
theorem park (h : s.LinesWf) {va : Word} : (s.park va).LinesWf := .updCtx (.letGo h)

/-- A deferred fault that the context reports. -/
theorem report (h : s.LinesWf) {sel : Deferred → Bool} (e : s.report sel = some t) : t.LinesWf := by
  obtain ⟨d, -, rfl⟩ := Option.map_eq_some_iff.1 e
  exact .trapLate (.setMe h)

/-! ### Memory, scratchpads and tokens (R266 to R275) -/

theorem aged (h : s.LinesWf) {o : OldWrite} {bad : Bool} : (s.aged o bad).LinesWf := h
theorem ordered (h : s.LinesWf) {src dst : BitVec 6} : (s.ordered src dst).LinesWf := h
theorem padWrite (h : s.LinesWf) {k off n v : Nat} : (s.padWrite k off n v).LinesWf := h
theorem lsPad (h : s.LinesWf) {k off n v : Nat} : (s.lsPad k off n v).LinesWf := h
theorem breakLine (h : s.LinesWf) {l : Nat} {but : Option (Nat × Nat)} : (s.breakLine l but).LinesWf := h

theorem updLine (h : s.LinesWf) {n : Nat} {f : Line → Line} (hf : (s.line n).Wf → (f (s.line n)).Wf) :
    (s.updLine n f).LinesWf := s.linesWf_updLine n f h hf
theorem takeLine (h : s.LinesWf) {k n : Nat} {f : Line → Line} {but : List Nat} (hf : (s.line n).Wf → (f (s.line n)).Wf) :
    (s.takeLine k n f but).LinesWf := s.linesWf_takeLine k n f but h hf
theorem tokenRead (h : s.LinesWf) {k a : Nat} : (s.tokenRead k a).LinesWf := s.linesWf_tokenRead k a h
theorem tokenWrite (h : s.LinesWf) {k a : Nat} {thru : Option Nat} : (s.tokenWrite k a thru).LinesWf :=
  s.linesWf_tokenWrite k a thru h
theorem holderReads (h : s.LinesWf) {k : Nat} {pas : List Nat} : (s.holderReads k pas).LinesWf := s.linesWf_holderReads k pas h
theorem memWrite (h : s.LinesWf) {k : Nat} {who : Option (Nat × Nat)} {a n v : Nat} {thru : Option Nat} :
    (s.memWrite k who a n v thru).LinesWf := s.linesWf_memWrite k who a n v thru h
theorem lsWrite (h : s.LinesWf) {k a n v : Nat} {thru : Option Nat} : (s.lsWrite k a n v thru).LinesWf :=
  .aged (.memWrite h)
theorem want (h : s.LinesWf) {k n : Nat} {write : Bool} {w : Waiter} : (s.want k n write w).LinesWf :=
  s.linesWf_want k n write w h

theorem wantTokens (h : s.LinesWf) {k : Nat} {write : Bool} {pas : List Nat} {w : Waiter} :
    (s.wantTokens k write pas w).LinesWf :=
  .getD_map h fun _ => .want h

theorem cleanPlaces (h : s.LinesWf) {l : List (Place × Nat)} : (s.cleanPlaces l).LinesWf :=
  .foldl h fun _ _ ht => .updCore ht

/-! ### Translation and places (R112, R348 to R350, R370) -/

theorem postMiss (h : s.LinesWf) {k : Nat} {asid : BitVec 13} {acc : Access} {va : Nat} :
    (s.postMiss k asid acc va).LinesWf := h

theorem tlbCopy (h : s.LinesWf) {k : Nat} {asid : BitVec 13} {a : Word} : (s.tlbCopy k asid a).LinesWf := by
  refine .ite h ?_
  split
  · exact h
  · exact .tick (.setCore h)

theorem looked (h : s.LinesWf) {mode : AddrMode} {a : Word} : (s.looked mode a).LinesWf := .ite h.tlbCopy h

theorem fail (h : s.LinesWf) {mode : AddrMode} {a : Word} {r : Reach} : (s.fail mode a r).LinesWf := by
  cases r with
  | trap code tval => exact .ite h.trap (.trap h.looked)
  | absent va => exact .park h.looked
  | miss acc va => exact .wait h
  | line k n write => exact .wait (.want h.looked)
  | ok p => exact h

theorem noteRead (h : s.LinesWf) {a : Word} {p : Place} : (s.noteRead a p).LinesWf := by
  cases p with
  | mem pa => exact .tokenRead h.tlbCopy
  | gen d => exact h.tlbCopy
  | _ => exact h

theorem poisonTrap (h : s.LinesWf) {p : Place} {a : Word} : (s.poisonTrap p a).LinesWf := by
  cases p with
  | mem pa => exact .trap (.logOn h.tlbCopy)
  | pad k off => exact .trap (.logCore h)
  | svc off => exact .trap (.logCore h)
  | _ => exact .trap h

theorem placeWrite (h : s.LinesWf) {a : Word} {p : Place} {n v : Nat} : (s.placeWrite a p n v).LinesWf := by
  cases p with
  | mem pa => exact .lsWrite h.tlbCopy
  | pad k off => exact .lsPad h
  | svc off => exact .lsPad h
  | _ => exact h

theorem send (h : s.LinesWf) {p : Nat} {m : NetMsg} : (s.send p m).LinesWf := .ite h h

/-! ### The save area (R341) -/

/-- The lines of a save area, which go back to their homes, are with their homes as at reset. -/
theorem filterLines (h : s.LinesWf) {f : Nat → Bool} :
    ({ s with lines := s.lines.filter fun p => f p.1 } : State).LinesWf := by
  intro n
  have hn := h n
  unfold State.line at hn ⊢
  generalize s.lines = m at hn ⊢
  have hfind : SMap.find? (m.filter fun p => f p.1) n = if f n then m.find? n else none := by
    clear hn
    induction m with
    | nil => simp
    | cons p r ih =>
      rw [List.filter_cons]
      by_cases hp : n = p.1
      · subst hp
        split <;> simp_all [SMap.find?_cons]
      · split <;> simp_all [SMap.find?_cons]
  unfold SMap.get at hn ⊢
  rw [hfind]
  split
  · exact hn
  · exact Line.wf_atHome

theorem writeArea (h : s.LinesWf) {cl : Nat} {c : Coach} : (s.writeArea cl c).LinesWf :=
  h.filterLines (f := fun n => decide (128 * n + 128 ≤ c.saved.base) || decide (c.saved.base + areaSize ≤ 128 * n))
theorem forgetPads (h : s.LinesWf) {cl : Nat} : (s.forgetPads cl).LinesWf := h
theorem patchAreas (h : s.LinesWf) {cl : Nat} {f : Coach → List (Nat × Word)} : (s.patchAreas cl f).LinesWf := h
theorem noteReady (h : s.LinesWf) {cl : Nat} : (s.noteReady cl).LinesWf := h
theorem rewriteRecord (h : s.LinesWf) {cl : Nat} {lid : BitVec 16} {slot : Nat} : (s.rewriteRecord cl lid slot).LinesWf := h

end State.LinesWf

end Sys2Proof.Machine
end

section
/-!
The tokens of the lines under the scalar instructions: the operand forms, the CSRs, loads, stores, atomics and fences (R77, R88, R102 to
R141), and the vectors that streams read ahead (R165, R172).
-/

namespace Sys2Proof.Machine

/-! ### The state that an access leaves -/

/-- The state after a read, or the one in which the context stops. -/
abbrev Got.state : Got → State
  | .val _ s => s
  | .stop s => s

/-- The state after the reads of several elements, or the one in which the context stops. -/
abbrev GotAll.state : GotAll → State
  | .vals _ s => s
  | .stop s => s

/-- The state after issued reads, or the one in which the context stops. -/
abbrev ReadsDone.state : ReadsDone → State
  | .on s => s
  | .stop s => s

namespace State.LinesWf

variable {s : State}

/-! ### Operand forms and branches (R77, R88, R102 to R107) -/

theorem issue (h : s.LinesWf) {u : Use} {run : State → State} (hrun : (run s).LinesWf) : (s.issue u run).LinesWf := by
  unfold State.issue
  split
  · exact .trap h
  · exact hrun

theorem onCompute (h : s.LinesWf) {i : Instr} {run : State → State} (hrun : (run s).LinesWf) :
    (s.onCompute i run).LinesWf := .ite h.illegal hrun

theorem aluR (h : s.LinesWf) {lat : Nat} {f : Word → Word → Word} {rd rs1 rs2 : Reg} {stl : Stall} :
    (s.aluR lat f rd rs1 rs2 stl).LinesWf := .ite h.done (.issue h h.done)
theorem aluVar (h : s.LinesWf) {f : Word → Word → Word} {rd rs1 rs2 : Reg} {stl : Stall} :
    (s.aluVar f rd rs1 rs2 stl).LinesWf := .ite h.done (.issue h h.done)
theorem aluI (h : s.LinesWf) {f : Word → Word} {rd rs1 : Reg} {stl : Stall} : (s.aluI f rd rs1 stl).LinesWf :=
  .ite h.done (.issue h h.done)
theorem aluU (h : s.LinesWf) {f : Word → Word} {rd : Reg} {stl : Stall} : (s.aluU f rd stl).LinesWf :=
  .ite h.done (.issue h h.done)
theorem branchIf (h : s.LinesWf) {cond : Word → Word → Bool} {rs1 rs2 : Reg} {off : BitVec 12} {stl : Stall} :
    (s.branchIf cond rs1 rs2 off stl).LinesWf := .issue h (.ite h.setMe h.setMe)
theorem jump (h : s.LinesWf) {rd : Reg} {t : Word} {stl : Stall} : (s.jump rd t stl).LinesWf := h

/-! ### CSRs and the window of CTXWIN (R116 to R119, R334) -/

theorem csrShareSet (h : s.LinesWf) {k a : Nat} {v : Word} : (s.csrShareSet k a v).LinesWf :=
  .ite h.updCore (.ite h.updCluster (.ite h.updCluster (.ite h.updCluster (.ite h.updCore h))))

theorem csrWrite (h : s.LinesWf) {k c a : Nat} {v : Word} : (s.csrWrite k c a v).LinesWf := .ite h.csrShareSet h.updCtx

theorem csrForm (h : s.LinesWf) {i : Instr} {op : CsrOp} {rd : Reg} {csr : BitVec 12} {reads : List (RegFile × Nat)}
    {src : Ctx → Word} {zero : Bool} {stl : Stall} : (s.csrForm i op rd csr reads src zero stl).LinesWf :=
  .ite h.illegal (.ite h.privilege (.issue h (.done (.ite h.csrWrite h))))

theorem csrRow (h : s.LinesWf) {k c a : Nat} {v : Word} : (s.csrRow k c a v).LinesWf := .ite (.csrWrite h.pop) h.pop

theorem updTarget (h : s.LinesWf) {k c : Nat} {t : WinTarget} {f : Ctx → Ctx} : (s.updTarget k c t f).LinesWf := by
  cases t with
  | live => exact h.updCtx
  | saved => exact .rewriteRecord h.updCluster

/-- Whatever is written through the window. -/
theorem window (h : s.LinesWf) {off : Nat} {p : Word × (Word → State)} (e : s.window off = some p) (v : Word) :
    (p.2 v).LinesWf := by
  unfold State.window at e
  dsimp only at e
  split at e
  · cases e
  split at e
  · cases e; exact h.csrShareSet
  split at e
  · cases e
  · (repeat' split at e) <;> cases e
    · exact h.updTarget
    · exact h.updTarget
    · exact h.updTarget
    · exact h
    · exact h
    · exact h.updTarget

theorem windowWrite (h : s.LinesWf) {off n v : Nat} {t : State} (e : s.windowWrite off n v = some t) : t.LinesWf := by
  obtain ⟨p, hp, rfl⟩ := Option.map_eq_some_iff.1 e
  exact .ite (h.window hp _) (h.window hp _)

/-! ### Accesses (R110 to R113, R148, R149, R277) -/

theorem readPlace (h : s.LinesWf) {a : Word} {n j : Nat} {p : Place} {g : Got} (e : s.readPlace a n j p = g) :
    g.state.LinesWf := by
  subst e
  cases p with
  | gen d =>
    unfold State.readPlace
    dsimp only
    split
    · exact h.noteRead
    · exact .trap h.looked
  | window off =>
    unfold State.readPlace
    dsimp only
    split
    · exact h.trap
    · split
      · exact h
      · exact h.trap
  | remote q =>
    unfold State.readPlace
    dsimp only
    split
    · exact h
    · split
      · exact h.wait
      · exact .setMe (.send h.looked)
  | mem pa =>
    unfold State.readPlace
    dsimp only
    split
    · exact h.poisonTrap
    · exact h.noteRead
  | pad | svc =>
    unfold State.readPlace
    dsimp only
    split
    · exact h.poisonTrap
    · exact h

theorem writePlace (h : s.LinesWf) {a : Word} {n v : Nat} {p : Place} {t : State} (e : s.writePlace a n v p = some t) :
    t.LinesWf := by
  cases p with
  | window off => exact h.windowWrite e
  | remote q => cases e; exact .setMe (.send h.looked)
  | mem | pad | svc | gen => cases e; exact h.placeWrite

theorem readElems {s : State} (h : s.LinesWf) {n j : Nat} {l : List (Nat × Word × Place)} {g : GotAll}
    (e : s.readElems n j l = g) : g.state.LinesWf := by
  induction l generalizing s j g with
  | nil => subst e; exact h
  | cons x r ih =>
    obtain ⟨i, a, p⟩ := x
    subst e
    unfold State.readElems
    split
    next t hread => exact h.readPlace hread
    next v t hread =>
      have ht : t.LinesWf := h.readPlace hread
      split
      next u hrest => exact ih ht hrest
      next l u hrest => exact (ih ht hrest : (GotAll.vals l u).state.LinesWf)

theorem writeElems (h : s.LinesWf) {n : Nat} {val : Nat → Nat} {l : List (Nat × Word × Place)} :
    (s.writeElems n val l).LinesWf :=
  .cleanPlaces (.foldl h fun _ _ ht => .getD ht fun _ e => ht.writePlace e)

/-! ### Reads that streams have issued (R133, R138 to R140, R172, R287) -/

theorem fetchVec (h : s.LinesWf) {t : Stream} {i : Nat} {w : VWord} {gen : Bool} {u : State}
    (e : s.fetchVec t i = some (w, gen, u)) : u.LinesWf := by
  unfold State.fetchVec at e
  dsimp only at e
  split at e
  · cases e
  · split at e
    · cases e
    · split at e
      · cases e
      next hread => cases e; exact h.readElems hread

theorem fetchAhead (h : s.LinesWf) {n i : Nat} : (s.fetchAhead n i).LinesWf := by
  unfold State.fetchAhead
  split
  · exact h
  · refine .ite h ?_
    split
    · exact h
    next hvec => exact .setMe (h.fetchVec hvec)

theorem fetchWindows (h : s.LinesWf) : s.fetchWindows.LinesWf :=
  .foldl h fun _ _ ht => .foldl ht fun _ _ hu => hu.fetchAhead

theorem fetchFar (h : s.LinesWf) {n i : Nat} {t : Stream} {l : List (Nat × Word × Place)} {ahead : Bool} {g : ReadsDone}
    (e : s.fetchFar n i t l ahead = g) : g.state.LinesWf := by
  subst e
  unfold State.fetchFar
  dsimp only
  split
  next u hread => exact readElems (.ite h h.setMe) hread
  next v u hread => exact .setMe (readElems (.ite h h.setMe) hread)

theorem finishOne (h : s.LinesWf) {n i : Nat} : (s.finishOne n i).state.LinesWf := by
  unfold State.finishOne
  split
  · exact h
  · split
    · exact h
    · dsimp only
      split
      · exact h.fail
      · exact h.fail
      · exact h
      · split
        · exact h.fetchFar rfl
        · exact h.fetchAhead

theorem finishReads (h : s.LinesWf) {g : ReadsDone} (e : s.finishReads = g) : g.state.LinesWf := by
  subst e
  unfold State.finishReads
  split
  · exact h
  · refine foldl_keeps (fun g : ReadsDone => g.state.LinesWf) _ (fun g p hg => ?_) _ _ h
    cases g with
    | on u => exact finishOne hg
    | stop u => exact hg

theorem readsBefore (h : s.LinesWf) {all : Bool} {g : ReadsDone} (e : s.readsBefore all = g) : g.state.LinesWf := by
  subst e
  unfold State.readsBefore
  split
  · exact h.finishReads rfl
  · exact h.fetchWindows

theorem after (h : s.LinesWf) {all : Bool} {f : State → State} (hf : ∀ t, t.LinesWf → (f t).LinesWf) :
    (s.after all f).LinesWf := by
  unfold State.after
  split
  next t hdone => exact hf t (h.readsBefore hdone)
  next t hdone => exact h.readsBefore hdone

theorem afterFor (h : s.LinesWf) {p : Place} {f : State → State} (hf : ∀ t, t.LinesWf → (f t).LinesWf) :
    (s.afterFor p f).LinesWf := .ite (hf s h) (h.after hf)

/-! ### Loads, stores, atomics, fences (R110 to R113, R130 to R141) -/

theorem load (h : s.LinesWf) {n : Nat} {ext : Nat → Word} {rd rs1 : Reg} {imm : BitVec 10} {mode : AddrMode} {stl : Stall} :
    (s.load n ext rd rs1 imm mode stl).LinesWf := by
  refine .issue h ?_
  dsimp only
  split
  · refine .afterFor h fun t ht => ?_
    split
    next hread => exact .done (ht.readPlace hread)
    next hread => exact ht.readPlace hread
  · exact h.fail

theorem store (h : s.LinesWf) {n : Nat} {src rs1 : Reg} {imm : BitVec 10} {mode : AddrMode} {stl : Stall} :
    (s.store n src rs1 imm mode stl).LinesWf := by
  refine .issue h ?_
  dsimp only
  split
  · refine .ite h.trap (.afterFor h fun t ht => ?_)
    split
    next hwrite => exact .done (ht.writePlace hwrite)
    · exact ht.trap
  · exact h.fail

theorem amo (h : s.LinesWf) {f : AmoFn} {rd rs1 rs2 : Reg} {ord : AmoOrd} {wide : Bool} {scope : AmoScope} {stl : Stall} :
    (s.amo f rd rs1 rs2 ord wide scope stl).LinesWf := by
  refine .issue h ?_
  dsimp only
  split
  · exact .ite h.poisonTrap (.after h fun t ht => .done (.lsWrite ht.tlbCopy))
  · exact h.trap
  · exact h.fail

theorem keepLine (h : s.LinesWf) {k pa : Nat} : (s.keepLine k pa).LinesWf :=
  .updLine (s := s.tokenWrite k pa) (f := fun l => { l with
      held := { holder := k, core := s.focus, ctx := s.active, since := s.cycles.get (vdnOf s.focus) 0 } :: l.held })
    h.tokenWrite fun hl => Line.wf_congr hl rfl rfl rfl rfl

theorem unhold (h : s.LinesWf) : s.unhold.LinesWf := h.letGo

theorem fenceOn (h : s.LinesWf) {src dst : BitVec 6} {sel : Deferred → Bool} {stl : Stall} :
    (s.fenceOn src dst sel stl).LinesWf := by
  refine .after h fun t ht => .ite ht.wait ?_
  split
  next hrep => exact ht.report hrep
  · exact .done ht.ordered

theorem reserveRead (h : s.LinesWf) {k : Nat} {a : Word} {n : Nat} {p : Place} {g : Got} (e : s.reserveRead k a n p = g) :
    g.state.LinesWf := by
  subst e
  unfold State.reserveRead
  split
  · split
    · exact h.poisonTrap
    · exact .holderReads h.tlbCopy
  · exact h.readPlace rfl

theorem exec_lr (h : s.LinesWf) {rd rs1 : Reg} {ord : AmoOrd} {wide : Bool} {scope : AmoScope} {stl : Stall} :
    NextWf (exec (.lr rd rs1 ord wide scope stl) s) := by
  refine .next (.issue h ?_)
  dsimp only
  split
  · exact .trap h.looked
  · refine .after h fun t ht => ?_
    split
    next hread => exact ht.reserveRead hread
    next hread =>
      have hu := ht.reserveRead hread
      split
      · exact .ite ht.fail (.done (.keepLine (.unhold hu)))
      · exact .done (.unhold hu)
  · exact h.fail

theorem exec_sc (h : s.LinesWf) {rd rs1 rs2 : Reg} {ord : AmoOrd} {wide : Bool} {scope : AmoScope} {stl : Stall} :
    NextWf (exec (.sc rd rs1 rs2 ord wide scope stl) s) := by
  refine .next (.issue h ?_)
  dsimp only
  split
  · exact .after h fun t ht => .done (.unhold (.ite (.lsWrite ht.tlbCopy) (.breakLine ht.tlbCopy)))
  · exact h.trap
  · exact h.fail

end State.LinesWf

end Sys2Proof.Machine
end

section
/-!
The tokens of the lines under the vector instructions: operands and streams (R142 to R149, R165 to R173), and majors STREAM, VINT, VFP,
VPERM and the vector accesses (R145 to R164).
-/

namespace Sys2Proof.Machine.State.LinesWf

variable {s : State}

/-! ### Operands (R143, R165 to R172) -/

theorem streamRead (h : s.LinesWf) {n : Nat} {t : Stream} {g : GotAll} (e : s.streamRead n t = g) : g.state.LinesWf := by
  subst e
  unfold State.streamRead
  split
  · exact h
  · split
    · exact h
    · dsimp only
      split
      · exact h.fail
      · split
        · split
          next hfar => exact h.fetchFar hfar
          next hfar => exact h.fetchFar hfar
        · split
          next hread => exact h.readElems hread
          next l t hread =>
            have ht : t.LinesWf := h.readElems hread
            exact ht

theorem readVecs {s : State} (h : s.LinesWf) {l : List Nat} {g : GotAll} (e : s.readVecs l = g) : g.state.LinesWf := by
  induction l generalizing s g with
  | nil => subst e; exact h
  | cons v r ih =>
    subst e
    have hgot : ∀ g, (match s.me.stream v with
        | none => GotAll.vals [(0, (s.me.rv v).toNat)] s
        | some t => s.streamRead (v - 24) t) = g → g.state.LinesWf := by
      rintro g rfl
      split
      · exact h
      · exact h.streamRead rfl
    unfold State.readVecs
    dsimp only
    split
    next hread => exact hgot _ hread
    next l t hread =>
      have ht : t.LinesWf := hgot _ hread
      split
      next hrest => exact ih ht hrest
      next l u hrest => exact (ih ht hrest : (GotAll.vals l u).state.LinesWf)

theorem destLost (h : s.LinesWf) {u : VUse} {t : State} (e : s.destLost u = some t) : t.LinesWf := by
  unfold State.destLost at e
  split at e
  · cases e; exact h.fail
  · cases e

/-- Stream reads that an access waits for only where it meets another package. -/
theorem finishReadsIf (h : s.LinesWf) {c : Bool} {g : ReadsDone} (e : (if c then s.finishReads else .on s) = g) :
    g.state.LinesWf := by
  subst e
  split
  · exact h.finishReads rfl
  · exact h

/-- Whatever an instruction does with the vectors it has read, it does at a state whose lines are kept. -/
theorem vec (h : s.LinesWf) {u : VUse} {early : State → Option State} {own : State → (Nat → VWord) → ReadsDone}
    {run : State → (Nat → VWord) → State} (hearly : ∀ t, early s = some t → t.LinesWf)
    (hown : ∀ t rv g, t.LinesWf → own t rv = g → g.state.LinesWf) (hrun : ∀ t rv, t.LinesWf → (run t rv).LinesWf) :
    (s.vec u early own run).LinesWf := by
  unfold State.vec
  split
  · exact .trap h.looked
  · exact h.fail
  · dsimp only
    split
    · exact .getD h.fail hearly
    · split
      next hread => exact h.readVecs hread
      next l t hread =>
        have ht : t.LinesWf := h.readVecs hread
        split
        next hfin => exact ht.finishReadsIf hfin
        next v hfin =>
          have hv : v.LinesWf := ht.finishReadsIf hfin
          split
          next hgo => exact hown _ _ _ hv hgo
          next w hgo =>
            have hw : w.LinesWf := hown _ _ _ hv hgo
            exact .getD (hrun _ _ hw) fun _ e => hw.destLost e

/-- The same for one without own traps. -/
theorem vec_noOwn (h : s.LinesWf) {u : VUse} {run : State → (Nat → VWord) → State}
    (hrun : ∀ t rv, t.LinesWf → (run t rv).LinesWf) : (s.vec u noEarly noOwn run).LinesWf :=
  .vec h (fun _ e => nomatch e) (fun _ _ _ ht e => e ▸ ht) hrun

theorem writeFarWord (h : s.LinesWf) {q : Nat} {a : Word} {mask v : Nat} : (s.writeFarWord q a mask v).LinesWf :=
  .setMe (.send h.looked)

theorem writeFarVec (h : s.LinesWf) {q : Nat} {a : Word} {w en : VWord} : (s.writeFarVec q a w en).LinesWf :=
  .foldl h fun _ _ ht => .ite (.getD ht fun _ e => ht.writePlace e)
    (.foldl ht fun _ _ hu => .ite hu (.ite (.getD hu fun _ e => hu.writePlace e) hu.writeFarWord))

theorem putVec (h : s.LinesWf) {vd lat : Nat} {w en : VWord} {seen : State} : (s.putVec vd lat w en seen).LinesWf := by
  unfold State.putVec
  split
  · dsimp only
    refine .setMe ?_
    split
    · exact .writeFarVec h.fetchWindows
    · split
      · exact .writeElems h.fetchWindows
      · exact h.fetchWindows
  · exact h.setMe

/-! ### Forms of instructions (R145 to R164) -/

theorem vmap (h : s.LinesWf) {i : Instr} {lat w : Nat} {reads : List (RegFile × Nat)} {srcs : List Nat} {vd : Reg}
    {m : MaskReg} {stl : Stall} {f : Ctx → (Nat → VWord) → Nat → Flagged Nat} :
    (s.vmap i lat w reads srcs vd m stl f).LinesWf :=
  .onCompute h (.issue h (.vec_noOwn h fun _ _ ht => .done ht.putVec))

theorem vcmp (h : s.LinesWf) {i : Instr} {lat w : Nat} {f : Nat → Nat → Flagged Bool} {md : MaskReg} {vs1 vs2 : Reg}
    {m : MaskReg} {stl : Stall} : (s.vcmp i lat w f md vs1 vs2 m stl).LinesWf :=
  .onCompute h (.issue h (.vec_noOwn h fun _ _ ht => ht.done))

theorem vred (h : s.LinesWf) {i : Instr} {w : Nat} {f : Nat → Nat → Flagged Nat} {vd vs1 : Reg} {m : MaskReg} {stl : Stall} :
    (s.vred i w f vd vs1 m stl).LinesWf :=
  .onCompute h (.issue h (.vec_noOwn h fun _ _ ht => .done ht.putVec))

theorem vscanAs (h : s.LinesWf) {i : Instr} {w wd : Nat} {live : Nat → Bool} {val : VWord → Nat → Nat} {vd vs1 rc : Reg}
    {m : MaskReg} {stl : Stall} : (s.vscanAs i w wd live val vd vs1 rc m stl).LinesWf :=
  .onCompute h (.issue h (.vec_noOwn h fun _ _ ht => .done ht.putVec))

theorem maskOp (h : s.LinesWf) {i : Instr} {reads : List (RegFile × Nat)} {md : MaskReg} {stl : Stall} {f : Ctx → MWord} :
    (s.maskOp i reads md stl f).LinesWf := .onCompute h (.issue h h.done)
theorem maskToX (h : s.LinesWf) {i : Instr} {rd : Reg} {ms1 : MaskReg} {stl : Stall} {f : MWord → Word} :
    (s.maskToX i rd ms1 stl f).LinesWf := .onCompute h (.issue h h.done)

theorem cvt (h : s.LinesWf) {i : Instr} {ws wd p : Nat} {rm : RoundMode} {f : RoundMode → Nat → Nat → Flagged Nat}
    {vd vs1 : Reg} {m : MaskReg} {stl : Stall} : (s.cvt i ws wd p rm f vd vs1 m stl).LinesWf := by
  have hdraw : ∀ t u : State, t.LinesWf → (if rm = .sr ∧ !t.me.canDraw then some (t.illegal i) else none) = some u → u.LinesWf := by
    intro t u ht e
    split at e
    · cases e; exact ht.illegal
    · cases e
  refine .onCompute h (.issue h (.vec h (fun u e => hdraw _ u h e) (fun t rv g ht e => ?_) fun _ _ ht => .done ht.putVec))
  subst e
  dsimp only
  split
  next hd => exact hdraw t _ ht hd
  · exact ht

theorem vload (h : s.LinesWf) {i : Instr} {reads : List (RegFile × Nat)} {srcs : List Nat} {w : IntW} {mode : AddrMode}
    {vd rs1 : Reg} {m : MaskReg} {stl : Stall} {step : Ctx → (Nat → VWord) → Nat → Word} :
    (s.vload i reads srcs w mode vd rs1 m stl step).LinesWf := by
  refine .onCompute h (.issue h ?_)
  extract_lets n mask addrs reach first
  have hfirst : ∀ t rv g, t.LinesWf → first t rv = g → g.state.LinesWf := by
    rintro t rv g ht rfl
    unfold first
    split
    · exact ht.fail
    · split
      next hfin => exact ht.finishReadsIf hfin
      next u hfin =>
        have hu : u.LinesWf := ht.finishReadsIf hfin
        split
        · exact hu.fail
        · split
          next hread => exact hu.fetchWindows.readElems hread
          · exact hu
  refine .vec h (fun u e => ?_) hfirst fun t rv ht => ?_
  · split at e
    · cases e
    · split at e
      next hread => cases e; exact h.readVecs hread
      next l v hread =>
        split at e
        next hstop => cases e; exact hfirst _ _ _ (h.readVecs hread) hstop
        · cases e
  · split
    · exact ht.fail
    · split
      next hread => exact ht.fetchWindows.readElems hread
      next hread => exact .done (.putVec (ht.fetchWindows.readElems hread))

theorem vstore (h : s.LinesWf) {i : Instr} {reads : List (RegFile × Nat)} {srcs : List Nat} {w : IntW} {mode : AddrMode}
    {vs3 rs1 : Reg} {m : MaskReg} {stl : Stall} {step : Ctx → (Nat → VWord) → Nat → Word} :
    (s.vstore i reads srcs w mode vs3 rs1 m stl step).LinesWf := by
  refine .onCompute h (.issue h ?_)
  extract_lets n mask reach
  refine .vec h (fun u e => ?_) (fun t rv g ht e => ?_) fun t rv ht => ?_
  · split at e
    · cases e
    · split at e
      next hread => cases e; exact h.readVecs hread
      · split at e
        · cases e; exact h.fail
        · cases e
  · subst e
    split
    · exact ht.fail
    · split
      next hfin => exact ht.finishReadsIf hfin
      next u hfin =>
        have hu : u.LinesWf := ht.finishReadsIf hfin
        split
        · exact hu.fail
        · exact hu
  · split
    · exact ht.fail
    · exact .done (.writeElems ht.fetchWindows)

/-! ### Instructions of their own form (R146, R162, R167, R172) -/

theorem exec_sbind (h : s.LinesWf) {n : BitVec 3} {stl : Stall} : NextWf (exec (.sbind n stl) s) :=
  .next (.onCompute h (.ite h.trap (.ite h.trap h.done)))

theorem exec_sclose (h : s.LinesWf) {n : BitVec 3} {stl : Stall} : NextWf (exec (.sclose n stl) s) :=
  .next (.onCompute h h.done)

theorem exec_vextr (h : s.LinesWf) {rd vs1 rs2 : Reg} {w : IntW} {stl : Stall} : NextWf (exec (.vextr rd vs1 rs2 w stl) s) :=
  .next (.onCompute h (.issue h (.vec_noOwn h fun _ _ ht => ht.done)))

theorem exec_vins (h : s.LinesWf) {vd rs1 rs2 : Reg} {w : IntW} {stl : Stall} : NextWf (exec (.vins vd rs1 rs2 w stl) s) :=
  .next (.onCompute h (.issue h (.vec_noOwn h fun _ _ ht => .done ht.putVec)))

theorem exec_streamPrefetch (h : s.LinesWf) : NextWf (execStreamPrefetch s) := by
  unfold execStreamPrefetch
  split
  next k c n _ _ =>
    dsimp only
    split
    · exact .next h.pop
    · split
      · exact .next h.pop
      · split
        · exact .next h.pop
        · exact .next (fetchAhead (s := { s.pop with focus := k, active := c }) h.pop)
  · exact .next h

end Sys2Proof.Machine.State.LinesWf
end

section
/-!
The tokens of the lines under tasks, coaches, job cards and records (R201 to R214, R306 to R315).
-/

namespace Sys2Proof.Machine.State.LinesWf

variable {s : State}

/-! ### The end of a task (R205, R209, R214, R315) -/

theorem putBars (h : s.LinesWf) {cl : Nat} {bars : SMap Barrier} : (s.putBars cl bars).LinesWf :=
  .foldl h fun _ _ ht => ht.updCore

theorem endCoaches (h : s.LinesWf) {cl : Nat} : (s.endCoaches cl).LinesWf :=
  .foldl h fun _ _ ht => .updCluster (.foldl ht fun _ _ hu => hu.updCore)

theorem endBinding (h : s.LinesWf) {k : Nat} : (s.endBinding k).LinesWf := .ite h h.setCore

theorem logLost (h : s.LinesWf) {k : Nat} {lid : BitVec 16} : (s.logLost k lid).LinesWf := h

theorem endTask (h : s.LinesWf) {k c : Nat} : (s.endTask k c).LinesWf :=
  .endCoaches (.endBinding (.updCore (.putBars (.foldl h fun _ _ ht => ht.logLost))))

theorem cardEnd (h : s.LinesWf) {cl card : Nat} : (s.cardEnd cl card).LinesWf := h

theorem cardAdd (h : s.LinesWf) {pa : Nat} : (s.cardAdd pa).LinesWf := h.memWrite

/-- A task that ends with its card's counter, whatever it does besides. -/
theorem finish (h : s.LinesWf) {go : State → State} (hgo : ∀ t, t.LinesWf → (go t).LinesWf) : (s.finish go).LinesWf := by
  have hlast : ∀ t : State, t.LinesWf → (match s.me.card with | some p => t.cardEnd p.1 p.2 | none => t).LinesWf := by
    intro t ht
    split
    · exact ht.cardEnd
    · exact ht
  unfold State.finish
  dsimp only
  split
  · exact hlast _ (hgo s h)
  · split
    · exact .ite h.poisonTrap (.after h fun t ht => hlast _ (hgo _ (.cardAdd ht.tlbCopy)))
    · exact .trap h.looked
    · exact h.fail

theorem payCounter (h : s.LinesWf) {cl : Nat} {o : Nat × BitVec 13 × Word} : (s.payCounter cl o).LinesWf := by
  unfold State.payCounter
  dsimp only
  split
  · exact .ite h.tlbCopy (.cardAdd h.tlbCopy)
  · exact .updCluster h.postMiss
  · exact .updCluster h.tlbCopy
  · exact .updCluster (.want h.tlbCopy)
  · exact h.tlbCopy

theorem payOwed (h : s.LinesWf) {cl : Nat} : (s.payOwed cl).LinesWf :=
  .foldl h.updCluster fun _ _ ht => ht.payCounter

theorem killCard (h : s.LinesWf) {k c : Nat} : (s.killCard k c).LinesWf := by
  unfold State.killCard
  split
  · exact h
  · refine .cardEnd ?_
    split
    · exact h
    · exact h.payCounter

/-! ### Records (R306, R311 to R314) -/

theorem notePassed (h : s.LinesWf) {cl : Nat} {lid : BitVec 16} : (s.notePassed cl lid).LinesWf :=
  .foldl h fun _ _ ht => ht.updCore

theorem startRecord (h : s.LinesWf) {k c i : Nat} {r : Record} {co : Coach} {args : List Word} :
    (s.startRecord k c i r co args).LinesWf := h

theorem notFresh (h : s.LinesWf) {cl : Nat} {lid : BitVec 16} : (s.notFresh cl lid).LinesWf := h

theorem enqueueRecord (h : s.LinesWf) {k : Nat} {r : Record} {t : State} (e : s.enqueueRecord k r = some t) : t.LinesWf := by
  unfold State.enqueueRecord at e
  dsimp only at e
  split at e
  · cases e; exact h.updCore
  · split at e
    · cases e; exact h.setCluster
    · cases e

theorem failLaunch (h : s.LinesWf) {lid : Nat} : (s.failLaunch lid).LinesWf := by
  unfold State.failLaunch
  split
  · exact h
  · exact h

theorem withdraw (h : s.LinesWf) {k : Nat} {r : Record} : (s.withdraw k r).LinesWf :=
  .endCoaches (.failLaunch (.logCore (.ite h.cardEnd h)))

theorem writeSlot (h : s.LinesWf) {cl slot : Nat} {r : Record} : (s.writeSlot cl slot r).LinesWf :=
  .foldl h fun _ _ ht => ht.memWrite

theorem spillOne (h : s.LinesWf) {cl : Nat} : (s.spillOne cl).LinesWf := by
  unfold State.spillOne
  dsimp only
  split
  · exact h
  · split
    · exact h
    · exact .ite h.want (.writeSlot h.setCluster)

theorem seekLate (h : s.LinesWf) {k : Nat} : (s.seekLate k).LinesWf := by
  unfold State.seekLate
  dsimp only
  split
  · exact .getD_map h fun _ => h.postMiss
  · exact h.want
  · exact h

theorem onTarget (h : s.LinesWf) {w : Word} {f : State → Nat → State} (hf : ∀ k, (f s k).LinesWf) :
    (s.onTarget w f).LinesWf := .ite (hf _) h.trap

theorem dealRecord (h : s.LinesWf) {cl n j : Nat} {card : Card} {i : Nat} : (s.dealRecord cl n j card i).LinesWf := by
  unfold State.dealRecord
  extract_lets k base pas words u put
  have hu : u.LinesWf := .foldl h fun _ _ ht => ht.tlbCopy
  have hput : ∀ r, (put r).LinesWf := by
    intro r
    unfold put
    split
    · exact hu
    next henq => exact .updCluster (hu.enqueueRecord henq)
  clear_value words put
  split
  · exact .holderReads (hput _)
  · exact hu.postMiss
  · exact hput _
  · exact hu.want
  · exact hput _

/-! ### Their steps (R189, R208, R209, R306, R311 to R314) -/

theorem exec_recordStart (h : s.LinesWf) : NextWf (execRecordStart s) := by
  unfold execRecordStart
  dsimp only
  split
  · split
    · split
      · exact .next h.pop
      · split
        · exact .next h.pop
        · exact .next (.ite (.startRecord h.pop) h.pop)
    · exact .next h.pop
  · exact .next h

theorem exec_recordArrival (h : s.LinesWf) : NextWf (execRecordArrival s) := by
  unfold execRecordArrival
  dsimp only
  split
  · split
    · exact .next h.pop
    · split
      · exact .next h.pop
      next henq =>
        exact .next (.fields (h.pop.enqueueRecord henq) (by rfl))
  · exact .next h

theorem exec_ringReturn (h : s.LinesWf) : NextWf (execRingReturn s) := by
  unfold execRingReturn
  dsimp only
  split
  · split
    · split
      · exact .next (.want h.pop)
      · exact .next (.ite (.withdraw (.holderReads (.updCluster h.pop))) (.updCore (.holderReads (.updCluster h.pop))))
    · split
      · exact .next (.updCore (.updCluster h.pop))
      · exact .next h.pop.spillOne
  · exact .next h

theorem exec_bankRecordWithdrawn (h : s.LinesWf) : NextWf (execBankRecordWithdrawn s) := by
  unfold execBankRecordWithdrawn
  dsimp only
  split
  · split
    · split
      · exact .next h.pop
      · exact .next (.withdraw (.updCore h.pop))
    · split
      · exact .next h.pop
      · exact .next (.withdraw (.updCluster h.pop))
    · split
      · exact .next h.pop
      · exact .next (.withdraw (.updCluster h.pop))
  · exact .next h

theorem exec_cardTaskStart (h : s.LinesWf) : NextWf (execCardTaskStart s) := by
  unfold execCardTaskStart
  dsimp only
  split
  next k _ _ _ _ =>
    have hp : (s.pop.payOwed (clusterOf k)).LinesWf := .payOwed h.pop
    split
    · split
      · exact .next hp
      · split
        · exact .next hp
        · split
          · exact .next hp
          · split
            · exact .next (.trapCtx (.startRecord hp))
            · exact .next (.startRecord hp)
            · exact .next (.holderReads (.startRecord hp))
            · exact .next (.trapCtx (.startRecord hp))
    · exact .next hp.seekLate
  · exact .next h

theorem exec_exit (h : s.LinesWf) {stl : Stall} : NextWf (execExit stl s) :=
  .next (.onCompute h (.finish h fun _ ht => ht.endTask))

theorem exec_spawn (h : s.LinesWf) {rs1 rs2 : Reg} {stl : Stall} : NextWf (execSpawn rs1 rs2 stl s) :=
  .next (.onCompute h (.issue h (.onTarget h fun _ => .after h fun _ ht => .ite (.done ht.updCore) ht.setMe)))

theorem exec_migr (h : s.LinesWf) {rs1 rs2 : Reg} {stl : Stall} : NextWf (execMigr rs1 rs2 stl s) :=
  .next (.onCompute h (.issue h (.onTarget h fun _ => .ite h.wait (.after h fun _ ht => .finish ht fun _ hu =>
    .endTask (.fields hu (by rfl))))))

theorem exec_yield (h : s.LinesWf) {stl : Stall} : NextWf (execYield stl s) :=
  .next (.onCompute h (.ite h.setMe h.setMe))

theorem exec_jobcard (h : s.LinesWf) {rd : Reg} {rs1 rs2 : Pair} {stl : Stall} : NextWf (execJobcard rd rs1 rs2 stl s) := by
  refine .next (.onCompute h (.issue h ?_))
  dsimp only
  refine .ite h.done (.ite (.after h fun _ ht => ht.done) ?_)
  split
  · exact h.done
  · exact .after h fun _ ht => .done ht.updCluster

theorem exec_jobCardDeal (h : s.LinesWf) : NextWf (execJobCardDeal s) := by
  unfold execJobCardDeal
  dsimp only
  split
  next cl _ _ _ _ =>
    have hp : (s.pop.payOwed cl).LinesWf := .payOwed h.pop
    split
    · exact .next hp
    · split
      · exact .next hp
      · split
        · exact .next hp.dealRecord
        · split
          · exact .next hp
          · exact .next hp.updCluster
  · exact .next h

end Sys2Proof.Machine.State.LinesWf
end

section
/-!
The tokens of the lines under requests, tags and counters, and under the engines that perform requests (R241 to R261).
-/

namespace Sys2Proof.Machine.State.LinesWf

variable {s : State}

/-! ### Requests, tags and counters (R241 to R254) -/

theorem countTags (h : s.LinesWf) {k : Nat} {kind : ReqKind} {w1 w3 : Word} {n : Nat} {failed : Bool} :
    (s.countTags k kind w1 w3 n failed).LinesWf := .ite (.foldl h fun _ _ ht => ht.updCore) h

theorem landPosts (h : s.LinesWf) {l : List Post} : (s.landPosts l).LinesWf := .foldl h fun _ _ ht => ht.updCore

theorem accept (h : s.LinesWf) {kind : ReqKind} {w0 w1 w2 w3 : Word} : (s.accept kind w0 w1 w2 w3).LinesWf := by
  unfold State.accept
  extract_lets k c co far r netId queued looked y counted
  have hqueued : queued.LinesWf := h
  have hlooked : looked.LinesWf := .getD_map hqueued fun _ => hqueued.looked
  have hcounted : counted.LinesWf := hlooked.setMe
  exact .ite (.fields hcounted (by rfl)) hcounted

theorem request (h : s.LinesWf) {i : Instr} {kind : ReqKind} {rd : Reg} {p q : Pair} {stl : Stall} :
    (s.request i kind rd p q stl).LinesWf := by
  refine .onCompute h (.issue h ?_)
  dsimp only
  split
  · exact h.wait
  · exact .done (.ite h.accept h)

theorem onTags (h : s.LinesWf) {rs1 : Reg} {run : State → Word → State} (hrun : ∀ mask, (run s mask).LinesWf) :
    (s.onTags rs1 run).LinesWf := .ite h.trap (hrun _)

theorem onTagWait (h : s.LinesWf) {rs1 : Reg} {run : State → Word → State} (hrun : ∀ mask, (run s mask).LinesWf) :
    (s.onTagWait rs1 run).LinesWf := by
  refine .onTags h fun mask => .ite h.trap ?_
  split
  next hrep => exact h.report hrep
  · exact hrun mask

theorem exec_cpush (h : s.LinesWf) {rs1 rs2 : Pair} {stl : Stall} : NextWf (execCpush rs1 rs2 stl s) := by
  refine .next (.onCompute h (.issue h ?_))
  dsimp only
  split
  · exact h.wait
  · exact .done h.accept
  · exact h.wait
  · exact h.trap

theorem exec_tagPost (h : s.LinesWf) : NextWf (execTagPost s) := by
  unfold execTagPost
  dsimp only
  split
  · split
    · exact .next h.pop
    · exact .next (.updCore (.fields h.pop (by rfl)))
  · exact .next h

theorem exec_cntwaitge (h : s.LinesWf) {rs1 rs2 : Reg} {stl : Stall} : NextWf (execCntwaitge rs1 rs2 stl s) := by
  refine .next (.issue h ?_)
  dsimp only
  split
  · split
    next hrep => exact h.report hrep
    · refine .after h fun t ht => ?_
      split
      next hread => exact ht.readPlace hread
      next v u hread =>
        have hu : u.LinesWf := ht.readPlace hread
        exact .ite hu.done hu.setMe
  · exact h.fail

/-! ### What the engines do with a request (R247, R253 to R259) -/

theorem updReq (h : s.LinesWf) {k num : Nat} {f : Req → Req} : (s.updReq k num f).LinesWf := h
theorem dropReq (h : s.LinesWf) {k num : Nat} : (s.dropReq k num).LinesWf := h

theorem retireReq (h : s.LinesWf) {k num : Nat} : (s.retireReq k num).LinesWf := by
  unfold State.retireReq
  split
  · exact h
  · exact .ite (.fields h (by rfl)) h

theorem deliver (h : s.LinesWf) {k : Nat} {r : Req} {lo len : Nat} : (s.deliver k r lo len).LinesWf :=
  .retireReq (.ite h.updReq (.countTags h.updReq))

theorem engMem (h : s.LinesWf) {k : Nat} {cls : BitVec 6} {a n v : Nat} : (s.engMem k cls a n v).LinesWf :=
  .aged (.memWrite h)
theorem engPad (h : s.LinesWf) {cls : BitVec 6} {k off n v : Nat} : (s.engPad cls k off n v).LinesWf := h

theorem engWrite (h : s.LinesWf) {k : Nat} {cls : BitVec 6} {n v : Nat} {p : Place} : (s.engWrite k cls n v p).LinesWf := by
  cases p with
  | mem pa => exact h.engMem
  | pad j off => exact h.engPad
  | _ => exact h

theorem readKeys (h : s.LinesWf) {k : Nat} {r : Req} {l : List (Nat × Meet)} : (s.readKeys k r l).LinesWf :=
  .updReq (.holderReads h)

theorem lookUp (h : s.LinesWf) {k : Nat} {asid : BitVec 13} {l : List Meet} : (s.lookUp k asid l).LinesWf :=
  .foldl h fun _ _ ht => .ite ht.tlbCopy ht

theorem whenOk (h : s.LinesWf) {k j : Nat} {r : Req} {l : List Meet} {f : State → State}
    (hf : ∀ t, t.LinesWf → (f t).LinesWf) : (s.whenOk k j r l f).LinesWf := by
  unfold State.whenOk
  dsimp only
  split
  · exact .lookUp (hf _ h.holderReads)
  · split
    · exact .postMiss h.lookUp
    · exact .want h.lookUp
    · exact h.lookUp

theorem keepElems (h : s.LinesWf) {k : Nat} {r : Req} {lo len : Nat} : (s.keepElems k r lo len).LinesWf := h

theorem putByte (h : s.LinesWf) {k : Nat} {r : Req} {n : Nat} {b : Byte} : (s.putByte k r n b).LinesWf :=
  .foldl h fun _ _ ht => ht.engWrite

theorem putBytes (h : s.LinesWf) {k : Nat} {r : Req} {lo : Nat} {bytes : List Byte} : (s.putBytes k r lo bytes).LinesWf :=
  .cleanPlaces (.foldl h fun _ _ ht => ht.putByte)

theorem binWrite (h : s.LinesWf) {k : Nat} {r : Req} {lo len : Nat} : (s.binWrite k r lo len).LinesWf := by
  refine .cleanPlaces (.foldl h fun t j ht => ?_)
  dsimp only
  split
  · exact ht.engWrite
  · exact ht

theorem sendPart (h : s.LinesWf) {k : Nat} {r : Req} {lo len : Nat} : (s.sendPart k r lo len).LinesWf := .updReq (.send h)

theorem seekHalted (h : s.LinesWf) {k : Nat} {r : Req} {va : Word} : (s.seekHalted k r va).LinesWf := h

theorem reportReq (h : s.LinesWf) {k : Nat} {r : Req} {why : Failure} : (s.reportReq k r why).LinesWf :=
  .ite h.updCtx (.ite h.logLost h)

theorem failReq (h : s.LinesWf) {k : Nat} {r : Req} {why : Failure} : (s.failReq k r why).LinesWf :=
  .reportReq (.ite (.dropReq h.countTags) (.retireReq (.updReq h.countTags)))

theorem discardReq (h : s.LinesWf) {k : Nat} {r : Req} : (s.discardReq k r).LinesWf := .dropReq h.countTags

theorem discardQueued (h : s.LinesWf) {k c : Nat} : (s.discardQueued k c).LinesWf :=
  .updCore (.foldl (.ite h (.landPosts (.fields h (by rfl)))) fun _ _ ht => ht.discardReq)

theorem killTask (h : s.LinesWf) {k c : Nat} : (s.killTask k c).LinesWf := .endTask (.killCard h.discardQueued)

/-! ### Their steps (R241, R247, R253 to R258) -/

theorem exec_engineRequestStart (h : s.LinesWf) : NextWf (execEngineRequestStart s) := by
  unfold execEngineRequestStart
  dsimp only
  split
  · split
    · exact .next h.pop
    · split
      · exact .next h.pop
      · exact .next (.updReq h.pop)
  · exact .next h

theorem exec_copyBytesWritten (h : s.LinesWf) : NextWf (execCopyBytesWritten s) := by
  unfold execCopyBytesWritten
  dsimp only
  split
  · split
    · exact .next h.pop
    · split
      · exact .next h.pop
      · refine .next (.whenOk (.readKeys h.pop) fun t ht => ?_)
        exact .ite (.sendPart (.ite ht ht.keepElems)) (.ite (.deliver ht.binWrite) (.deliver (.putBytes ht.keepElems)))
  · exact .next h

theorem exec_gatherSnapshot (h : s.LinesWf) : NextWf (execGatherSnapshot s) := by
  unfold execGatherSnapshot
  dsimp only
  split
  · split
    · exact .next h.pop
    · split
      · exact .next h.pop
      · split
        · exact .next (.whenOk h.pop fun _ ht => ht)
        · split
          · exact .next h.pop
          · split
            · exact .next h.pop
            · refine .next (.whenOk (.readKeys h.pop) fun t ht => .deliver (.cleanPlaces (.foldl ht fun u b hu => ?_)))
              split
              · exact hu.engWrite
              · exact hu
  · exact .next h

theorem exec_scataddUpdate (h : s.LinesWf) : NextWf (execScataddUpdate s) := by
  unfold execScataddUpdate
  dsimp only
  split
  · split
    · exact .next h.pop
    · split
      · exact .next h.pop
      · refine .next (.whenOk (.readKeys h.pop) fun t ht => ?_)
        split
        · exact .deliver ht.engWrite
        · exact ht
  · exact .next h

theorem exec_counterAdd (h : s.LinesWf) : NextWf (execCounterAdd s) := by
  unfold execCounterAdd
  dsimp only
  split
  · split
    · exact .next h.pop
    · split
      · exact .next h.pop
      · refine .next (.whenOk h.pop fun t ht => ?_)
        split
        · exact .retireReq (.updReq ht.memWrite)
        · exact ht
  · exact .next h

theorem exec_requestHalt (h : s.LinesWf) : NextWf (execRequestHalt s) := by
  unfold execRequestHalt
  dsimp only
  split
  · split
    · exact .next h.pop
    · split
      · exact .next h.pop
      · split
        · exact .next h.pop
        · have hp := h.pop
          exact .next (.ite (.updCtx (.lookUp (.updReq (.getD_map hp fun _ => hp.readKeys))))
            (.lookUp (.updReq (.getD_map hp fun _ => hp.readKeys))))
  · exact .next h

theorem exec_requestResume (h : s.LinesWf) : NextWf (execRequestResume s) := by
  unfold execRequestResume
  dsimp only
  split
  · split
    · exact .next h.pop
    · split
      · split
        · exact .next h.pop
        · split
          · exact .next (.seekHalted h.pop)
          · exact .next h.pop
          · split
            · exact .next h.pop
            · exact .next (.endCoaches (.updCore h.pop))
      · exact .next h.pop
  · exact .next h

theorem exec_requestAccessFault (h : s.LinesWf) : NextWf (execRequestAccessFault s) := by
  unfold execRequestAccessFault
  dsimp only
  split
  · split
    · exact .next h.pop
    · split
      · exact .next h.pop
      · split
        · exact .next h.pop
        · exact .next (.endCoaches (.lookUp (.ite (.dropReq h.pop) (.failReq h.pop))))
  · exact .next h

end Sys2Proof.Machine.State.LinesWf
end

section
/-!
The tokens of the lines under the matrix engine: its queue, its groups and its drain slots (R216 to R240).
-/

namespace Sys2Proof.Machine.State.LinesWf

variable {s : State}

/-! ### Operations of the engine (R217 to R237) -/

theorem onMatrix (h : s.LinesWf) {run : State → State} (hrun : ∀ t, t.LinesWf → (run t).LinesWf) :
    (s.onMatrix run).LinesWf := by
  unfold State.onMatrix
  dsimp only
  split
  · exact h.trap
  · refine .ite h.trap ?_
    split
    next hrep => exact h.setCore.report hrep
    · exact hrun _ h.setCore

theorem busy (h : s.LinesWf) {rd : Reg} {n : Nat} {stl : Stall} : (s.busy rd n stl).LinesWf := h
theorem enqueueMx (h : s.LinesWf) {o : MxOp} : (s.enqueueMx o).LinesWf := h
theorem queueMx (h : s.LinesWf) {o : MxOp} {rd : Reg} {stl : Stall} : (s.queueMx o rd stl).LinesWf :=
  .ite h.busy (.busy h.enqueueMx)

theorem mxLook (h : s.LinesWf) {k : Nat} {asid : BitVec 13} {l : List (AddrMode × Word × Nat)} :
    (s.mxLook k asid l).LinesWf := .foldl h fun _ _ ht => .ite (.foldl ht fun _ _ hu => hu.tlbCopy) ht

theorem compare (h : s.LinesWf) {k c0 n : Nat} {lid : BitVec 16} {p : Option Nat × State}
    (e : s.compare k c0 n lid = p) : p.2.LinesWf := by
  subst e
  unfold State.compare
  dsimp only
  split
  · exact h.logCore
  · split
    · exact .logCore h.setCore
    · exact h

theorem popMx (h : s.LinesWf) {k : Nat} : (s.popMx k).LinesWf := .endCoaches (.endBinding h.updCore)

theorem reportMx (h : s.LinesWf) {k c ord : Nat} {lid : BitVec 16} {owned : Bool} {why : Failure} :
    (s.reportMx k c ord lid owned why).LinesWf := .ite h.updCtx (.ite h.logLost h)

theorem failMx (h : s.LinesWf) {k : Nat} {o : MxOp} {why : Failure} : (s.failMx k o why).LinesWf :=
  .endCoaches (.endBinding (.reportMx h.updCore))

theorem withReads (h : s.LinesWf) {k : Nat} {o : MxOp} {l : List (AddrMode × Word × Nat)} {f : State → State}
    (hf : ∀ t, t.LinesWf → (f t).LinesWf) : (s.withReads k o l f).LinesWf :=
  .ite (.mxLook (hf _ h.holderReads)) h.wantTokens

theorem loadTile (h : s.LinesWf) {k : Nat} {o : MxOp} : (s.loadTile k o).LinesWf :=
  .foldl h fun _ _ ht => .ite (.foldl ht fun _ _ hu => hu.updCore)
    (.cleanPlaces (.foldl ht fun _ _ hu => .engPad (.updCore hu)))

theorem zeroRows (h : s.LinesWf) {k : Nat} {r : MxRegs} {first stop : Nat} : (s.zeroRows k r first stop).LinesWf := h

theorem mxBlocked (h : s.LinesWf) {k : Nat} {o : MxOp} {l : List (AddrMode × Word × Nat)} {r : Reach} :
    (s.mxBlocked k o l r).LinesWf := by
  cases r with
  | miss acc va => exact .postMiss h.mxLook
  | trap code t => exact .failMx h.mxLook
  | _ => exact h.mxLook

theorem mulRow (h : s.LinesWf) {now : State} {k : Nat} {o : MxOp} {i : Nat} : (s.mulRow now k o i).LinesWf :=
  .foldl h fun _ _ ht => ht.engPad

theorem freeSlot (h : s.LinesWf) {k n : Nat} : (s.freeSlot k n).LinesWf := .endCoaches (.endBinding h.updCore)

theorem applyEvent (h : s.LinesWf) {k : Nat} {r : MxRegs} {e : Entry} : (s.applyEvent k r e).LinesWf :=
  .ite h (.foldl h fun _ _ ht => ht.engPad)

theorem evmacPass (h : s.LinesWf) {r : MxRegs} {ch : Nat} {rd : Reg} {stl : Stall} : (s.evmacPass r ch rd stl).LinesWf := by
  unfold State.evmacPass
  dsimp only
  refine .ite h.done ?_
  split
  · exact h.poisonTrap
  · split
    next hcmp => exact .trap (h.compare hcmp)
    next hcmp => exact .done (.foldl (.updCore (h.compare hcmp)) fun _ _ ht => ht.applyEvent)

/-! ### Instructions of major MATRIX (R218 to R237) -/

theorem exec_mset (h : s.LinesWf) {er : EngReg} {rs1 : Reg} {stl : Stall} : NextWf (execMset er rs1 stl s) :=
  .next (.onCompute h (.issue h (.onMatrix h fun _ ht => .done ht.updCore)))

theorem exec_mget (h : s.LinesWf) {rd : Reg} {er : EngReg} {stl : Stall} : NextWf (execMget rd er stl s) :=
  .next (.onCompute h (.issue h (.onMatrix h fun _ ht => ht.done)))

theorem exec_mloadw (h : s.LinesWf) {rd rs1 rs2 : Reg} {stl : Stall} : NextWf (execMloadw rd rs1 rs2 stl s) := by
  refine .next (.onCompute h (.issue h (.onMatrix h fun t ht => .ite ht.busy ?_)))
  split
  · exact ht.fail
  · exact .queueMx ht.mxLook

theorem exec_mmul (h : s.LinesWf) {rd rs1 rs2 : Reg} {stl : Stall} : NextWf (execMmul rd rs1 rs2 stl s) := by
  refine .next (.onCompute h (.issue h (.onMatrix h fun t ht => .ite ht.busy (.ite ht.queueMx ?_))))
  split
  · exact ht.busy
  · refine .ite ht.busy ?_
    dsimp only
    split
    · exact ht.wait
    · exact ht.fail
    · exact .trap ht.mxLook
    · exact .ite (.busy ht.mxLook) (.busy (.enqueueMx (.setMe ht.mxLook)))

theorem exec_mzero (h : s.LinesWf) {rd rs1 : Reg} {stl : Stall} : NextWf (execMzero rd rs1 stl s) :=
  .next (.onCompute h (.issue h (.onMatrix h fun _ ht => .ite ht.busy ht.queueMx)))

theorem exec_mdrain (h : s.LinesWf) {rd rs1 : Reg} {stl : Stall} : NextWf (execMdrain rd rs1 stl s) := by
  refine .next (.onCompute h (.issue h (.onMatrix h fun t ht => .ite ht.busy (.ite (.ite ht.busy ?_) ht.queueMx))))
  split
  · exact ht.fail
  · exact .queueMx ht.mxLook

theorem exec_evmac (h : s.LinesWf) {rd rs1 : Reg} {stl : Stall} : NextWf (execEvmac rd rs1 stl s) := by
  refine .next (.onCompute h (.issue h ?_))
  dsimp only
  split
  · exact .ite (.onMatrix h.updCore fun _ ht => ht.evmacPass) h.wait
  · refine .onMatrix h fun t ht => .ite ht.trap ?_
    split
    · exact ht.trap
    · exact .ite ht.evmacPass (.wait ht.enqueueMx)

theorem exec_mchk (h : s.LinesWf) {rd rs1 : Reg} {stl : Stall} : NextWf (execMchk rd rs1 stl s) := by
  refine .next (.onCompute h (.issue h (.ite h.done (.onMatrix h fun t ht => .ite ?_ (.ite ht.wait ht.done)))))
  split
  · exact .ite ht.wait (.done ht.updCore)
  · exact .ite (.wait ht.enqueueMx) (.done ht.enqueueMx)

/-! ### Steps of the engine (R221 to R240) -/

theorem exec_matrixOpStart (h : s.LinesWf) : NextWf (execMatrixOpStart s) := by
  unfold execMatrixOpStart
  dsimp only
  split
  · have hp := h.pop
    split
    · exact .next hp
    · split
      · exact .next hp
      · split
        · refine .next ?_
          split
          · exact hp.mxBlocked
          · split
            · exact hp.failMx
            · exact .withReads hp fun _ ht => .popMx ht.loadTile
        · exact .next (.popMx hp.zeroRows)
        · split
          next hcmp => exact .next (.failMx (hp.compare hcmp))
          next hcmp => exact .next (.popMx (hp.compare hcmp))
        · exact .next hp
        · split
          · exact .next hp.updCore
          · exact .next hp.popMx
        · exact .next hp.updCore
  · exact .next h

theorem exec_mmulGroupCommit (h : s.LinesWf) : NextWf (execMmulGroupCommit s) := by
  unfold execMmulGroupCommit
  dsimp only
  split
  · have hp := h.pop
    split
    · exact .next hp
    · split
      · exact .next hp
      · split
        · exact .next hp.mxBlocked
        · exact .next hp.mxBlocked
        · split
          · exact .next hp.failMx
          · refine .next (.withReads hp fun t ht => ?_)
            split
            next hcmp => exact .failMx (ht.compare hcmp)
            next hcmp =>
              have hu := ht.compare hcmp
              exact .ite (.popMx (.foldl hu fun _ _ hv => hv.mulRow)) (.updCore (.foldl hu fun _ _ hv => hv.mulRow))
  · exact .next h

theorem exec_drainRow (h : s.LinesWf) : NextWf (execDrainRow s) := by
  unfold execDrainRow
  dsimp only
  split
  · have hp := h.pop
    split
    · exact .next hp
    · split
      · exact .next hp
      · split
        · exact .next hp
        · exact .next hp.failMx
        · split
          · refine .next (.popMx (.updCore (.ite (.zeroRows ?_) ?_)))
            · exact .cleanPlaces (.foldl hp fun _ _ ht => ht.engPad)
            · exact .cleanPlaces (.foldl hp fun _ _ ht => ht.engPad)
          · refine .next (.updCore (.ite (.zeroRows ?_) ?_))
            · exact .cleanPlaces (.foldl hp fun _ _ ht => ht.engPad)
            · exact .cleanPlaces (.foldl hp fun _ _ ht => ht.engPad)
  · exact .next h

theorem exec_drainDispatch (h : s.LinesWf) : NextWf (execDrainDispatch s) := by
  unfold execDrainDispatch
  dsimp only
  split
  · split
    · split
      · exact .next h.pop
      · split
        · exact .next h.pop
        · split
          · exact .next h.pop
          · exact .next (.notFresh (.updCore (.updCtx h.pop)))
    · exact .next h.pop
  · exact .next h

theorem exec_rowDeparture (h : s.LinesWf) : NextWf (execRowDeparture s) := by
  unfold execRowDeparture
  dsimp only
  split
  · have hp := h.pop
    split
    · exact .next hp
    · split
      · exact .next hp
      · split
        · exact .next hp.freeSlot
        · split
          · exact .next (.freeSlot (.reportMx hp.mxLook))
          · exact .next hp.postMiss
          · exact .next hp
          · refine .next (.ite (.freeSlot (.cleanPlaces (.foldl hp.mxLook fun t j ht => ?_))) hp.wantTokens)
            split
            · exact ht.engWrite
            · exact ht
  · exact .next h

theorem exec_spareColumnSubstitution (h : s.LinesWf) : NextWf (execSpareColumnSubstitution s) := by
  unfold execSpareColumnSubstitution
  dsimp only
  split
  · split
    · exact .next h.pop
    · exact .next (.tick (.setCore h.pop))
  · exact .next h

end Sys2Proof.Machine.State.LinesWf
end

section
/-!
The tokens of the lines under events and flits, fetch faults and privileged instructions, barriers, and the admission, preemption and saving
of coaches (R174 to R200, R122 to R129, R210 to R213, R315, R327 to R344, R375).
-/

namespace Sys2Proof.Machine.State.LinesWf

variable {s : State}

/-! ### Events (R174 to R200) -/

theorem inject (h : s.LinesWf) {target : Word} {ch index delta : Nat} {mcast : Bool} :
    (s.inject target ch index delta mcast).LinesWf := h
theorem leaveSendQ (h : s.LinesWf) : s.leaveSendQ.LinesWf := h

theorem withFlits (h : s.LinesWf) {n : Nat} {send : State → State} (hsend : ∀ t, t.LinesWf → (send t).LinesWf) :
    (s.withFlits n send).LinesWf := .ite (hsend _ h.leaveSendQ) (.wait h.updCore)

theorem sendTrap (h : s.LinesWf) {code : Nat} {tval : Word} : (s.sendTrap code tval).LinesWf := .trap h.leaveSendQ

theorem targetList {s : State} (h : s.LinesWf) {a : Word} {l : List Nat} {t : State} (e : s.targetList a l = .inl t) :
    t.LinesWf := by
  induction l generalizing s t with
  | nil => cases e
  | cons j r ih =>
    unfold State.targetList at e
    dsimp only at e
    split at e
    · split at e
      next hread => cases e; exact h.readPlace hread
      next v u hread =>
        have hu : u.LinesWf := h.readPlace hread
        split at e
        · cases e; exact hu.trap
        · split at e
          next hrest => cases e; exact ih hu hrest
          · cases e
    · cases e; exact h.fail

/-- A read of the core's own memory, whether it is answered or stops the context. -/
theorem localRead (h : s.LinesWf) {a : Word} {n : Nat} {r : State ⊕ (Nat × State)} (e : s.localRead a n = r) :
    (Sum.elim id Prod.snd r).LinesWf := by
  subst e
  unfold State.localRead
  split
  · split
    next hread => exact h.readPlace hread
    next hread => exact h.readPlace hread
  · exact h.fail

theorem sdLanes {s : State} (h : s.LinesWf) {u : VWord} {a : Word} {l : List Nat} {t : State}
    (e : s.sdLanes u a l = .inl t) : t.LinesWf := by
  induction l generalizing s t with
  | nil => cases e
  | cons j r ih =>
    unfold State.sdLanes at e
    dsimp only at e
    split at e
    next hread => cases e; exact h.localRead hread
    next v w hread =>
      have hw : w.LinesWf := h.localRead hread
      split at e
      next hread' => cases e; exact hw.localRead hread'
      next v' w' hread' =>
        have hw' : w'.LinesWf := hw.localRead hread'
        split at e
        · exact ih hw' e
        · split at e
          · cases e; exact hw'.trap
          · split at e
            next hrest => cases e; exact ih hw' hrest
            · cases e

theorem sdSend (h : s.LinesWf) {a : Word} {l : SdLane} : (s.sdSend a l).LinesWf := by
  unfold State.sdSend
  dsimp only
  split
  · exact .inject (.getD h fun _ e => h.writePlace e)
  · exact h.inject

theorem sdEarly (h : s.LinesWf) {a : Word} {lanes : List Nat} {t : State} (e : s.sdEarly a lanes = some t) : t.LinesWf := by
  obtain ⟨j, -, e⟩ := List.exists_of_findSome?_eq_some e
  dsimp only at e
  split at e
  next hread => cases e; exact h.localRead hread
  · split at e
    next hread => cases e; exact h.localRead hread
    · cases e

theorem takePacket (h : s.LinesWf) {k : Nat} {p : BitVec 128} {t : State} (e : s.takePacket k p = some t) : t.LinesWf := by
  unfold State.takePacket at e
  dsimp only at e
  split at e
  · cases e; exact h.logCore
  · obtain ⟨co, -, rfl⟩ := Option.map_eq_some_iff.1 e
    exact .noteReady h.setCore

theorem exec_evsend (h : s.LinesWf) {rs1 rs2 : Reg} {stl : Stall} : NextWf (execEvsend rs1 rs2 stl s) :=
  .next (.onCompute h (.issue h (.ite h.sendTrap (.withFlits h fun _ ht => .done ht.inject))))

theorem exec_evsendnb (h : s.LinesWf) {rd rs1 rs2 : Reg} {stl : Stall} : NextWf (execEvsendnb rd rs1 rs2 stl s) :=
  .next (.onCompute h (.issue h (.ite h.trap (.ite (.done h.inject) h.done))))

theorem exec_evmc (h : s.LinesWf) {rs1 rs2 : Reg} {stl : Stall} : NextWf (execEvmc rs1 rs2 stl s) := by
  refine .next (.onCompute h (.issue h (.ite (.illegal h.leaveSendQ) (.ite h.sendTrap ?_))))
  dsimp only
  split
  next hlist => exact .leaveSendQ (h.fetchWindows.targetList hlist)
  · exact .withFlits h.fetchWindows fun _ ht => .done (.foldl ht fun _ _ hu => hu.inject)

theorem exec_evpop (h : s.LinesWf) {rd : Pair} {rs1 : Reg} {stl : Stall} : NextWf (execEvpop rd rs1 stl s) := by
  refine .next (.onCompute h (.issue h (.ite h.trap ?_)))
  split
  · exact h.done
  · exact .done h.setCore

theorem exec_sdq (h : s.LinesWf) {rd vs rs1 : Reg} {m : MaskReg} {stl : Stall} : NextWf (execSdq rd vs rs1 m stl s) := by
  refine .next (.onCompute h (.issue h ?_))
  extract_lets a tab active lanes bad
  have hbad : ∀ t u : State, t.LinesWf → bad t = some u → u.LinesWf := by
    intro t u ht e
    unfold bad at e
    split at e
    · cases e; exact .illegal ht.leaveSendQ
    · split at e
      · cases e; exact ht.sendTrap
      · split at e
        · cases e; exact ht.sendTrap
        · cases e
  clear_value bad
  refine .vec h (fun u e => ?_) (fun t rv g ht e => ?_) fun t rv ht => ?_
  · rcases Option.or_eq_some_iff.1 e with e | ⟨-, e⟩
    · exact hbad s u h e
    · obtain ⟨v, hv, rfl⟩ := Option.map_eq_some_iff.1 e
      exact .leaveSendQ (h.sdEarly hv)
  · subst e
    split
    next e => exact hbad t _ ht e
    · split
      next e => exact .leaveSendQ (ht.fetchWindows.sdLanes e)
      · split
        · exact ht.fetchWindows
        · exact ht.withFlits fun _ hu => hu
  · split
    next e => exact ht.sdLanes e
    · exact .done (.foldl ht.leaveSendQ fun _ _ hu => hu.sdSend)

theorem exec_eventArrival (h : s.LinesWf) : NextWf (execEventArrival s) := by
  unfold execEventArrival
  split
  next k p _ _ =>
    extract_lets u own src leave sent out held
    have hleave : (leave u).LinesWf := .ite (.updCore h.pop) h.pop
    clear_value sent held leave
    split
    · exact .next (.ite (.fields h.pop (by rfl)) (.ite (.fields hleave (by rfl)) h.pop))
    · split
      · exact .next h.pop
      · split
        · split
          · exact .next h.pop
          next hpkt => exact .next (.updCore (h.pop.takePacket hpkt))
        · split
          · exact .next h.pop
          · split
            · exact .next hleave.updCore
            next hpkt =>
              split at hpkt
              · exact .next (hleave.takePacket hpkt)
              · cases hpkt
  · exact .next h

theorem exec_flitHopResend (h : s.LinesWf) : NextWf (execFlitHopResend s) := by
  unfold execFlitHopResend
  split
  · exact .next (.ite h.pop (.fields h.pop (by rfl)))
  · exact .next h

theorem exec_eventParityError (h : s.LinesWf) : NextWf (execEventParityError s) := by
  unfold execEventParityError
  dsimp only
  split
  · split
    · exact .next h.pop
    · split
      · exact .next h.pop
      · exact .next (.logCore (.setCore h.pop))
  · exact .next h

theorem exec_eventDispatch (h : s.LinesWf) : NextWf (execEventDispatch s) := by
  unfold execEventDispatch
  dsimp only
  split
  · split
    · exact .next h.pop
    · split
      · exact .next (.notFresh (.updCtx (.setCore h.pop)))
      · exact .next h.pop
  · exact .next h

theorem exec_repartition (h : s.LinesWf) : NextWf (execRepartition s) := by
  unfold execRepartition
  dsimp only
  split
  · split
    · exact .next (.updCore h.pop)
    · exact .next h.pop
  · exact .next h

theorem exec_clockGate (h : s.LinesWf) : NextWf (execClockGate s) := by
  unfold execClockGate
  dsimp only
  split
  · split
    · exact .next (.updCore h.pop)
    · exact .next h.pop
  · exact .next h

/-! ### Fetches and privileged instructions (R122 to R129, R327 to R336, R344, R375) -/

theorem exec_fetchFault (h : s.LinesWf) : NextWf (execFetchFault s) := by
  unfold execFetchFault
  dsimp only
  split
  · split
    · exact .next h.pop
    · split
      · exact .next h.pop
      · exact .next (.trap (.looked h.pop))
      · exact .next (.poisonTrap h.pop)
      · exact .next (.fail h.pop)
      · exact .next (.fail h.pop)
      · exact .next (.fail h.pop)
  · exact .next h

theorem exec_illegalInstruction (h : s.LinesWf) : NextWf (execIllegalInstruction s) := by
  unfold execIllegalInstruction
  dsimp only
  split
  · split
    · exact .next (.trap h.pop)
    · exact .next h.pop
  · exact .next h

theorem takeNotice (h : s.LinesWf) {rd : Reg} {stl : Stall} : (s.takeNotice rd stl).LinesWf := by
  refine .issue h ?_
  split
  · exact h.wait
  · exact .ite h.wait (.done h.updCluster)

theorem exec_wfe (h : s.LinesWf) {rd rs1 : Reg} {stl : Stall} : NextWf (execWfe rd rs1 stl s) := by
  refine .next (.ite h.takeNotice (.issue h ?_))
  dsimp only
  split
  · exact h.done
  · exact .ite h.done h.wait

theorem exec_wfeNotice (h : s.LinesWf) : NextWf (execWfeNotice s) := by
  unfold execWfeNotice
  split
  · exact .next (.ite (.takeNotice h.pop) h.pop)
  · exact .next h

theorem pagesBack (h : s.LinesWf) {cl : Nat} {e : TlbEntry} : (s.pagesBack cl e).LinesWf :=
  .noteReady (.updCluster (.foldl h fun _ _ ht => ht.updCore))

theorem installEntry (h : s.LinesWf) {cl : Nat} {tag : Word} {e : TlbEntry} : (s.installEntry cl tag e).LinesWf :=
  .pagesBack (.tick (.foldl (.tick h.updCluster) fun _ _ ht => ht.updCore))

theorem granted (h : s.LinesWf) {bitNo : Nat} {i : Instr} {run : State → State} (hrun : (run s).LinesWf) :
    (s.granted bitNo i run).LinesWf := .ite hrun h.privilege

theorem exec_tlbw (h : s.LinesWf) {rs1 rs2 : Reg} {stl : Stall} : NextWf (execTlbw rs1 rs2 stl s) :=
  .next (.granted h (.issue h (.ite (.done h.installEntry) h.illegal)))

theorem exec_tlbinv (h : s.LinesWf) {rs1 rs2 : Reg} {stl : Stall} : NextWf (execTlbinv rs1 rs2 stl s) := by
  refine .next (.granted h (.issue h (.ite h.illegal ?_)))
  extract_lets keep cl u v
  have hv : v.LinesWf := .foldl h.updCluster fun _ _ ht => ht.updCore
  exact .ite hv.wait hv.done

/-- Whatever the act on a trapped context is, if it keeps the lines, so do its checks and its answer. -/
theorem onTrapped (h : s.LinesWf) {i : Instr} {rd rs1 : Reg} {stl : Stall} {act : State → Nat → Nat → WinTarget → State}
    (hact : ∀ k c t, (act s k c t).LinesWf) : (s.onTrapped i rd rs1 stl act).LinesWf := by
  refine .ite h.privilege (.ite h.privilege (.issue h (.ite h.done ?_)))
  split
  · exact h.done
  · exact .ite h.done (.done (hact _ _ _))

theorem exec_resume (h : s.LinesWf) {rd rs1 : Reg} {stl : Stall} : NextWf (execResume rd rs1 stl s) :=
  .next (.onTrapped h fun _ _ _ => h.updTarget)

theorem exec_kill (h : s.LinesWf) {rd rs1 : Reg} {stl : Stall} : NextWf (execKill rd rs1 stl s) := by
  refine .next (.onTrapped h fun _ _ t => ?_)
  cases t with
  | live => exact h.killTask
  | saved => exact h.updTarget

theorem exec_trapNotice (h : s.LinesWf) : NextWf (execTrapNotice s) := by
  unfold execTrapNotice
  split
  · exact .next (.updCluster h.pop)
  · exact .next h

theorem exec_serviceContextRestart (h : s.LinesWf) : NextWf (execServiceContextRestart s) := by
  unfold execServiceContextRestart
  dsimp only
  split
  · split
    · exact .next (.updCtx h.pop)
    · exact .next h.pop
  · exact .next h

theorem exec_tlbMissNotice (h : s.LinesWf) : NextWf (execTlbMissNotice s) := by
  unfold execTlbMissNotice
  dsimp only
  split
  · split
    · split
      · exact .next (.postMiss h.pop)
      · exact .next h.pop
    · exact .next h.pop
  · exact .next h

theorem exec_parkResume (h : s.LinesWf) : NextWf (execParkResume s) := by
  unfold execParkResume
  dsimp only
  split
  · split
    · split
      · exact .next h.pop
      · split
        · exact .next h.pop
        · split
          · exact .next (.ite (.updCore (.setCtx h.pop)) (.seekHalted h.pop))
          · exact .next (.updCore (.setCtx h.pop))
    · exact .next h.pop
  · exact .next h

theorem exec_freeze (h : s.LinesWf) : NextWf (execFreeze s) := by
  unfold execFreeze
  split
  · exact .next (.fields h.pop (by rfl))
  · exact .next h

theorem mapTasks (h : s.LinesWf) {lid : Nat} {f : Ctx → Ctx} : (s.mapTasks lid f).LinesWf := h

theorem exec_freezeAtTick (h : s.LinesWf) : NextWf (execFreezeAtTick s) := by
  unfold execFreezeAtTick
  dsimp only
  split
  · split
    · exact .next h.pop
    · exact .next (.mapTasks (.fields h.pop (by rfl)))
  · exact .next h

theorem exec_release (h : s.LinesWf) : NextWf (execRelease s) := by
  unfold execRelease
  dsimp only
  split
  · split
    · exact .next (.fields h.pop (by rfl))
    · exact .next h.pop
  · exact .next h

theorem exec_releaseAtTick (h : s.LinesWf) : NextWf (execReleaseAtTick s) := by
  unfold execReleaseAtTick
  dsimp only
  split
  · split
    · exact .next h.pop
    · exact .next (.fields h.pop (by rfl))
  · exact .next h

theorem exec_scanRead (h : s.LinesWf) : NextWf (execScanRead s) := by
  unfold execScanRead
  dsimp only
  split
  · split
    · exact .next h.pop
    · exact .next (.fields h.pop (by rfl))
  · split
    · exact .next (.fields h.pop (by rfl))
    · exact .next h.pop
  · exact .next h

/-! ### Barriers (R210 to R213) -/

theorem arrive (h : s.LinesWf) {b : Nat} : (s.arrive b).LinesWf := h.putBars

theorem exec_barinit (h : s.LinesWf) {rd rs1 rs2 : Reg} {stl : Stall} : NextWf (execBarinit rd rs1 rs2 stl s) :=
  .next (.issue h (.ite h.done (.done h.updCluster)))

theorem exec_bararv (h : s.LinesWf) {rd rs1 : Reg} {stl : Stall} : NextWf (execBararv rd rs1 stl s) :=
  .next (.issue h (.ite h.trap (.after h fun _ ht => .done ht.arrive)))

theorem exec_barwait (h : s.LinesWf) {rs1 rs2 : Reg} {stl : Stall} : NextWf (execBarwait rs1 rs2 stl s) :=
  .next (.issue h (.ite h.done (.ite h.trap (.ite h.done h.wait))))

theorem exec_barsync (h : s.LinesWf) {rs1 : Reg} {stl : Stall} : NextWf (execBarsync rs1 stl s) := by
  refine .next (.issue h (.ite h.done ?_))
  split
  · exact .ite h.done h.wait
  · exact .ite h.trap (.after h fun _ ht => .ite (.done ht.arrive) (.setMe ht.arrive))

/-! ### Coaches (R315, R338 to R343) -/

theorem updCoach (h : s.LinesWf) {cl : Nat} {lid : BitVec 16} {f : Coach → Coach} : (s.updCoach cl lid f).LinesWf := h

theorem updTasks (h : s.LinesWf) {cl : Nat} {c : Coach} {f : Nat → Ctx → Ctx} : (s.updTasks cl c f).LinesWf :=
  .foldl h fun _ _ ht => ht.updCore

theorem raisePreq (h : s.LinesWf) {cl : Nat} {lid : BitVec 16} : (s.raisePreq cl lid).LinesWf := by
  unfold State.raisePreq
  split
  · exact h
  · exact .ite h (.updCoach h.updTasks)

theorem withdrawPreq (h : s.LinesWf) {cl : Nat} {lid : BitVec 16} : (s.withdrawPreq cl lid).LinesWf := by
  unfold State.withdrawPreq
  split
  · exact h
  · exact .ite h (.updCoach h.updTasks)

theorem setupFor (h : s.LinesWf) {cl : Nat} {l : Launch} {lid : BitVec 16} : (s.setupFor cl l lid).LinesWf :=
  .setCluster (.ite h h.dropL1)

theorem formCoach (h : s.LinesWf) {cl : Nat} {lid : BitVec 16} {l : Launch} {slot : Nat} {tile : BitVec 48} :
    (s.formCoach cl lid l slot tile).LinesWf :=
  .foldl (.updCluster (.setupFor h.notePassed)) fun _ _ ht => ht.updCore

theorem exec_predlExpiry (h : s.LinesWf) : NextWf (execPredlExpiry s) := by
  unfold execPredlExpiry
  dsimp only
  split
  · split
    · exact .next (.setCtx h.pop)
    · exact .next h.pop
  · exact .next h

theorem exec_coachAdmission (h : s.LinesWf) : NextWf (execCoachAdmission s) := by
  unfold execCoachAdmission
  dsimp only
  split
  · split
    · split
      · exact .next h.pop
      · exact .next (.formCoach h.pop)
    · exact .next h.pop
  · exact .next h

theorem exec_coachSwap (h : s.LinesWf) : NextWf (execCoachSwap s) := by
  unfold execCoachSwap
  dsimp only
  split
  · split
    · exact .next h.pop
    · split
      · exact .next h.pop
      · exact .next (.updCoach h.pop)
  · exact .next h

theorem exec_coachSave (h : s.LinesWf) : NextWf (execCoachSave s) := by
  unfold execCoachSave
  dsimp only
  split
  · split
    · exact .next h.pop
    · split
      · exact .next h.pop
      · exact .next (.updCoach (.foldl (.forgetPads (.writeArea (.fields h.pop (by rfl)))) fun _ _ ht => ht.updCore))
  · exact .next h

theorem exec_coachReadmission (h : s.LinesWf) : NextWf (execCoachReadmission s) := by
  unfold execCoachReadmission
  dsimp only
  split
  · split
    · split
      · exact .next h.pop
      · split
        · exact .next h.pop
        · exact .next (.endCoaches (.foldl (.foldl (.updCluster (.forgetPads (.setupFor (.updCluster (.notePassed h.pop)))))
            fun _ _ ht => ht.updCore) fun _ _ ht => ht.killTask))
    · exact .next h.pop
  · exact .next h

end Sys2Proof.Machine.State.LinesWf
end

section
/-!
The tokens of the lines under the launch engine, messages between packages, remote accesses and the host (R259 to R261, R277, R306 to R309,
R316 to R324, R361 to R366).
-/

namespace Sys2Proof.Machine.State.LinesWf

variable {s : State}

/-! ### Placement of launches (R316 to R324) -/

theorem updLaunch (h : s.LinesWf) {lid : Nat} {f : Launch → Launch} : (s.updLaunch lid f).LinesWf := by
  unfold State.updLaunch
  split
  · exact h
  · exact .fields h (by rfl)

theorem reserveCluster (h : s.LinesWf) {lid cl : Nat} : (s.reserveCluster lid cl).LinesWf :=
  .updLaunch (.updCluster (.foldl h fun _ _ ht => ht.raisePreq))

theorem reserveOn (h : s.LinesWf) {lid vdn : Nat} {l : Launch} : (s.reserveOn lid vdn l).LinesWf :=
  .ite h (.foldl h fun _ _ ht => ht.reserveCluster)

theorem advance (h : s.LinesWf) {lid n : Nat} {l : Launch} : (s.advance lid n l).LinesWf :=
  .foldl h fun _ _ ht => ht.reserveOn

theorem unreserve (h : s.LinesWf) {lid : Nat} : (s.unreserve lid).LinesWf := h

theorem unplace (h : s.LinesWf) {lid : Nat} : (s.unplace lid).LinesWf :=
  .updLaunch (.unreserve (.foldl h fun _ _ ht => ht.withdrawPreq))

theorem placeOne (h : s.LinesWf) {lid n : Nat} {l : Launch} : (s.placeOne lid n l).LinesWf :=
  .ite (.updLaunch h.advance) (.ite (.fields h.unplace (by rfl)) (.updLaunch h.advance))

theorem exec_placementStep (h : s.LinesWf) : NextWf (execPlacementStep s) := by
  unfold execPlacementStep
  dsimp only
  split
  · split
    · exact .next h.pop
    · split
      · exact .next (.placeOne h.pop)
      · exact .next h.pop
      · split
        · exact .next (.placeOne (.fields h.pop (by rfl)))
        · exact .next h.pop
  · exact .next h

theorem exec_gangReadyPost (h : s.LinesWf) : NextWf (execGangReadyPost s) := by
  unfold execGangReadyPost
  dsimp only
  split
  · split
    · exact .next h.pop
    · split
      · exact .next h.pop
      · exact .next (.fields h.pop (by rfl))
  · exact .next h

theorem exec_gangReadyMessage (h : s.LinesWf) : NextWf (execGangReadyMessage s) := by
  unfold execGangReadyMessage
  dsimp only
  split
  · split
    · exact .next h.pop
    · split
      · exact .next h.pop
      · exact .next (.fields h.pop (by rfl))
  · exact .next h

theorem exec_gangDecision (h : s.LinesWf) : NextWf (execGangDecision s) := by
  unfold execGangDecision
  dsimp only
  split
  · split
    · exact .next h.pop
    · split
      · exact .next h.pop
      · exact .next (.fields h.pop (by rfl))
  · exact .next h

theorem exec_sliceStart (h : s.LinesWf) : NextWf (execSliceStart s) := by
  unfold execSliceStart
  dsimp only
  split
  · split
    · exact .next h.pop
    · split
      · exact .next h.pop
      · exact .next (.fields h.pop (by rfl))
  · exact .next h

theorem exec_sliceEnd (h : s.LinesWf) : NextWf (execSliceEnd s) := by
  unfold execSliceEnd
  dsimp only
  split
  · split
    · exact .next h.pop
    · exact .next (.foldl (.fields h.pop (by rfl)) fun _ _ ht => ht.raisePreq)
  · exact .next h

theorem exec_stageWeightUpdate (h : s.LinesWf) : NextWf (execStageWeightUpdate s) := by
  unfold execStageWeightUpdate
  dsimp only
  split
  · split
    · exact .next h.pop
    · exact .next (.updCore h.pop)
  · exact .next h

theorem exec_contextAged (h : s.LinesWf) : NextWf (execContextAged s) := by
  unfold execContextAged
  dsimp only
  split
  · split
    · exact .next (.setCtx h.pop)
    · exact .next h.pop
  · exact .next h

/-! ### Messages at the target package (R259 to R261, R277) -/

theorem takeMsg (h : s.LinesWf) {m : NetMsg} {outside : Bool} {t : State} (e : s.takeMsg m outside = some t) :
    t.LinesWf := by
  unfold State.takeMsg at e
  split at e
  · cases e; exact .fields h (by rfl)
  · split at e
    · cases e; exact h
    · cases e

theorem logRefusal (h : s.LinesWf) {src : NetSrc} {va : Nat} : (s.logRefusal src va).LinesWf := h

theorem logPoison (h : s.LinesWf) {src : NetSrc} {pa : Option Nat} : (s.logPoison src pa).LinesWf :=
  .getD_map h fun _ => h.logOn

theorem farAdd (h : s.LinesWf) {cnt n pa : Nat} : (s.farAdd cnt n pa).LinesWf := .ite h h.memWrite

theorem writeBytes (h : s.LinesWf) {put : State → Nat → Nat → State} {pas : List Nat} {bytes : List Byte}
    (hput : ∀ t a v, t.LinesWf → (put t a v).LinesWf) : (s.writeBytes put pas bytes).LinesWf :=
  .cleanPlaces (.foldl h fun _ _ ht => hput _ _ _ ht)

theorem writeAt (h : s.LinesWf) {pas : List Nat} {bytes : List Byte} : (s.writeAt pas bytes).LinesWf :=
  .writeBytes h fun _ _ _ ht => ht.memWrite
theorem putAt (h : s.LinesWf) {pas : List Nat} {bytes : List Byte} : (s.putAt pas bytes).LinesWf :=
  .writeBytes h fun _ _ _ ht => ht.engMem

theorem refuse (h : s.LinesWf) {f : FarAll} {t : State} (e : s.refuse f = some t) : t.LinesWf := by
  unfold State.refuse at e
  split at e
  · cases e; exact .send h.logRefusal
  · cases e; exact h.send
  · cases e

theorem exec_netRemoteWrite (h : s.LinesWf) : NextWf (execNetRemoteWrite s) := by
  unfold execNetRemoteWrite
  dsimp only
  split
  · split
    · exact .next h.pop
    next t htake =>
      have ht : t.LinesWf := .takeMsg h.pop htake
      split
      · exact .next h.pop
      · split
        · exact .next (.ite (.send (.farAdd (.ite (.fields ht (by rfl)) ht.putAt))) (.wantTokens h.pop))
        · exact .next h.pop
  · exact .next h.pop

theorem exec_netRemoteRead (h : s.LinesWf) : NextWf (execNetRemoteRead s) := by
  unfold execNetRemoteRead
  dsimp only
  split
  · split
    next htake _ => exact .next (.ite (.send (.holderReads (.takeMsg h.pop htake))) (.wantTokens h.pop))
    · exact .next h.pop
  · exact .next h.pop

theorem exec_redcopyBlock (h : s.LinesWf) : NextWf (execRedcopyBlock s) := by
  unfold execRedcopyBlock
  dsimp only
  split
  · split
    · exact .next h.pop
    next t htake =>
      have ht : t.LinesWf := .takeMsg h.pop htake
      split
      · exact .next ht.send
      · split
        · refine .ite (.next (.wantTokens h.pop)) (.ite (.next (.wantTokens h.pop)) (.next (.send (.farAdd ?_))))
          exact .fields (.foldl ht fun _ _ hu => hu.engMem) (by rfl)
        · exact .next h.pop
  · exact .next h.pop

theorem exec_ramoAtTarget (h : s.LinesWf) : NextWf (execRamoAtTarget s) := by
  unfold execRamoAtTarget
  dsimp only
  split
  · split
    · exact .next h.pop
    next t htake =>
      have ht : t.LinesWf := .takeMsg h.pop htake
      split
      · exact .next (.ite (.send ht.engMem) (.wantTokens h.pop))
      · exact .next (.send ht.logRefusal)
      · exact .next (.send ht.logPoison)
      · exact .next h.pop
  · exact .next h.pop

theorem exec_remoteFlatAccess (h : s.LinesWf) : NextWf (execRemoteFlatAccess s) := by
  unfold execRemoteFlatAccess
  dsimp only
  split
  · split
    · exact .next h.pop
    next t htake =>
      have ht : t.LinesWf := .takeMsg h.pop htake
      split
      · exact .next (.ite (.send ht.holderReads) (.wantTokens h.pop))
      · exact .next (.send ht.logRefusal)
      · exact .next (.send ht.logPoison)
      · exact .next h.pop
  · split
    · exact .next h.pop
    next t htake =>
      have ht : t.LinesWf := .takeMsg h.pop htake
      split
      · exact .next (.ite (.send ht.memWrite) (.wantTokens h.pop))
      · exact .next (.send ht.logRefusal)
      · exact .next h.pop
  · split
    · exact .next h.pop
    next t htake =>
      have ht : t.LinesWf := .takeMsg h.pop htake
      split
      · exact .next (.ite (.send (.foldl ht fun _ _ hu => .ite hu.memWrite hu)) (.wantTokens h.pop))
      · exact .next (.send ht.logRefusal)
      · exact .next h.pop
  · exact .next h.pop

/-! ### Answers at the sender (R254, R259, R261, R277) -/

theorem takeAnswer (h : s.LinesWf) {m : NetMsg} {r : Req} {t : State} (e : s.takeAnswer m r = some t) : t.LinesWf :=
  h.takeMsg e

theorem exec_netAck (h : s.LinesWf) : NextWf (execNetAck s) := by
  unfold execNetAck
  dsimp only
  split
  · split
    · exact .next (.ite (.fields h.pop (by rfl)) (.getD h.pop fun _ e => .takeMsg h.pop e))
    · split
      · exact .next h.pop
      next t htake =>
        have ht : t.LinesWf := .takeAnswer h.pop htake
        split
        · exact .next ht
        · split
          · exact .next (.retireReq ht.updReq)
          · exact .next (.ite ht.deliver (.fields ht.deliver (by rfl)))
  · split
    · exact .next (.getD h.pop fun _ e => .takeMsg h.pop e)
    · split
      · exact .next h.pop
      next t htake =>
        have ht : t.LinesWf := .takeAnswer h.pop htake
        split
        · exact .next ht
        · split
          · exact .next (.fields ht (by rfl))
          · split
            · exact .next (.whenOk ht fun _ hu => .deliver hu.putBytes)
            · exact .next (.whenOk (.fields ht (by rfl)) fun _ hu => hu)
  · exact .next h.pop

theorem exec_netRefusal (h : s.LinesWf) : NextWf (execNetRefusal s) := by
  unfold execNetRefusal
  split
  · dsimp only
    split
    · exact .next (.getD h.pop fun _ e => .takeMsg h.pop e)
    · split
      · exact .next h.pop
      next t htake =>
        have ht : t.LinesWf := .takeAnswer h.pop htake
        exact .next (.endCoaches (.ite (.retireReq ht.updReq) (.failReq ht.updReq)))
  · extract_lets u refuse
    have hrefuse : ∀ src x, (refuse src x).LinesWf := by
      refine fun src x => .getD h.pop fun t e => ?_
      obtain ⟨v, hv, hx⟩ := Option.bind_eq_some_iff.1 e
      exact State.LinesWf.refuse (.takeMsg h.pop hv) hx
    clear_value refuse
    split
    · exact .next (hrefuse _ _)
    · exact .next (hrefuse _ _)
    · exact .next (.ite h.pop (hrefuse _ _))
    · exact .next h.pop
  · exact .next h.pop

theorem exec_ramo (h : s.LinesWf) {rd : Reg} {rs1 rs2 : Pair} {stl : Stall} : NextWf (execRamo rd rs1 rs2 stl s) := by
  refine .next (.onCompute h (.issue h ?_))
  dsimp only
  split
  · exact h.done
  · exact .ite h.wait (.ite h.trap (.after h fun _ ht => .ite ht.wait (.setMe ht.send)))

theorem answer (h : s.LinesWf) {k c : Nat} {ok poison : Bool} {v : Word} : (s.answer k c ok poison v).LinesWf :=
  .ite (.ite h.setCtx (.ite h.setCtx (.ite h.trapCtx h.trapCtx))) h

theorem exec_ramoResponse (h : s.LinesWf) : NextWf (execRamoResponse s) := by
  unfold execRamoResponse
  dsimp only
  split
  · split
    · exact .next h.pop
    next htake => exact .next (.answer (.takeMsg h.pop htake))
  · exact .next h

theorem exec_remoteLoadResponse (h : s.LinesWf) : NextWf (execRemoteLoadResponse s) := by
  unfold execRemoteLoadResponse
  dsimp only
  split
  · split
    · exact .next h.pop
    next htake => exact .next (.answer (.takeMsg h.pop htake))
  · exact .next h

theorem takeAck (h : s.LinesWf) {k c id : Nat} {ok : Bool} {t : State} (e : s.takeAck k c id ok = some t) : t.LinesWf := by
  unfold State.takeAck at e
  dsimp only at e
  split at e
  · cases e; exact .fields h (by rfl)
  · split at e
    · cases e
    · cases e; exact h

theorem exec_remoteStoreAck (h : s.LinesWf) : NextWf (execRemoteStoreAck s) := by
  unfold execRemoteStoreAck
  dsimp only
  split
  · split
    next htake _ => exact .next (.updCtx (.takeAck h.pop htake))
    next htake _ => exact .next (.updCore (.takeAck h.pop htake))
    · exact .next h.pop
  · exact .next h

/-! ### The host and the control records (R306 to R309, R361 to R366) -/

theorem exec_activeMessage (h : s.LinesWf) : NextWf (execActiveMessage s) := by
  unfold execActiveMessage
  dsimp only
  split
  · split
    · exact .next h.pop
    next r rest _ =>
      have ht : ({ s.pop with endpoint := rest } : State).LinesWf := .fields h.pop (by rfl)
      split
      · exact .next h.pop
      · split
        · exact .next ht.logIo
        · split
          · split
            · exact .next (.fields ht (by rfl))
            · exact .next h.pop
          · split
            · exact .next ht.updCluster
            · exact .next h.pop
  · exact .next h

theorem hostRefuse (h : s.LinesWf) {qp rkey va : Nat} : (s.hostRefuse qp rkey va).LinesWf := h

theorem exec_hostRdmaWrite (h : s.LinesWf) : NextWf (execHostRdmaWrite s) := by
  unfold execHostRdmaWrite
  split
  · extract_lets u me t hold
    have ht : t.LinesWf := .fields h.pop (by rfl)
    have hhold : ∀ v : State, v.LinesWf → (hold v).LinesWf := fun _ hv => .ite hv (.fields hv (by rfl))
    clear_value t hold
    split
    · exact .next (hhold _ h.pop)
    · split
      · exact .next ht.hostRefuse
      · split
        · split
          · exact .next (hhold _ (.wantTokens h.pop))
          · exact .next (.fields ht.writeAt (by rfl))
        · exact .next ht.hostRefuse
        · exact .next (hhold _ h.pop)
  · exact .next h

theorem exec_hostRdmaRead (h : s.LinesWf) : NextWf (execHostRdmaRead s) := by
  unfold execHostRdmaRead
  dsimp only
  split
  · split
    · exact .next h.pop
    · split
      · exact .next (.hostRefuse h.pop)
      · split
        · split
          · exact .next (.fields h.pop (by rfl))
          · split
            · exact .next (.wantTokens h.pop)
            · exact .next (.fields h.pop.holderReads (by rfl))
        · exact .next (.hostRefuse h.pop)
        · exact .next h.pop
  · exact .next h

theorem exec_hostSend (h : s.LinesWf) : NextWf (execHostSend s) := by
  unfold execHostSend
  dsimp only
  split
  · split
    · exact .next (.fields h.pop (by rfl))
    · split
      · exact .next h.pop
      · split
        · exact .next (.fields h.pop (by rfl))
        · exact .next (.ite (.fields h.pop (by rfl)) (.fields h.pop (by rfl)))
  · exact .next (.fields h.pop (by rfl))
  · exact .next h

theorem exec_logForward (h : s.LinesWf) : NextWf (execLogForward s) := by
  unfold execLogForward
  dsimp only
  split
  · split
    · exact .next h.pop
    · exact .next (.fields h.pop (by rfl))
  · exact .next h

theorem answerControl (h : s.LinesWf) {r : EndpointRec} {status : Nat} : (s.answerControl r status).LinesWf :=
  .fields (.ite h h.logIo) (by rfl)

theorem register (h : s.LinesWf) {lid : Nat} {l : Launch} : (s.register lid l).LinesWf := h

theorem registerLaunch (h : s.LinesWf) {r : EndpointRec} {p : State × Option Nat} (e : s.registerLaunch r = p) :
    p.1.LinesWf := by
  subst e
  unfold State.registerLaunch
  dsimp only
  split
  · exact h
  · split
    · exact h
    · split
      · exact h.register
      · split
        · exact h
        · exact h.wantTokens
        · split
          · exact h
          · split
            · exact h
            · exact h.wantTokens
            · split
              · exact .register h.holderReads
              · exact h.holderReads

theorem exec_registerLaunch (h : s.LinesWf) : NextWf (execRegisterLaunch s) := by
  unfold execRegisterLaunch
  dsimp only
  split
  · split
    · exact .next h.pop
    · split
      · exact .next h.pop
      · split
        · exact .next (.answerControl (.fields h.pop (by rfl)))
        · split
          next hreg => exact .next (.registerLaunch h.pop hreg)
          next t status hreg =>
            have ht : t.LinesWf := .registerLaunch h.pop hreg
            exact .next (.answerControl (.fields ht (by rfl)))
  · exact .next h

theorem retire (h : s.LinesWf) {lid : Nat} : (s.retire lid).LinesWf := .fields h.unplace (by rfl)

theorem exec_retireLaunch (h : s.LinesWf) : NextWf (execRetireLaunch s) := by
  unfold execRetireLaunch
  dsimp only
  split
  · split
    · exact .next h.pop
    next r rest _ =>
      have ht : ({ s.pop with controls := rest } : State).LinesWf := .fields h.pop (by rfl)
      split
      · exact .next h.pop
      · split
        · exact .next ht.answerControl
        · split
          · exact .next ht.answerControl
          · split
            · exact .next ht.answerControl
            · exact .next (.answerControl ht.retire)
  · exact .next h

end Sys2Proof.Machine.State.LinesWf
end

section
/-!
The tokens of the lines under the messages of the token protocol, the memory tiers, links and lost dies, errors, power and the requests of
the trust protocol (R268 to R276, R351 to R360, R367 to R373).
-/

namespace Sys2Proof.Machine

theorem Line.activate_wf {l : Line} {holders : List Nat} (h : l.Wf) : (l.activate holders).Wf := by
  unfold Line.activate
  split
  · exact Line.wf_congr h rfl rfl rfl rfl
  · exact h

theorem State.giveUp_wf {s : State} {h n : Nat} {l : Line} (hl : l.Wf) : (s.giveUp h n l).Wf :=
  Line.finish_wf _ h (Line.wf_congr hl rfl rfl rfl rfl)

namespace State.LinesWf

variable {s : State}

/-! ### The token protocol (R268 to R275, R135) -/

theorem exec_reqRead (h : s.LinesWf) : NextWf (execReqRead s) := by
  unfold execReqRead
  split
  · exact .next (.updLine h.pop fun hl => Line.take_wf _ _ _ _ _ hl)
  · exact .next h

theorem exec_reqWrite (h : s.LinesWf) : NextWf (execReqWrite s) := by
  unfold execReqWrite
  split
  · exact .next (.updLine h.pop fun hl => Line.take_wf _ _ _ _ _ hl)
  · exact .next h

/-- A message of tokens is received; its tokens stay, or go on to the requester that the receiver obeys. -/
theorem exec_tokens (h : s.LinesWf) : NextWf (execTokens s) := by
  unfold execTokens
  split
  next n i _ _ =>
    extract_lets u l
    have hu : u.LinesWf := h.pop
    split
    · exact .next hu
    next m hm =>
      extract_lets t
      have ht : t.Wf := Line.finish_wf _ _ (Line.settle_wf _ (Line.receive_eraseIdx_wf l i m hm (hu n)))
      clear_value t
      split
      · exact .next (.updLine hu fun _ => Line.sendAll_wf _ _ _ ht)
      · exact .ite (.next hu) (.next (.takeLine hu fun _ => ht))
  · exact .next h

theorem exec_transientAttempt (h : s.LinesWf) : NextWf (execTransientAttempt s) := by
  unfold execTransientAttempt
  dsimp only
  split
  · refine .ite (.next h.pop) (.next (.updLine h.pop fun hl => ?_))
    have hl := Line.settle_wf _ hl
    split
    · exact hl
    · split
      · exact Line.wf_congr hl rfl rfl rfl rfl
      · split
        · exact hl
        · exact Line.wf_congr hl rfl rfl rfl rfl
  · exact .next h

theorem exec_transientTimeout (h : s.LinesWf) : NextWf (execTransientTimeout s) := by
  unfold execTransientTimeout
  split
  · extract_lets u room
    clear_value room
    refine .next (.updLine h.pop fun hl => ?_)
    dsimp only
    have hl := Line.settle_wf _ hl
    split
    · exact hl
    · split
      · exact hl
      · exact Line.wf_congr hl rfl rfl rfl rfl
  · exact .next h

theorem exec_persistReq (h : s.LinesWf) : NextWf (execPersistReq s) := by
  unfold execPersistReq
  dsimp only
  split
  · refine .next (.updLine h.pop fun hl => ?_)
    split
    · exact Line.activate_wf (Line.wf_congr hl rfl rfl rfl rfl)
    · exact hl
  · exact .next h

/-- A holder that learns of the active requester sends it its tokens. -/
theorem exec_persistOn (h : s.LinesWf) : NextWf (execPersistOn s) := by
  unfold execPersistOn
  split
  next n _ _ _ =>
    extract_lets u l
    have hu : u.LinesWf := h.pop
    split
    · exact .next hu
    next m _ =>
      refine .ite (.next hu) ?_
      extract_lets l₁ lost l₂ l₃ clear out
      have hl₁ : l₁.Wf := Line.wf_congr (hu n) rfl rfl rfl rfl
      have hl₃ : l₃.Wf := Line.finish_wf _ _ (Line.sendAll_wf _ _ _ (Line.wf_congr hl₁ rfl rfl rfl rfl))
      have hout : out.LinesWf := .tick (.updLine hu fun _ => hl₃)
      exact .ite (.next (.updLine hu fun _ => hl₁)) (.next (.fields hout (by rfl)))
  · exact .next h

theorem exec_persistOff (h : s.LinesWf) : NextWf (execPersistOff s) := by
  unfold execPersistOff
  dsimp only
  split
  · refine .next (.updLine h.pop fun hl => ?_)
    split
    · exact hl
    · split
      · exact Line.wf_congr hl rfl rfl rfl rfl
      · exact Line.wf_congr hl rfl rfl rfl rfl
  · exact .next h

theorem exec_persistDone (h : s.LinesWf) : NextWf (execPersistDone s) := by
  unfold execPersistDone
  dsimp only
  split
  · refine .next (.updLine h.pop fun hl => ?_)
    split
    · exact Line.activate_wf (State.giveUp_wf hl)
    · split
      · exact Line.wf_congr hl rfl rfl rfl rfl
      · exact Line.activate_wf (Line.wf_congr hl rfl rfl rfl rfl)
  · exact .next h

theorem exec_lineEviction (h : s.LinesWf) : NextWf (execLineEviction s) := by
  unfold execLineEviction
  dsimp only
  split
  · exact .ite (.next h.pop) (.next (.updLine h.pop fun hl => Line.sendAll_wf _ _ _ hl))
  · exact .next h

/-- Where the sequence ends, its holder answers the requests that waited for it. -/
theorem exec_constrainedSequenceLimit (h : s.LinesWf) : NextWf (execConstrainedSequenceLimit s) := by
  unfold execConstrainedSequenceLimit
  dsimp only
  split
  · split
    · exact .next h.pop
    · exact .ite (.next h.pop) (.next (.updLine h.pop fun hl => foldl_keeps Line.Wf _ (fun l a hl => Line.take_wf l _ _ _ _ hl) _ _
        (Line.wf_congr hl rfl rfl rfl rfl)))
  · exact .next h

/-! ### The memory tiers (R351 to R355) -/

theorem tierAdd (h : s.LinesWf) {p : Nat × Nat} : (s.tierAdd p).LinesWf := by
  unfold State.tierAdd
  dsimp only
  split
  · exact .ite h.memWrite (.fields h.wantTokens (by rfl))
  · exact .fields h (by rfl)
  · exact .fields h (by rfl)
  · exact h

theorem tierDone (h : s.LinesWf) {cnt asid : Nat} : (s.tierDone cnt asid).LinesWf := .ite h h.tierAdd
theorem tierRetry (h : s.LinesWf) : s.tierRetry.LinesWf := .foldl (.fields h (by rfl)) fun _ _ ht => ht.tierAdd
theorem tierDoneAll (h : s.LinesWf) {l : List (Nat × Nat)} : (s.tierDoneAll l).LinesWf := .foldl h fun _ _ ht => ht.tierDone
theorem tierBad (h : s.LinesWf) {w0 w1 w3 : Word} {asid : Nat} : (s.tierBad w0 w1 w3 asid).LinesWf := .tierDone h.logOn
theorem setTile (h : s.LinesWf) {base : Nat} {t : Tile} : (s.setTile base t).LinesWf := h

theorem promote (h : s.LinesWf) {base : Nat} {c : TierCmd} : (s.promote base c).LinesWf := by
  unfold State.promote
  split
  · exact h.setTile
  · split
    · exact .ite h.setTile h.setTile
    · exact .tierDone h.setTile
    · exact h.setTile

theorem evict (h : s.LinesWf) {base : Nat} {c : TierCmd} : (s.evict base c).LinesWf := by
  unfold State.evict
  split
  · exact h.tierDone
  · split
    · exact h.setTile
    · exact .ite h.tierDone h.setTile
    · exact .ite h.tierDone (.ite h.setTile (.tierDone h.setTile))

theorem tierAct (h : s.LinesWf) {base : Nat} {c : TierCmd} : (s.tierAct base c).LinesWf := .ite h.promote h.evict

theorem tierCommand (h : s.LinesWf) {op : Nat} {w0 w1 w2 w3 : Word} {asid : Nat} {f : State → Nat → TierCmd → State}
    (hf : ∀ base c, (f s base c).LinesWf) : (s.tierCommand op w0 w1 w2 w3 asid f).LinesWf :=
  .ite h (.ite h.tierBad (hf _ _))

theorem exec_tierPromote (h : s.LinesWf) : NextWf (execTierPromote s) := by
  unfold execTierPromote
  split
  · exact .next (.tierCommand (.tierRetry h.pop) fun _ _ => .promote (.tierRetry h.pop))
  · exact .next h

theorem exec_tierEvict (h : s.LinesWf) : NextWf (execTierEvict s) := by
  unfold execTierEvict
  split
  · exact .next (.tierCommand (.tierRetry h.pop) fun _ _ => .evict (.tierRetry h.pop))
  · exact .next h

theorem exec_tierQuery (h : s.LinesWf) : NextWf (execTierQuery s) := by
  unfold execTierQuery
  split
  · exact .next (.tierCommand (.tierRetry h.pop) fun _ _ => .tierDone (.tierRetry h.pop))
  · exact .next h

theorem exec_tileHeld (h : s.LinesWf) : NextWf (execTileHeld s) := by
  unfold execTileHeld
  dsimp only
  split
  · have hr : s.pop.tierRetry.LinesWf := .tierRetry h.pop
    split
    · exact .next hr
    · refine .ite (.next hr) ?_
      split
      · exact .next hr.want
      · refine .next (.foldl (.tierDoneAll (.setTile (.foldl hr fun _ _ ht => .takeLine ht fun _ => ?_))) fun _ _ hu => hu.tierAct)
        exact Line.accessed_wf _ _ _ (Line.own_wf _ _ none)
  · exact .next h

theorem exec_tileAbsent (h : s.LinesWf) : NextWf (execTileAbsent s) := by
  unfold execTileAbsent
  dsimp only
  split
  next base _ _ =>
    have hr : s.pop.tierRetry.LinesWf := .tierRetry h.pop
    split
    · exact .next hr
    next t _ =>
      have hhome : ((tileLines base t.geo).foldl (fun s n => s.updLine n fun l => l.goHome t.vdn) s.pop.tierRetry).LinesWf :=
        .foldl hr fun _ _ ht => .updLine ht fun hl => Line.goHome_wf _ _ hl
      exact .ite (.next hr) (.next (.foldl (.tierDoneAll (.fields hhome (by rfl))) fun _ _ hu => hu.tierAct))
  · exact .next h

/-! ### Links, lost dies, the domain (R23, R25, R356 to R360) -/

theorem logUnlisted (h : s.LinesWf) {cls unit : Nat} : (s.logUnlisted cls unit).LinesWf := .tick h.logOn

theorem setLink (h : s.LinesWf) {n : Nat} {l : Link} : (s.setLink n l).LinesWf := h

theorem exec_linkUnitReplay (h : s.LinesWf) : NextWf (execLinkUnitReplay s) := by
  unfold execLinkUnitReplay
  dsimp only
  split
  · exact .ite (.next h.pop) (.ite (.next (.setLink h.pop)) (.ite (.next (.setLink h.pop)) (.next (.logIo (.setLink h.pop)))))
  · exact .next h

theorem exec_linkRetrain (h : s.LinesWf) : NextWf (execLinkRetrain s) := by
  unfold execLinkRetrain
  dsimp only
  split
  · exact .ite (.next h.pop) (.ite (.next (.setLink h.pop)) (.next (.logIo (.setLink h.pop))))
  · exact .next h

theorem abortTask (h : s.LinesWf) {k c : Nat} : (s.abortTask k c).LinesWf := .updCore h.discardQueued

theorem abortCore (h : s.LinesWf) {k : Nat} {lid : BitVec 16} : (s.abortCore k lid).LinesWf :=
  .foldl h fun _ _ ht => ht.abortTask

theorem abortCluster (h : s.LinesWf) {cl : Nat} {lid : BitVec 16} : (s.abortCluster cl lid).LinesWf :=
  .foldl (.updCluster (.foldl h fun _ _ ht => .updCore ht.abortCore)) fun _ _ ht => ht.endBinding

theorem abortLaunch (h : s.LinesWf) {lid : BitVec 16} : (s.abortLaunch lid).LinesWf := by
  have hab : ((s.clusters.map Prod.fst).foldl (fun s cl => s.abortCluster cl lid) s).LinesWf := .foldl h fun _ _ ht => ht.abortCluster
  exact .updLaunch (.fields hab (by rfl))

theorem returnTokens (h : s.LinesWf) {vdn : Nat} : (s.returnTokens vdn).LinesWf := s.linesWf_returnTokens vdn h

theorem logAborts (h : s.LinesWf) {vdn : Nat} {lid : BitVec 16} : (s.logAborts vdn lid).LinesWf :=
  .foldl h fun _ _ ht => ht.logCore

theorem exec_dieOutOfService (h : s.LinesWf) : NextWf (execDieOutOfService s) := by
  unfold execDieOutOfService
  dsimp only
  split
  next vdn _ _ =>
    have hret : (((s.pop.dieLids vdn).foldl (fun s lid => (s.logAborts vdn lid).abortLaunch lid) s.pop).returnTokens vdn).LinesWf :=
      .returnTokens (.foldl h.pop fun _ _ ht => .abortLaunch ht.logAborts)
    have hlog : (s.pop.logUnlisted 3 0).LinesWf := .logUnlisted h.pop
    exact .ite (.next h.pop) (.ite (.next (.fields hlog (by rfl))) (.next (.fields hret (by rfl))))
  · exact .next h

theorem exec_vdnRemap (h : s.LinesWf) : NextWf (execVdnRemap s) := by
  unfold execVdnRemap
  dsimp only
  split
  next vdn _ _ _ =>
    have hret : (s.pop.returnTokens vdn).LinesWf := .returnTokens h.pop
    exact .ite (.next h.pop) (.next (.fields hret (by rfl)))
  · exact .next h

theorem exec_timeMessage (h : s.LinesWf) : NextWf (execTimeMessage s) := by
  unfold execTimeMessage
  dsimp only
  split
  · exact .ite (.next h.pop) (.next (.fields h.pop (by rfl)))
  · exact .next h

theorem exec_domainJoin (h : s.LinesWf) : NextWf (execDomainJoin s) := by
  unfold execDomainJoin
  dsimp only
  split
  · exact .ite (.next h.pop) (.next (.fields h.pop (by rfl)))
  · exact .next h

/-! ### Settings, heat, errors, power (R367 to R372) -/

theorem setting (h : s.LinesWf) {item : BudgetItem} {value : Nat} : (s.setting item value).LinesWf := by
  cases item with
  | tierWays => exact .ite (.fields h (by rfl)) h
  | ring | ringSlots => exact h.updCluster
  | _ => exact .fields h (by rfl)

theorem exec_budgetSetting (h : s.LinesWf) : NextWf (execBudgetSetting s) := by
  unfold execBudgetSetting
  split
  · exact .next (.setting h.pop)
  · exact .next h

theorem exec_budgetPeriod (h : s.LinesWf) : NextWf (execBudgetPeriod s) := by
  unfold execBudgetPeriod
  split
  · exact .next (.fields h.pop (by rfl))
  · exact .next h

theorem exec_governorPeriod (h : s.LinesWf) : NextWf (execGovernorPeriod s) := by
  unfold execGovernorPeriod
  split
  · exact .next (.fields h.pop (by rfl))
  · exact .next h

theorem exec_thermalThrottle (h : s.LinesWf) : NextWf (execThermalThrottle s) := by
  unfold execThermalThrottle
  split
  · exact .next (.fields h.pop (by rfl))
  · exact .next h

theorem exec_thermalTrip (h : s.LinesWf) : NextWf (execThermalTrip s) := by
  unfold execThermalTrip
  dsimp only
  split
  · have hlog : (s.pop.logUnlisted 3 0).LinesWf := .logUnlisted h.pop
    exact .ite (.next h.pop) (.next (.fields hlog (by rfl)))
  · exact .next h

theorem poisonWord (h : s.LinesWf) {a : Nat} : (s.poisonWord a).LinesWf := h

theorem exec_uncorrectableError (h : s.LinesWf) : NextWf (execUncorrectableError s) := by
  unfold execUncorrectableError
  dsimp only
  split
  · split
    · exact .next (.ite h.pop (.poisonWord h.pop))
    · exact .next (.ite h.pop (.ite (.poisonWord h.pop) h.pop))
    · exact .next (.ite h.pop (.ite (.poisonWord h.pop) h.pop))
    · exact .next (.ite h.pop (.updCore h.pop))
    · exact .next (.ite h.pop (.updCore h.pop))
    · exact .next (.fields h.pop (by rfl))
    · exact .next (.ite h.pop (.updCore h.pop))
    · exact .next (.ite h.pop (.updCore h.pop))
  · exact .next h

/-- R268: after reset each line has all its tokens at home. -/
theorem reset : State.reset.LinesWf := fun _ => Line.wf_atHome

theorem exec_powerOn (h : s.LinesWf) : NextWf (execPowerOn s) := by
  unfold execPowerOn
  dsimp only
  split
  · exact .next (.foldl (.fields reset (by rfl)) fun _ _ ht => ht.logUnlisted)
  · exact .next h

/-! ### The trust protocol (R373) -/

theorem spdm (h : s.LinesWf) {a : SpdmAnswer} {bytes : List Byte} : (s.spdm a bytes).LinesWf := h

theorem exec_getMeasurements (h : s.LinesWf) : NextWf (execGetMeasurements s) := by
  unfold execGetMeasurements
  dsimp only
  split
  · exact .ite (.next (.spdm h.pop)) (.next (.spdm h.pop))
  · exact .next h

end State.LinesWf

end Sys2Proof.Machine
end

section
/-!
Every step keeps the tokens of the lines (R268, R270): each instruction does, and so does what precedes it in its step (R79, R81, R82).
-/

namespace Sys2Proof.Machine

namespace State.LinesWf

variable {s : State}

/-! ### Instructions (R68) -/

theorem csrReg (h : s.LinesWf) {i : Instr} {op : CsrOp} {rd rs1 : Reg} {csr : BitVec 12} {stl : Stall} :
    (s.csrReg i op rd rs1 csr stl).LinesWf := h.csrForm
theorem csrImm (h : s.LinesWf) {i : Instr} {op : CsrOp} {rd : Reg} {csr : BitVec 12} {uimm : BitVec 5} {stl : Stall} :
    (s.csrImm i op rd csr uimm stl).LinesWf := h.csrForm

theorem vbin (h : s.LinesWf) {i : Instr} {lat w : Nat} {f : Nat → Nat → Flagged Nat} {vd vs1 vs2 : Reg} {m : MaskReg}
    {stl : Stall} : (s.vbin i lat w f vd vs1 vs2 m stl).LinesWf := h.vmap
theorem vter (h : s.LinesWf) {i : Instr} {lat w : Nat} {f : Nat → Nat → Nat → Flagged Nat} {vd vs1 vs2 : Reg} {m : MaskReg}
    {stl : Stall} : (s.vter i lat w f vd vs1 vs2 m stl).LinesWf := h.vmap
theorem vun (h : s.LinesWf) {i : Instr} {lat w : Nat} {f : Nat → Flagged Nat} {vd vs1 : Reg} {m : MaskReg} {stl : Stall} :
    (s.vun i lat w f vd vs1 m stl).LinesWf := h.vmap

theorem exec_twany (h : s.LinesWf) {rd rs1 : Reg} {stl : Stall} : NextWf (execTwany rd rs1 stl s) := by
  refine .next (.issue h (.onTagWait h fun _ => ?_))
  split
  · exact .ite h.done h.wait
  · exact h.done

theorem exec (h : s.LinesWf) (i : Instr) : NextWf (exec i s) := by
  cases i with
  | lb | lh | lw | ld | lbu | lhu | lwu => exact .next h.load
  | sb | sh | sw | sd => exact .next h.store
  | addi | andi | ori | xori | slti | sltiu | slli | srli | srai | rori | clz | ctz | popc | addiw | slliw | srliw
  | sraiw | clzw | ctzw | popcw => exact .next h.aluI
  | add | sub | and | or | xor | slt | sltu | sll | srl | sra | ror | min | max | minu | maxu | addS | subS | adduS
  | subuS | mul | mulh | mulhu | mulhsu | addw | subw | sllw | srlw | sraw | addwS | subwS | mulw => exact .next h.aluR
  | div | divu | rem | remu | divw | divuw | remw | remuw => exact .next h.aluVar
  | lui | auipc => exact .next h.aluU
  | beq | bne | blt | bge | bltu | bgeu => exact .next h.branchIf
  | jal | jalr => exact .next (.issue h h.jump)
  | prio => exact .next (.issue h h.done)
  | tarm | tclr => exact .next (.issue h (.onTags h fun _ => .done h.updCore))
  | twall => exact .next (.issue h (.onTagWait h fun _ => .ite h.done h.wait))
  | tffr => exact .next (.issue h (.onTagWait h fun _ => h.done))
  | csrrw | csrrs | csrrc => exact .next h.csrReg
  | csrrwi | csrrsi | csrrci => exact .next h.csrImm
  | ecall | ebreak => exact .next h.trap
  | fenceI => exact .next h.done
  | amoswap | amoadd | amoand | amoor | amoxor | amomin | amomax | amominu | amomaxu => exact .next h.amo
  | fence => exact .next (.ite h.fenceOn (.after h fun _ ht => ht.done))
  | fenceSc => exact .next (h.after fun _ ht => ht.done)
  | xfence => exact .next (.ite h.illegal h.fenceOn)
  | vld | vlds | vldx => exact .next h.vload
  | vst | vsts | vstx => exact .next h.vstore
  | vadd | vsub | vmul | vmulh | vmulhu | vmin | vmax | vminu | vmaxu | vand | vor | vxor | vsll | vsrl | vsra
  | vaddS | vsubS | vadduS | vsubuS | vfadd | vfsub | vfmul | vfdiv | vfmin | vfmax | vfsgnj => exact .next h.vbin
  | vmacc | vfma => exact .next h.vter
  | vsel | vbcast | vpermx | vslide => exact .next h.vmap
  | vcmpeq | vcmpne | vcmplt | vcmple | vcmpltu | vcmpleu | vfcmpeq | vfcmplt | vfcmple | vfcmpun => exact .next h.vcmp
  | vfsqrt | vfexp2 | vfabs | vfneg => exact .next h.vun
  | vcvtF32Bf16 | vcvtF32F16 | vcvtBf16F32 | vcvtF16F32 | vcvtF32E4m3 | vcvtF32E5m2 | vcvtE4m3F32 | vcvtE5m2F32
  | vcvtBf16F16 | vcvtF16Bf16 | vcvtF32I32 | vcvtF32U32 | vcvtI32F32 | vcvtU32F32 | vcvtF32I16 | vcvtF32I8
  | vcvtI16F32 | vcvtI8F32 | vcvtI32I16 | vcvtI32I8 | vcvtI16I32 | vcvtI8I32 => exact .next h.cvt
  | vredsum | vredmin | vredmax | vredminu | vredmaxu | vfredsum | vfredmin | vfredmax => exact .next h.vred
  | vscan | vfscan | vcompress => exact .next h.vscanAs
  | vmand | vmor | vmxor | vmandn | vmnot | vxtom => exact .next h.maskOp
  | vmpopc | vmfirst | vmtox => exact .next h.maskToX
  | cpushnb | gather | scatadd | bin | get | put | redcopy => exact .next h.request
  | chtabWrite | genWrite | stlchkWrite | fflagsAccess | asidWrite | trappairWrite | ctxwinWrite | regnWrite
  | csrWrite =>
    delta Sys2Proof.Machine.exec
    dsimp only [execChtabWrite, execGenWrite, execStlchkWrite, execFflagsAccess,
      execAsidWrite, execTrappairWrite, execCtxwinWrite, execRegnWrite, execCsrWrite]
    split
    · exact .next h.csrRow
    · exact .next h
  | getVersion | getCapabilities | negotiateAlgorithms | getDigests | getCertificate | challenge =>
    delta Sys2Proof.Machine.exec
    dsimp only [execGetVersion, execGetCapabilities, execNegotiateAlgorithms, execGetDigests,
      execGetCertificate, execChallenge]
    split
    · exact .next (.spdm h.pop)
    · exact .next h
  | wfe => exact h.exec_wfe
  | tlbw => exact h.exec_tlbw
  | tlbinv => exact h.exec_tlbinv
  | resume => exact h.exec_resume
  | kill => exact h.exec_kill
  | lr => exact h.exec_lr
  | sc => exact h.exec_sc
  | vextr => exact h.exec_vextr
  | vins => exact h.exec_vins
  | sbind => exact h.exec_sbind
  | sclose => exact h.exec_sclose
  | evsend => exact h.exec_evsend
  | evsendnb => exact h.exec_evsendnb
  | evpop => exact h.exec_evpop
  | evmc => exact h.exec_evmc
  | sdq => exact h.exec_sdq
  | exit => exact h.exec_exit
  | spawn => exact h.exec_spawn
  | migr => exact h.exec_migr
  | yield => exact h.exec_yield
  | jobcard => exact h.exec_jobcard
  | barinit => exact h.exec_barinit
  | bararv => exact h.exec_bararv
  | barwait => exact h.exec_barwait
  | barsync => exact h.exec_barsync
  | twany => exact h.exec_twany
  | cntwaitge => exact h.exec_cntwaitge
  | mset => exact h.exec_mset
  | mget => exact h.exec_mget
  | mloadw => exact h.exec_mloadw
  | mmul => exact h.exec_mmul
  | evmac => exact h.exec_evmac
  | mdrain => exact h.exec_mdrain
  | mzero => exact h.exec_mzero
  | mchk => exact h.exec_mchk
  | cpush => exact h.exec_cpush
  | ramo => exact h.exec_ramo
  | wfeNotice => exact h.exec_wfeNotice
  | streamPrefetch => exact h.exec_streamPrefetch
  | jobCardDeal => exact h.exec_jobCardDeal
  | cardTaskStart => exact h.exec_cardTaskStart
  | matrixOpStart => exact h.exec_matrixOpStart
  | mmulGroupCommit => exact h.exec_mmulGroupCommit
  | drainRow => exact h.exec_drainRow
  | drainDispatch => exact h.exec_drainDispatch
  | rowDeparture => exact h.exec_rowDeparture
  | engineRequestStart => exact h.exec_engineRequestStart
  | tagPost => exact h.exec_tagPost
  | copyBytesWritten => exact h.exec_copyBytesWritten
  | counterAdd => exact h.exec_counterAdd
  | requestHalt => exact h.exec_requestHalt
  | requestResume => exact h.exec_requestResume
  | requestAccessFault => exact h.exec_requestAccessFault
  | gatherSnapshot => exact h.exec_gatherSnapshot
  | scataddUpdate => exact h.exec_scataddUpdate
  | netRemoteWrite => exact h.exec_netRemoteWrite
  | netRemoteRead => exact h.exec_netRemoteRead
  | netAck => exact h.exec_netAck
  | netRefusal => exact h.exec_netRefusal
  | redcopyBlock => exact h.exec_redcopyBlock
  | ramoAtTarget => exact h.exec_ramoAtTarget
  | ramoResponse => exact h.exec_ramoResponse
  | remoteFlatAccess => exact h.exec_remoteFlatAccess
  | remoteLoadResponse => exact h.exec_remoteLoadResponse
  | remoteStoreAck => exact h.exec_remoteStoreAck
  | eventArrival => exact h.exec_eventArrival
  | clockGate => exact h.exec_clockGate
  | flitHopResend => exact h.exec_flitHopResend
  | eventParityError => exact h.exec_eventParityError
  | eventDispatch => exact h.exec_eventDispatch
  | repartition => exact h.exec_repartition
  | trapNotice => exact h.exec_trapNotice
  | serviceContextRestart => exact h.exec_serviceContextRestart
  | tlbMissNotice => exact h.exec_tlbMissNotice
  | parkResume => exact h.exec_parkResume
  | coachSwap => exact h.exec_coachSwap
  | coachSave => exact h.exec_coachSave
  | coachReadmission => exact h.exec_coachReadmission
  | recordArrival => exact h.exec_recordArrival
  | ringReturn => exact h.exec_ringReturn
  | bankRecordWithdrawn => exact h.exec_bankRecordWithdrawn
  | recordStart => exact h.exec_recordStart
  | coachAdmission => exact h.exec_coachAdmission
  | placementStep => exact h.exec_placementStep
  | predlExpiry => exact h.exec_predlExpiry
  | gangReadyPost => exact h.exec_gangReadyPost
  | gangReadyMessage => exact h.exec_gangReadyMessage
  | gangDecision => exact h.exec_gangDecision
  | sliceStart => exact h.exec_sliceStart
  | sliceEnd => exact h.exec_sliceEnd
  | stageWeightUpdate => exact h.exec_stageWeightUpdate
  | contextAged => exact h.exec_contextAged
  | activeMessage => exact h.exec_activeMessage
  | logForward => exact h.exec_logForward
  | hostSend => exact h.exec_hostSend
  | hostRdmaWrite => exact h.exec_hostRdmaWrite
  | hostRdmaRead => exact h.exec_hostRdmaRead
  | registerLaunch => exact h.exec_registerLaunch
  | retireLaunch => exact h.exec_retireLaunch
  | reqRead => exact h.exec_reqRead
  | reqWrite => exact h.exec_reqWrite
  | tokens => exact h.exec_tokens
  | transientTimeout => exact h.exec_transientTimeout
  | persistReq => exact h.exec_persistReq
  | persistOn => exact h.exec_persistOn
  | persistOff => exact h.exec_persistOff
  | persistDone => exact h.exec_persistDone
  | lineEviction => exact h.exec_lineEviction
  | tierPromote => exact h.exec_tierPromote
  | tierEvict => exact h.exec_tierEvict
  | tierQuery => exact h.exec_tierQuery
  | tileHeld => exact h.exec_tileHeld
  | tileAbsent => exact h.exec_tileAbsent
  | freeze => exact h.exec_freeze
  | freezeAtTick => exact h.exec_freezeAtTick
  | release => exact h.exec_release
  | releaseAtTick => exact h.exec_releaseAtTick
  | scanRead => exact h.exec_scanRead
  | linkUnitReplay => exact h.exec_linkUnitReplay
  | linkRetrain => exact h.exec_linkRetrain
  | dieOutOfService => exact h.exec_dieOutOfService
  | timeMessage => exact h.exec_timeMessage
  | domainJoin => exact h.exec_domainJoin
  | budgetPeriod => exact h.exec_budgetPeriod
  | governorPeriod => exact h.exec_governorPeriod
  | thermalThrottle => exact h.exec_thermalThrottle
  | thermalTrip => exact h.exec_thermalTrip
  | uncorrectableError => exact h.exec_uncorrectableError
  | powerOn => exact h.exec_powerOn
  | getMeasurements => exact h.exec_getMeasurements
  | illegalInstruction => exact h.exec_illegalInstruction
  | fetchFault => exact h.exec_fetchFault
  | transientAttempt => exact h.exec_transientAttempt
  | constrainedSequenceLimit => exact h.exec_constrainedSequenceLimit
  | vdnRemap => exact h.exec_vdnRemap
  | spareColumnSubstitution => exact h.exec_spareColumnSubstitution
  | budgetSetting => exact h.exec_budgetSetting

/-! ### The issuing context (R77 to R82, R122, R135, R254) -/

theorem timePasses (h : s.LinesWf) : s.timePasses.LinesWf := h
theorem coreCycle (h : s.LinesWf) {k c : Nat} : (s.coreCycle k c).LinesWf := h

theorem turn (h : s.LinesWf) : s.turn.LinesWf := by
  unfold State.turn
  split
  · exact h
  · exact .fields h (by rfl)

theorem resumeRequests (h : s.LinesWf) {k c : Nat} : (s.resumeRequests k c).LinesWf := .ite (.updCtx h.updCore) h

theorem begin (h : s.LinesWf) {c : Nat} : (s.begin c).LinesWf :=
  .setMe (.ite (.resumeRequests (.fields h (by rfl))) (.fields h (by rfl)))

theorem noteFetch (h : s.LinesWf) : s.noteFetch.LinesWf := by
  unfold State.noteFetch
  dsimp only
  split
  · exact .tokenRead h.tlbCopy
  · exact h

theorem countSequence (h : s.LinesWf) {i : Instr} : (s.countSequence i).LinesWf := by
  unfold State.countSequence
  split
  · exact h
  · exact h
  · exact h
  · split
    · exact h.mapLines fun _ _ hl => Line.wf_congr hl rfl rfl rfl rfl
    · exact h.letGo

theorem push (h : s.LinesWf) {e : Event} : (s.push e).LinesWf := h

theorem instrOf (h : s.LinesWf) {w : BitVec 32} : (s.instrOf w).2.LinesWf := by
  unfold State.instrOf
  split
  · exact h.push
  · split
    · exact h.push
    · split
      · exact h.push
      · exact h
    · exact h

theorem nextInstr (h : s.LinesWf) : s.nextInstr.2.LinesWf := by
  unfold State.nextInstr
  split
  · exact .instrOf h.noteFetch
  · exact h.push

theorem leaveQueues (h : s.LinesWf) : s.leaveQueues.LinesWf := .updCore h.leaveSendQ

/-- A step that ends without an instruction, the context at rest or parked. -/
theorem issueNow_rest (h : s.LinesWf) {t : State} (e : s.issueNow = .rest t) : t.LinesWf := by
  have hturn : s.turn.timePasses.LinesWf := .timePasses h.turn
  unfold State.issueNow at e
  dsimp only at e
  split at e
  · cases e; exact hturn.coreCycle
  · split at e
    · cases e
      exact .park (.setMe (.leaveQueues (.fields (s := s.turn.timePasses) hturn (by rfl))))
    · cases e

/-- The state in which the instruction of a step executes. -/
theorem issueNow_run (h : s.LinesWf) {i : Instr} {t : State} (e : s.issueNow = .run i t) : t.LinesWf := by
  have hturn : s.turn.timePasses.LinesWf := .timePasses h.turn
  unfold State.issueNow at e
  dsimp only at e
  split at e
  · cases e
  · split at e
    · cases e
    · cases e
      exact .countSequence (.nextInstr (.begin (.coreCycle (.setCore hturn))))

theorem step (h : s.LinesWf) : NextWf (step s) := by
  unfold Sys2Proof.Machine.step
  split
  · split
    · exact fun _ e => nomatch e
    · exact h.exec _
  · split
    · exact fun _ e => nomatch e
    · split
      next hrest => exact .next (h.issueNow_rest hrest)
      next hrun => exact .exec (h.issueNow_run hrun) _

end State.LinesWf

/-- Settles O60: at reset every line is the home's, and every step keeps the tokens of the lines, since each operation of the model that
changes lines does: those of the token protocol, and the save area, a lost die and power-on, which leave tokens at the home. -/
theorem stepsKeepTokens : Obligations.StepsKeepTokens := by
  unfold Obligations.StepsKeepTokens
  exact ⟨fun _ => ⟨rfl, rfl, List.mem_singleton_self _⟩, fun _ t h e => h.step t e⟩

end Sys2Proof.Machine
end
